-- ==== Sys2Proof/Word.lean ====
section
/-! DEFINITION. The words of the KR8 and their plainest arithmetic (00 R6, R11, R12). -/

namespace Sys2Proof

/-- A byte (R6). -/
abbrev Byte := BitVec 8
/-- A 16-bit instruction word (R29). -/
abbrev Half := BitVec 16
/-- One lane's 32 register rows (R157). -/
abbrev Row32 := BitVec 32
/-- A g register (R124). -/
abbrev Word := BitVec 64

/-- Number of a g register (R124). -/
abbrev GReg := BitVec 5
/-- Number of a v register (R157). -/
abbrev VReg := BitVec 5
/-- Number of an m register (R157). -/
abbrev MReg := BitVec 3
/-- Number of an accumulator (R264). -/
abbrev AReg := BitVec 3

/-- `trunc64` of R12: an integer modulo 2^64 as a pattern. -/
def trunc64 (x : Int) : Word := BitVec.ofInt 64 x

/-- Bit n of a word as a Bool. -/
def bitOf {w : Nat} (x : BitVec w) (n : Nat) : Bool := x.getLsbD n

/-- NAME[hi:lo] as a number (R6), given lo and the field's width. -/
def fld {w : Nat} (x : BitVec w) (lo width : Nat) : Nat := (x.toNat >>> lo) % 2 ^ width

end Sys2Proof
end

