-- ==== Sys2Proof/Types.lean ====
section
/-! DEFINITION. The kinds of operand an instruction carries, and what an event of the outside world carries. -/

namespace Sys2Proof

/-- The scope codes of R35 and R371. -/
inductive Scope where
  | thread | core | cluster | die | package | system | row
  deriving DecidableEq, Repr

/-- The FS size codes of R35. -/
inductive Size where
  | b | h | w | d
  deriving DecidableEq, Repr

/-- The PM operand of a vector instruction (R42): with `en`, elements whose bit in m[`reg`] is 1, or 0 when `inv`. -/
structure VMask where
  en  : Bool
  inv : Bool
  reg : MReg
  deriving DecidableEq, Repr

/-- Why a task is pre-empted (R445, the WHY codes of R448). -/
inductive PreWhy where
  | curtain | deadline | prodctl
  deriving DecidableEq, Repr

/-- Where a seal check fails (R436). Lines and blocks are named by their first byte. -/
inductive SealSite where
  /-- core `c`'s clean copy of line `pa`, or one in transit to it; `again` says that the refetched copy failed too -/
  | copy (c pa : Nat) (again : Bool)
  /-- a dirty copy of line `pa` in core `c`'s L2 -/
  | dirty (c pa : Nat)
  /-- the home copy of line `pa` -/
  | home (pa : Nat)
  /-- scratch block at offset `off` of production `prod` on core `c` -/
  | scratch (c prod off : Nat)
  /-- no line: a row of an array that did not read back as zero after it was zeroed (R161, R163, R441) -/
  | zeroed
  deriving DecidableEq, Repr

/-- A resource instance of R441: its class and its number within the class. The cluster is the one whose local
cycles count its window (R442). -/
structure Resource where
  cls     : Nat
  inst    : Nat
  cluster : Nat
  deriving DecidableEq, Repr

/-- A line record of a stage-door packet (R456). -/
structure LineRec where
  mask : BitVec 32
  data : List Byte
  crc  : BitVec 16
  deriving DecidableEq, Repr

/-- A stage-door packet after the checks of R453 (R456). An event's packet has the kind its row names. -/
structure Packet where
  kind   : Nat
  rel    : Bool
  conn   : Nat
  psn    : Nat
  ackpsn : Nat
  win    : Nat
  key    : Nat
  offset : Nat
  len    : Nat
  tag    : Nat
  status : Nat
  recs   : List LineRec
  deriving DecidableEq, Repr

/-- A RoCE v2 message on connection `conn` (R460): R_Key, virtual offset, data and, for a READ, the length. -/
structure RoceMsg where
  conn   : Nat
  psn    : Nat
  rkey   : Nat
  offset : Nat
  len    : Nat
  data   : List Byte
  deriving DecidableEq, Repr

/-- What a bring-up stage finds in the physical part, the failing lane groups and near-store blocks by core among it, and the
microsecond at which it ends (R476, R479, R370). `error` is 0, 5, 6 or 8. -/
structure StageFind where
  error    : Nat
  groups   : List (Nat × Nat)
  blocks   : List (Nat × Nat)
  temps    : List Nat
  shelf    : Bool
  time     : Nat
  deriving DecidableEq, Repr

/-- What one POWER_CONTROL_TICK sets on one core and its cluster (R405, R408): boost permitted, chaining pairs
withdrawn, strip slots, lanes at half rate, vector-memory rate divisor, clock step in 0.3125 GHz units. -/
structure Handles where
  boostOk : Bool
  chOff   : BitVec 4
  slots   : Nat
  half    : Bool
  vmuDiv  : Nat
  clock   : Nat
  deriving DecidableEq, Repr

/-- The operands read from an F3 or FV word and its prefixes. -/
structure F3Fields where
  d : BitVec 5
  a : BitVec 5
  b : BitVec 5
  c : BitVec 4
  k : VMask
  deriving DecidableEq, Repr

/-- The instructions that enter a context's vector queue (R211, R238, R348; 10, 11), by their rows of the table. -/
inductive VOp where
  | vadd | vsub | vand | vor | vxor | vandn | vmin | vmax | vminu | vmaxu
  | vmul | vmulh | vsll | vsrl | vsra | vmulhu | vsadd | vssub | vsaddu | vssubu
  | vmacc | vnmsac | vaddS | vsubS | vrsubS | vandS | vorS | vxorS | vminS | vmaxS
  | vsllS | vsrlS | vsraS | vmulS | vmv | vmvS | vid | vsel | vneg | vabs
  | vnot | vpopc | vclz | vctz | vsext | vzext | vceq | vcne | vclt | vcltu
  | vcle | vcleu | vceqS | vcltS | mand | mor | mxor | mandn | mnot | mmv
  | mset | mclr | mpopc | mfirst | msbf | msif | vslideup | vslidedn | vslideupS | vslidednS
  | vxchg | vcompress | vexpand | vperm | vgath8 | vconflict | vmatch | vprobe | vredsum | vredmax
  | vredmin | vredmaxu | vredand | vredor | vredxor | vredminu | vfadd | vfsub | vfmul | vfdiv
  | vfmin | vfmax | vfsgnj | vfsqrt | vfma | vfms | vfnma | vfnms | vfaddS | vfsubS
  | vfmulS | vfrsubS | vfabs | vfneg | vfclass | vfround | vfceq | vfclt | vfcle | vfcun
  | vfcvt | vf2i | vi2f | vf2iT | vqamax | vqscale | vqpack | vqunpack | vfwht | vsfu
  | vfredsumO | vfredsumT | vfredmax | vfredmin | vfdotO | vhktest | vhksel | vhkcnt | vtopk | vld
  | vst | vlds | vsts | vldx | vstx | vldff | vstxa | vldw | vldrow | vstrow
  | vamorow | vldsync | pload | prow | mma | mmav | pgang | vdcfg | pbnd | ptree
  | tmma | tzero | tld | tst | tacc | trow
  deriving DecidableEq, Repr

namespace Scope

/-- The scope's code (R35). -/
def code : Scope → BitVec 3
  | thread => 0 | core => 1 | cluster => 2 | die => 3 | package => 4 | system => 5 | row => 6

/-- The scope of a code; code 7 is illegal (R44). -/
def ofCode (c : BitVec 3) : Option Scope :=
  match c.toNat with
  | 0 => some thread | 1 => some core | 2 => some cluster | 3 => some die
  | 4 => some package | 5 => some system | 6 => some row | _ => none

/-- How wide a scope is; row orders as package (R147, R148). -/
def rank : Scope → Nat
  | thread => 0 | core => 1 | cluster => 2 | die => 3 | package => 4 | system => 5 | row => 4

@[simp] theorem ofCode_code (s : Scope) : ofCode s.code = some s := by cases s <;> rfl

end Scope

namespace Size

/-- The size's code (R35). -/
def code : Size → BitVec 2
  | b => 0 | h => 1 | w => 2 | d => 3

/-- The size of a code (R35). -/
def ofCode (c : BitVec 2) : Size :=
  match c.toNat with
  | 0 => b | 1 => h | 2 => w | _ => d

/-- Bytes of a size. -/
def bytes : Size → Nat
  | b => 1 | h => 2 | w => 4 | d => 8

@[simp] theorem ofCode_code (s : Size) : ofCode s.code = s := by cases s <;> rfl

end Size

/-- No PM prefix, or PM with MEN = 0: the instruction is unmasked (R42). -/
def VMask.all : VMask := ⟨false, false, 0⟩

end Sys2Proof
end

