-- ==== Sys2Proof/Machine/Numbers.lean ====
section
/-! DEFINITION. Numbers as stored: every format, rounding mode and flag of 03_numbers.md, computed exactly on dyadic
numbers. -/

namespace Sys2Proof.Machine

/-- A number: a NaN, an infinity, or (−1)^neg × m × 2^e. Quotients and roots that are not dyadic carry a last bit 1 far
below every rounding position. -/
inductive Num where
  | nan (signalling : Bool)
  | inf (neg : Bool)
  | fin (neg : Bool) (m : Nat) (e : Int)
  deriving DecidableEq, Repr

/-- Which patterns of the top exponent are special (R64, R66): IEEE; E5M2, whose NaNs are all quiet; E4M3, whose one
NaN is all ones; E2M1, which has neither. -/
inductive Specials where
  | ieee | e5m2 | e4m3 | e2m1
  deriving DecidableEq, Repr

/-- A float format: exponent bits, fraction bits, bias, specials (R64, R66). -/
structure FloatFmt where
  eb   : Nat
  fb   : Nat
  bias : Nat
  sp   : Specials
  deriving DecidableEq, Repr

/-- A rounding mode (R67). -/
inductive RMode where
  | rne | rtz | rdn | rup | rmm | sr
  deriving DecidableEq, Repr

/-- What a rounding runs under: the mode, VTYPE.SAT, VTYPE.FTZ, and the exponent of the computation format's smallest
normal (R76, R77). -/
structure Rounding where
  mode : RMode
  sat  : Bool
  ftz  : Bool
  cmin : Int
  deriving DecidableEq, Repr

/-- The flags raised so far and the state of the element's generator (R70, R72). -/
structure NumSt where
  flags : BitVec 6
  rng   : BitVec 32
  deriving DecidableEq, Repr

/-- binary16 (R64). -/
def fp16 : FloatFmt := ⟨5, 10, 15, .ieee⟩
/-- binary32 (R64). -/
def fp32 : FloatFmt := ⟨8, 23, 127, .ieee⟩
/-- binary64 (R64). -/
def fp64 : FloatFmt := ⟨11, 52, 1023, .ieee⟩
/-- BF16 (R64). -/
def bf16 : FloatFmt := ⟨8, 7, 127, .ieee⟩
/-- FP8 E4M3 (R66). -/
def e4m3 : FloatFmt := ⟨4, 3, 7, .e4m3⟩
/-- FP8 E5M2 (R66). -/
def e5m2 : FloatFmt := ⟨5, 2, 15, .e5m2⟩
/-- The MXFP4 element (R66). -/
def e2m1 : FloatFmt := ⟨2, 1, 1, .e2m1⟩

/-- The float format of a format code (R61). -/
def floatFmt (code : Nat) : Option FloatFmt :=
  match code with
  | 2 => some fp16 | 3 => some fp32 | 4 => some fp64 | 5 => some bf16 | 6 => some e4m3 | 7 => some e5m2
  | _ => none

/-- The mode of a code; codes 6 and 7 are never in force (R67). -/
def rmode (code : Nat) : RMode :=
  match code with
  | 1 => .rtz | 2 => .rdn | 3 => .rup | 4 => .rmm | 5 => .sr | _ => .rne

/-- SR rounds RNE where no element's stream exists: scalar instructions, reductions, product mode (R67, R70). -/
def noSr (m : RMode) : RMode := if m = .sr then .rne else m

/-- FFLAGS.NX (R72). -/
def flagNX : BitVec 6 := 1
/-- FFLAGS.UF (R72). -/
def flagUF : BitVec 6 := 2
/-- FFLAGS.OF (R72). -/
def flagOF : BitVec 6 := 4
/-- FFLAGS.DZ (R72). -/
def flagDZ : BitVec 6 := 8
/-- FFLAGS.NV (R72). -/
def flagNV : BitVec 6 := 16
/-- FFLAGS.ZRANGE (R72). -/
def flagZRANGE : BitVec 6 := 32

/-- A flag raised or not. -/
def flagIf (b : Bool) (f : BitVec 6) : BitVec 6 := if b then f else 0

/-- Width of a pattern. -/
def fmtWidth (f : FloatFmt) : Nat := 1 + f.eb + f.fb
/-- Exponent of the smallest normal (R64). -/
def fmtMin (f : FloatFmt) : Int := 1 - (f.bias : Int)
/-- Exponent of a subnormal's last bit. -/
def fmtQuantum (f : FloatFmt) : Int := fmtMin f - f.fb
/-- Pattern of the largest finite magnitude (R64, R66). -/
def fmtMaxPat (f : FloatFmt) : Nat :=
  match f.sp with
  | .ieee | .e5m2 => (2 ^ f.eb - 1) * 2 ^ f.fb - 1
  | .e4m3 => 2 ^ (f.eb + f.fb) - 2
  | .e2m1 => 2 ^ (f.eb + f.fb) - 1
/-- Pattern of +∞ where there is one. -/
def fmtInfPat (f : FloatFmt) : Nat := (2 ^ f.eb - 1) * 2 ^ f.fb
/-- The canonical quiet NaN, sign 0 (R64, R66). -/
def fmtNan (f : FloatFmt) : Nat :=
  match f.sp with
  | .ieee => fmtInfPat f + 2 ^ (f.fb - 1)
  | .e5m2 => fmtInfPat f + 2
  | .e4m3 => 2 ^ (f.eb + f.fb) - 1
  | .e2m1 => 0
/-- Whether the format has infinities (R66). -/
def fmtHasInf (f : FloatFmt) : Bool :=
  match f.sp with
  | .ieee | .e5m2 => true
  | _ => false
/-- A sign over a magnitude pattern. -/
def withSign (f : FloatFmt) (neg : Bool) (p : Nat) : Nat := if neg then 2 ^ (f.eb + f.fb) + p else p

/-- Magnitude pattern to value: a code counts quanta within its binade (R64, R66). -/
def magOf (f : FloatFmt) (p : Nat) : Nat × Int :=
  let ef := p / 2 ^ f.fb
  let fr := p % 2 ^ f.fb
  if ef = 0 then (fr, fmtQuantum f) else (2 ^ f.fb + fr, fmtQuantum f + (ef - 1 : Nat))

/-- The value of a pattern (R64, R66). -/
def decNum (f : FloatFmt) (x : Nat) : Num :=
  let neg := x / 2 ^ (f.eb + f.fb) % 2 == 1
  let p := x % 2 ^ (f.eb + f.fb)
  let ef := p / 2 ^ f.fb
  let fr := p % 2 ^ f.fb
  let top := ef == 2 ^ f.eb - 1
  let value := Num.fin neg (magOf f p).1 (magOf f p).2
  match f.sp with
  | .ieee => if top then (if fr = 0 then .inf neg else .nan (fr / 2 ^ (f.fb - 1) == 0)) else value
  | .e5m2 => if top then (if fr = 0 then .inf neg else .nan false) else value
  | .e4m3 => if p = 2 ^ (f.eb + f.fb) - 1 then .nan false else value
  | .e2m1 => value

/-- An FP32 hook (R87). -/
def isHook (x : Nat) : Bool := x / 2 ^ 21 % 1024 == 0b1111111101

/-- A whole number. -/
def numOfInt (x : Int) : Num := .fin (x < 0) x.natAbs 0

/-- ⌊log2⌋ of a non-zero magnitude. -/
def floorLog2 (m : Nat) (e : Int) : Int := e + Nat.log2 m
/-- ⌈log2⌉ of a non-zero magnitude. -/
def ceilLog2 (m : Nat) (e : Int) : Int := if m = 2 ^ Nat.log2 m then e + Nat.log2 m else e + Nat.log2 m + 1
/-- Whether m1 × 2^e1 ≤ m2 × 2^e2. -/
def magLe (m1 : Nat) (e1 : Int) (m2 : Nat) (e2 : Int) : Bool :=
  if e1 ≤ e2 then decide (m1 ≤ m2 * 2 ^ (e2 - e1).toNat) else decide (m1 * 2 ^ (e1 - e2).toNat ≤ m2)
/-- ⌈log2(m × 2^e ÷ k)⌉ for non-zero m and k. -/
def ceilLog2Div (m : Nat) (e : Int) (k : Nat) : Int :=
  let t := floorLog2 m e - Nat.log2 k
  if magLe m e k t then t else t + 1

/-- One step of the xorshift generator (R70). -/
def rngStep (s : BitVec 32) : BitVec 32 :=
  let a := s ^^^ (s <<< 13)
  let b := a ^^^ (a >>> 17)
  b ^^^ (b <<< 5)

/-- The generator of element `i` under seed `s` (R70). -/
def rngSeed (s : Word) (i : Nat) : BitVec 32 :=
  let x := s.setWidth 32 ^^^ (s >>> 32).setWidth 32 ^^^ BitVec.ofNat 32 ((i + 1) * 0x9E3779B9)
  if x = 0 then 1 else x

/-- No flag raised, element `i`'s generator at its start. -/
def numSt (seed : Word) (i : Nat) : NumSt := ⟨0, rngSeed seed i⟩

/-- Raise flags. -/
def raiseN (st : NumSt) (f : BitVec 6) : NumSt := { st with flags := st.flags ||| f }

/-- The next drawn value when a rounding under SR is not exact (R70). -/
def draw (mode : RMode) (inexact : Bool) (st : NumSt) : Nat × NumSt :=
  if mode = .sr ∧ inexact then
    let r := rngStep st.rng
    (r.toNat, { st with rng := r })
  else (0, st)

/-- m ÷ 2^s rounded to a whole number; `r` is the drawn value under SR (R67, R70). -/
def roundShift (mode : RMode) (neg : Bool) (m s r : Nat) : Nat :=
  let lo := m / 2 ^ s
  let rem := m % 2 ^ s
  if rem = 0 then lo else
  let up : Bool :=
    match mode with
    | .rne => decide (rem * 2 > 2 ^ s) || (decide (rem * 2 = 2 ^ s) && lo % 2 == 1)
    | .rtz => false
    | .rdn => neg
    | .rup => !neg
    | .rmm => decide (rem * 2 ≥ 2 ^ s)
    | .sr => decide (r < rem * 2 ^ 32 / 2 ^ s)
  if up then lo + 1 else lo

/-- m × 2^e in units of 2^q, rounded. -/
def roundTo (mode : RMode) (neg : Bool) (m : Nat) (e q : Int) (r : Nat) : Nat :=
  if q ≤ e then m * 2 ^ (e - q).toNat else roundShift mode neg m (q - e).toNat r

/-- Whether m × 2^e is no whole multiple of 2^q. -/
def inexactAt (m : Nat) (e q : Int) : Bool := decide (e < q) && m % 2 ^ (q - e).toNat != 0

/-- The pattern an overflow delivers (R75). -/
def overflowPat (f : FloatFmt) (c : Rounding) (neg : Bool) : Nat :=
  let wide : Bool := f == fp32 || f == fp64
  let big := withSign f neg (fmtMaxPat f)
  let infp := withSign f neg (fmtInfPat f)
  match f.sp with
  | .e2m1 => big
  | .e4m3 => if c.sat then big else fmtNan f
  | _ =>
    if c.sat && !wide then big else
    match c.mode with
    | .rtz => big
    | .rdn => if neg then infp else big
    | .rup => if neg then big else infp
    | _ => infp

/-- `encode` of R12: a number rounded into a float format, with its flags (R69, R73, R75, R77). -/
def encNum (f : FloatFmt) (c : Rounding) (x : Num) (st : NumSt) : Nat × NumSt :=
  match x with
  | .nan s => (fmtNan f, raiseN st (flagIf s flagNV))
  | .inf neg =>
    if fmtHasInf f then (withSign f neg (fmtInfPat f), st)
    else (overflowPat f c neg, raiseN st (flagOF ||| flagNX))
  | .fin neg m e =>
    if m = 0 then (withSign f neg 0, st) else
    let lg := floorLog2 m e
    if c.ftz && decide (lg < c.cmin) then (withSign f neg 0, raiseN st (flagUF ||| flagNX)) else
    let q := max lg (fmtMin f) - f.fb
    let ix := inexactAt m e q
    let (r, st) := draw c.mode ix st
    let n := roundTo c.mode neg m e q r
    let (n, q) := if n = 2 ^ (f.fb + 1) then (2 ^ f.fb, q + 1) else (n, q)
    let st := raiseN st (flagIf ix flagNX)
    let p := (q - fmtQuantum f).toNat * 2 ^ f.fb + n
    if p > fmtMaxPat f then (overflowPat f c neg, raiseN st (flagOF ||| flagNX)) else
    let tiny := decide (lg < fmtMin f) &&
      !magLe 1 (fmtMin f) (roundTo c.mode neg m e (lg - f.fb) r) (lg - f.fb)
    (withSign f neg p, raiseN st (flagIf (ix && tiny) flagUF))

/-- A number rounded into a format, as a number: round64, round32 and round_c of R12, R234. -/
def roundNum (f : FloatFmt) (c : Rounding) (x : Num) (st : NumSt) : Num × NumSt :=
  let (p, st) := encNum f c x st
  (decNum f p, st)

/-- FTZ on an operand (R77). -/
def flushNum (c : Rounding) (x : Num) : Num :=
  match x with
  | .fin neg m e => if c.ftz && m != 0 && decide (floorLog2 m e < c.cmin) then .fin neg 0 0 else x
  | _ => x

/-- Whether a number is a signalling NaN. -/
def isSig (x : Num) : Bool :=
  match x with
  | .nan s => s
  | _ => false
/-- Whether a number is a NaN. -/
def isNan (x : Num) : Bool :=
  match x with
  | .nan _ => true
  | _ => false
/-- Whether a number is an infinity. -/
def isInf (x : Num) : Bool :=
  match x with
  | .inf _ => true
  | _ => false
/-- Whether a number is a zero. -/
def isZeroNum (x : Num) : Bool :=
  match x with
  | .fin _ m _ => m == 0
  | _ => false
/-- The sign bit; false for a NaN. -/
def signOf (x : Num) : Bool :=
  match x with
  | .nan _ => false
  | .inf n => n
  | .fin n _ _ => n

/-- −x; a NaN stays. -/
def negNum (x : Num) : Num :=
  match x with
  | .nan s => .nan s
  | .inf n => .inf !n
  | .fin n m e => .fin (!n) m e
/-- |x|. -/
def absNum (x : Num) : Num :=
  match x with
  | .nan s => .nan s
  | .inf _ => .inf false
  | .fin _ m e => .fin false m e
/-- x × 2^k. -/
def scaleNum (x : Num) (k : Int) : Num :=
  match x with
  | .fin n m e => .fin n m (e + k)
  | _ => x

/-- The quiet NaN a NaN operand gives, and NV when one operand signals (R65, R216). -/
def nanResult (sig : Bool) : Num × BitVec 6 := (.nan false, flagIf sig flagNV)

/-- x + y before rounding, with the zero rule of R216. -/
def addNum (mode : RMode) (x y : Num) : Num × BitVec 6 :=
  match x, y with
  | .nan s, y => nanResult (s || isSig y)
  | _, .nan s => nanResult s
  | .inf a, .inf b => if a = b then (.inf a, 0) else (.nan false, flagNV)
  | .inf a, _ => (.inf a, 0)
  | _, .inf b => (.inf b, 0)
  | .fin n1 m1 e1, .fin n2 m2 e2 =>
    let e := min e1 e2
    let a : Int := (m1 * 2 ^ (e1 - e).toNat : Nat)
    let b : Int := (m2 * 2 ^ (e2 - e).toNat : Nat)
    let s := (if n1 then -a else a) + (if n2 then -b else b)
    if s = 0 then
      (.fin (if m1 = 0 ∧ m2 = 0 ∧ n1 = n2 then n1 else decide (mode = .rdn)) 0 0, 0)
    else (.fin (s < 0) s.natAbs e, 0)

/-- x × y before rounding (R216). -/
def mulNum (x y : Num) : Num × BitVec 6 :=
  match x, y with
  | .nan s, y => nanResult (s || isSig y)
  | _, .nan s => nanResult s
  | .inf a, y => if isZeroNum y then (.nan false, flagNV) else (.inf (a != signOf y), 0)
  | x, .inf b => if isZeroNum x then (.nan false, flagNV) else (.inf (b != signOf x), 0)
  | .fin n1 m1 e1, .fin n2 m2 e2 => (.fin (n1 != n2) (m1 * m2) (e1 + e2), 0)

/-- x ÷ y before rounding, to at least 140 bits and a last bit for the remainder (R216). -/
def divNum (x y : Num) : Num × BitVec 6 :=
  match x, y with
  | .nan s, y => nanResult (s || isSig y)
  | _, .nan s => nanResult s
  | .inf _, .inf _ => (.nan false, flagNV)
  | .inf a, y => (.inf (a != signOf y), 0)
  | x, .inf b => (.fin (b != signOf x) 0 0, 0)
  | .fin n1 m1 e1, .fin n2 m2 e2 =>
    if m2 = 0 then
      (if m1 = 0 then (.nan false, flagNV) else (.inf (n1 != n2), flagDZ))
    else if m1 = 0 then (.fin (n1 != n2) 0 0, 0)
    else
      let k := 140 + Nat.log2 m2
      let a := m1 * 2 ^ k
      (.fin (n1 != n2) (2 * (a / m2) + (if a % m2 = 0 then 0 else 1)) (e1 - e2 - k - 1), 0)

/-- ⌊√n⌋ with `k` bits still to find above `r`. -/
def natSqrt : Nat → Nat → Nat → Nat
  | 0, r, _ => r
  | k + 1, r, n => if (r + 2 ^ k) * (r + 2 ^ k) ≤ n then natSqrt k (r + 2 ^ k) n else natSqrt k r n

/-- √(m × 2^e) to at least 140 bits and a last bit for the remainder. -/
def sqrtMag (m : Nat) (e : Int) : Nat × Int :=
  let k := 300 + (e % 2).toNat
  let a := m * 2 ^ k
  let r := natSqrt (Nat.log2 a / 2 + 1) 0 a
  (2 * r + (if r * r = a then 0 else 1), (e - k) / 2 - 1)

/-- √x before rounding (R216). -/
def sqrtNum (x : Num) : Num × BitVec 6 :=
  match x with
  | .nan s => nanResult s
  | .inf n => if n then (.nan false, flagNV) else (.inf false, 0)
  | .fin n m e =>
    if m = 0 then (.fin n 0 0, 0)
    else if n then (.nan false, flagNV)
    else
      let (r, k) := sqrtMag m e
      (.fin false r k, 0)

/-- x × y + z before rounding; an invalid product gives NV whatever z is (R216). -/
def fmaNum (mode : RMode) (x y z : Num) : Num × BitVec 6 :=
  let (p, f) := mulNum x y
  let (s, g) := addNum mode p z
  (s, f ||| g)

/-- Signed integer of a finite number in units of 2^q, where 2^q divides it. -/
def unitsOf (x : Num) (q : Int) : Int :=
  match x with
  | .fin n m e =>
    let a : Int := (m * 2 ^ (e - q).toNat : Nat)
    if n then -a else a
  | _ => 0

/-- The exponent of a finite number; 0 otherwise. -/
def expOf (x : Num) : Int :=
  match x with
  | .fin _ _ e => e
  | _ => 0

/-- x < y on numbers that are no NaN; −0 and +0 are equal (R221). -/
def ltNum (x y : Num) : Bool :=
  match x, y with
  | .nan _, _ => false
  | _, .nan _ => false
  | .inf a, .inf b => a && !b
  | .inf a, _ => a
  | _, .inf b => !b
  | x, y =>
    let q := min (expOf x) (expOf y)
    decide (unitsOf x q < unitsOf y q)

/-- x == y on numbers that are no NaN (R221). -/
def eqNum (x y : Num) : Bool := !isNan x && !isNan y && !ltNum x y && !ltNum y x

/-- Whether the first operand is the one vfmin (`big` false) or vfmax delivers; −0 counts below +0 (R217). -/
def pickFirst (big : Bool) (x y : Num) : Bool :=
  let lt := ltNum x y || (eqNum x y && signOf x && !signOf y)
  let gt := ltNum y x || (eqNum x y && signOf y && !signOf x)
  if big then !lt else !gt

/-- A number converted to an integer of n bits, as a pattern, with its flags (R78). -/
def toIntNum (n : Nat) (signed : Bool) (mode : RMode) (x : Num) (st : NumSt) : Nat × NumSt :=
  let lo : Int := if signed then -(2 ^ (n - 1) : Int) else 0
  let hi : Int := if signed then (2 ^ (n - 1) : Int) - 1 else (2 ^ n : Int) - 1
  let pat (v : Int) : Nat := (v % (2 ^ n : Int)).toNat
  match x with
  | .nan _ => (0, raiseN st flagNV)
  | .inf neg => (pat (if neg then lo else hi), raiseN st flagOF)
  | .fin neg m e =>
    let ix := inexactAt m e 0
    let (r, st) := draw mode ix st
    let a : Int := roundTo mode neg m e 0 r
    let v := if neg then -a else a
    if v < lo then (pat lo, raiseN st flagOF)
    else if v > hi then (pat hi, raiseN st flagOF)
    else (pat v, raiseN st (flagIf ix flagNX))

/-- A finite number rounded to an integral value; the sign stays (R219). -/
def integralNum (mode : RMode) (x : Num) (st : NumSt) : Num × NumSt :=
  match x with
  | .nan s => (.nan false, raiseN st (flagIf s flagNV))
  | .inf n => (.inf n, st)
  | .fin neg m e =>
    let ix := inexactAt m e 0
    if ix then
      let (r, st) := draw mode true st
      (.fin neg (roundTo mode neg m e 0 r) 0, raiseN st flagNX)
    else (x, st)

/-- The class code of a pattern (R220). -/
def classOf (f : FloatFmt) (x : Nat) : Nat :=
  match decNum f x with
  | .nan s => if s then 8 else 9
  | .inf n => if n then 0 else 7
  | .fin n m e =>
    if m = 0 then (if n then 3 else 4)
    else if floorLog2 m e < fmtMin f then (if n then 2 else 5)
    else if n then 1 else 6

/-- The saturating clamp of R12. -/
def satInt (x lo hi : Int) : Int := if x < lo then lo else if x > hi then hi else x

/-! Block formats (R79 to R84). -/

/-- A block format: MX with E2M1 or E4M3 elements; BX of 4 or 8 bits. -/
inductive BlockFmt where
  | mxfp4 | mxfp8 | bx4 | bx8
  deriving DecidableEq, Repr

/-- The block format of a format code (R61). -/
def blockFmt (code : Nat) : Option BlockFmt :=
  match code with
  | 8 => some .mxfp4 | 9 => some .mxfp8 | 10 => some .bx4 | 11 => some .bx8 | _ => none

/-- Whether the format is an MX format. -/
def isMx (b : BlockFmt) : Bool :=
  match b with
  | .mxfp4 | .mxfp8 => true
  | _ => false
/-- The element format of an MX block (R79). -/
def mxElem (b : BlockFmt) : FloatFmt :=
  match b with
  | .mxfp4 => e2m1
  | _ => e4m3
/-- emax of R80. -/
def mxEmax (b : BlockFmt) : Int :=
  match b with
  | .mxfp4 => 2
  | _ => 8
/-- mmax of R83. -/
def bxMax (b : BlockFmt) : Nat :=
  match b with
  | .bx8 => 63
  | _ => 3
/-- bias of R83. -/
def bxBias (b : BlockFmt) : Int :=
  match b with
  | .bx8 => 132
  | _ => 128
/-- Bits of an element code (R61). -/
def blockWidth (b : BlockFmt) : Nat :=
  match b with
  | .mxfp4 | .bx4 => 4
  | _ => 8

/-- Whether a scale word marks its block NaN (R81, R82). -/
def scaleNan (b : BlockFmt) (scale : Nat) : Bool :=
  if isMx b then scale % 256 == 255 else scale % 256 == 255 || scale / 256 % 256 == 255

/-- The value of an element code under a scale word, EH over EL, or X in the low byte (R79, R81, R82). -/
def decBlock (b : BlockFmt) (code scale : Nat) : Num :=
  if scaleNan b scale then .nan false
  else if isMx b then
    match decNum (mxElem b) code with
    | .nan _ => .nan false
    | v => scaleNum v ((scale % 256 : Nat) - 127)
  else
    let w := blockWidth b
    let m := code % 2 ^ (w - 2)
    let neg := code / 2 ^ (w - 2) % 2 == 1
    let ex : Nat := if code / 2 ^ (w - 1) % 2 = 1 then scale / 256 % 256 else scale % 256
    if m = 0 then .fin false 0 0 else .fin neg m (ex - bxBias b)

/-- Whether a NaN or an infinity stands among the numbers. -/
def anySpecial (xs : List Num) : Bool := xs.any fun x => isNan x || isInf x

/-- The largest magnitude of finite numbers (R80, R83). -/
def maxMag (xs : List Num) : Num :=
  xs.foldl (fun a x => if ltNum a (absNum x) then absNum x else a) (.fin false 0 0)

/-- X from the largest magnitude's ⌊log2⌋ (R80). -/
def mxScale (b : BlockFmt) (lg : Int) : Nat := (satInt (lg - mxEmax b + 127) 0 254).toNat

/-- EH from a magnitude (R83). -/
def bxHigh (b : BlockFmt) (m : Nat) (e : Int) : Int := satInt (bxBias b + ceilLog2Div m e (bxMax b)) 0 254

/-- |round(x ÷ 2^k)| with the mode on the signed quotient (R84). -/
def bxQuotient (mode : RMode) (x : Num) (k : Int) (r : Nat) : Nat :=
  match x with
  | .fin neg m e => roundTo mode neg m e k r
  | _ => 0

/-- One BX element's code, and whether it took the OF branch; `r` is its drawn value (R84). -/
def bxCode (b : BlockFmt) (mode : RMode) (eh el : Int) (x : Num) (r : Nat) : Nat × Bool :=
  let w := blockWidth b
  let pack (sel m : Nat) : Nat :=
    if m = 0 then 0 else sel * 2 ^ (w - 1) + (if signOf x then 2 ^ (w - 2) else 0) + m
  let ql := bxQuotient mode x (el - bxBias b) r
  if ql ≤ bxMax b then (pack 0 ql, false) else
  let qh := bxQuotient mode x (eh - bxBias b) r
  if qh > bxMax b then (pack 1 (bxMax b), true) else (pack 1 qh, false)

/-- x − y exactly, as a finite number; both finite. -/
def subExact (x y : Num) : Num := (addNum .rne x (negNum y)).1

/-- The scale word of EH and EL (R85). -/
def bxWord (eh el : Int) : Nat := eh.toNat * 256 + el.toNat

/-- The sum of squared errors of a trial with EH and EL under RNE (R83). -/
def bxError (b : BlockFmt) (eh el : Int) (xs : List Num) : Num :=
  xs.foldl (fun acc x =>
    let d := subExact (decBlock b (bxCode b .rne eh el x 0).1 (bxWord eh el)) x
    (addNum .rne acc (mulNum d d).1).1) (.fin false 0 0)

/-- The gap of least error among `g` and the `k` gaps after it, the lowest on a tie (R83). -/
def bxBestGap (b : BlockFmt) (eh : Int) (xs : List Num) : Nat → Nat → Nat × Num
  | 0, g => (g, bxError b eh (max (eh - g) 0) xs)
  | k + 1, g =>
    let here := bxError b eh (max (eh - g) 0) xs
    let best := bxBestGap b eh xs k (g + 1)
    if ltNum best.2 here then best else (g, here)

/-- EL for a block under VTYPE.GAP (R83). -/
def bxLow (b : BlockFmt) (gap : Nat) (eh : Int) (xs : List Num) : Int :=
  let g := if gap = 0 then (bxBestGap b eh xs 7 1).1 else gap
  max (eh - g) 0

/-- The scale word of a block's own magnitude, and the flags it raises (R80, R83). -/
def scaleBlock (b : BlockFmt) (gap : Nat) (xs : List Num) : Nat × BitVec 6 :=
  if anySpecial xs then ((if isMx b then 0xFF else 0xFFFF), flagNV) else
  match maxMag xs with
  | .fin _ m e =>
    if m = 0 then (0, flagZRANGE)
    else if isMx b then (mxScale b (floorLog2 m e), 0)
    else
      let eh := bxHigh b m e
      (bxWord eh (bxLow b gap eh xs), 0)
  | _ => (0, 0)

/-- The scale word an adaptive vqpack takes from its card's OFFSET (R227). -/
def scaleFromCard (b : BlockFmt) (gap : Nat) (offset : Int) (xs : List Num) : Nat :=
  if isMx b then mxScale b offset
  else
    let eh := bxHigh b 1 offset
    bxWord eh (bxLow b gap eh xs)

/-- One element's code under a scale word, whether it saturated, and its flags; `seed` and `i` give its draw (R80, R84). -/
def encBlockElem (b : BlockFmt) (mode : RMode) (scale : Nat) (seed : Word) (i : Nat) (x : Num) : Nat × Bool × BitVec 6 :=
  if isMx b then
    let (p, st) := encNum (mxElem b) ⟨mode, true, false, 0⟩ (scaleNum x (127 - (scale % 256 : Nat))) (numSt seed i)
    let f := st.flags &&& ~~~flagUF
    (p, f &&& flagOF != 0, f)
  else
    let eh : Int := (scale / 256 % 256 : Nat)
    let el : Int := (scale % 256 : Nat)
    let (p, o) := bxCode b mode eh el x (rngStep (rngSeed seed i)).toNat
    (p, o, flagIf o flagOF ||| flagIf (!eqNum (decBlock b p scale) x) flagNX)

/-- A block's codes, how many elements saturated, and the flags. `start` is the first element's index; a NaN block has
codes 0, and a block of zeros raises ZRANGE (R80, R83, R84, R227). -/
def encBlock (b : BlockFmt) (mode : RMode) (scale : Nat) (seed : Word) (start : Nat) (xs : List Num) :
    List Nat × Nat × BitVec 6 :=
  if anySpecial xs then (xs.map fun _ => 0, 0, flagNV)
  else if xs.all isZeroNum then
    (xs.map fun _ => 0, 0, flagZRANGE)
  else
    let rs := xs.mapIdx fun i x => encBlockElem b mode scale seed (start + i) x
    (rs.map (·.1), (rs.filter (·.2.1)).length, rs.foldl (fun f r => f ||| r.2.2) 0)

end Sys2Proof.Machine
end

