-- ==== Sys2Proof/Config.lean ====
section
/-! DEFINITION. What an implementation fixes, and the free values: opaque constants with no body the kernel can open. -/

namespace Sys2Proof.Config

/-- FP32 pattern the special-function unit returns for function code `f` (R233) and FP32 operand `x`. R233 gives a
bound, exact special values, and that the value for an input is the same on every unit and run; nothing else. Free
value (log 9). The meaning applies it only where R233 states no exact value, and only where it keeps to the bound. -/
opaque sfuValue (f : Nat) (x : BitVec 32) : BitVec 32

/-- The private half of the door die's Ed448 identity key; it never leaves the die (R482). Free value (log 10). -/
opaque deviceKey : List Byte

/-- The certificate chain of this part's public key (R482). Free value (log 10). -/
opaque certificates : List Byte

/-- Byte `i` of buffer `b` as entry `seq` of context `x` reads it, where the buffer's contents are lost or no `prow` filled it
(R273 states no value); bound bytes are buffers 2 and 3. Free value (log 17). -/
opaque lostByte (x seq b i : Nat) : Byte

/-- The fuse state of a report: which keys are revoked and the fused minimum SVN, laid out as the part lays them (R482 gives
the size and no layout). Free value (log 10); the meaning brings it to 16 bytes. -/
opaque fuseState (revoked : List Bool) (minSvn : Nat) : List Byte

/-- SHAKE256 digest of the door die's ROM (R482). Free value (log 10). -/
opaque romDigest : List Byte

/-- What ERROR reports when a stage passes its time limit (R476, R483 state no code). Free value (log 10); the meaning
brings it into the codes 1 to 8. -/
opaque timeoutError (stage : Nat) : Nat

/-- The 64 MiB frame of CD0 where firmware puts the supervisor image, its page table and the boot record (R480, R481 give no
address). Free value (log 10); the meaning brings it into the first 64 GiB. -/
opaque bootFrame : Nat

/-- The PMTU of a RoCE connection, as an index: 1,024, 2,048 or 4,096 bytes (R460). The spec gives no field for it: nothing is
assumed about the value (log 20). -/
opaque rocePmtuIndex (conn : Nat) : Fin 3

/-- How many spare blocks a near-store bank has (R441 and R479 give no number). Free value (log 16). -/
opaque bankSpares : Nat

/-- How many spare rows a stack has (R443 gives no number). Free value (log 16). -/
opaque hbmSpares : Nat

/-- Column `i` of latch C, M or F (0 to 2) or hidden row H0 (3) of way `w`, as a strip of entry `seq` of context `x` leaves it where
chapter 09 gives no step table for its instruction. Free value (log 6); no instruction reads it. -/
opaque columnBit (x seq w latch i : Nat) : Bool

end Sys2Proof.Config
end

