-- ==== Sys2Proof/Syntax.lean ====
section
/-! DEFINITION. The instructions and events of the KR8: one constructor per row of spec/opcode_table.json, in the
table's order. Immediates are the sign-extended integers of R36, and memory offsets count access-size units. An event
(spec/95_what_each_step_holds.md) names the agent it happens to; what the world outside brings is its argument. -/

namespace Sys2Proof

/-- One row of the opcode table (02 R45 to R52; the events, spec/95). -/
inductive Instr where
  /-- ADD (R133). -/
  | add (d a b : GReg)
  /-- SUB (R133). -/
  | sub (d a b : GReg)
  /-- AND (R133). -/
  | and (d a b : GReg)
  /-- OR (R133). -/
  | or (d a b : GReg)
  /-- XOR (R133). -/
  | xor (d a b : GReg)
  /-- ANDN (R133). -/
  | andn (d a b : GReg)
  /-- SLL (R133). -/
  | sll (d a b : GReg)
  /-- SRL (R133). -/
  | srl (d a b : GReg)
  /-- SRA (R133). -/
  | sra (d a b : GReg)
  /-- ROL (R133). -/
  | rol (d a b : GReg)
  /-- SLT (R133). -/
  | slt (d a b : GReg)
  /-- SLTU (R133). -/
  | sltu (d a b : GReg)
  /-- MIN (R133). -/
  | min (d a b : GReg)
  /-- MAX (R133). -/
  | max (d a b : GReg)
  /-- MINU (R133). -/
  | minu (d a b : GReg)
  /-- MAXU (R133). -/
  | maxu (d a b : GReg)
  /-- MUL (R133). -/
  | mul (d a b : GReg)
  /-- MULH (R133). -/
  | mulh (d a b : GReg)
  /-- MULHU (R133). -/
  | mulhu (d a b : GReg)
  /-- CMOV (R133). -/
  | cmov (d a b : GReg)
  /-- DIV (R134). -/
  | div (d a b : GReg)
  /-- DIVU (R134). -/
  | divu (d a b : GReg)
  /-- REM (R134). -/
  | rem (d a b : GReg)
  /-- REMU (R134). -/
  | remu (d a b : GReg)
  /-- CLZ (R135). -/
  | clz (d a : GReg)
  /-- CTZ (R135). -/
  | ctz (d a : GReg)
  /-- POPC (R135). -/
  | popc (d a : GReg)
  /-- BSWAP (R135). -/
  | bswap (d a : GReg)
  /-- SEXTB (R135). -/
  | sextb (d a : GReg)
  /-- SEXTH (R135). -/
  | sexth (d a : GReg)
  /-- SEXTW (R135). -/
  | sextw (d a : GReg)
  /-- JALR (R141). -/
  | jalr (d a : GReg)
  /-- ADDI (R136). -/
  | addi (d a : GReg) (imm : Int)
  /-- ANDI (R136). -/
  | andi (d a : GReg) (imm : Int)
  /-- ORI (R136). -/
  | ori (d a : GReg) (imm : Int)
  /-- XORI (R136). -/
  | xori (d a : GReg) (imm : Int)
  /-- SLLI (R136). -/
  | slli (d a : GReg) (sh : BitVec 6)
  /-- SRLI (R136). -/
  | srli (d a : GReg) (sh : BitVec 6)
  /-- SRAI (R136). -/
  | srai (d a : GReg) (sh : BitVec 6)
  /-- LEA (R137). -/
  | lea (d a b : GReg) (sh : BitVec 2)
  /-- LI (R138). -/
  | li (d : GReg) (imm : Int)
  /-- LIH (R138). -/
  | lih (d : GReg) (imm : Int)
  /-- LDB (R143). -/
  | ldb (d a : GReg) (off : Int)
  /-- LDBU (R143). -/
  | ldbu (d a : GReg) (off : Int)
  /-- LDH (R143). -/
  | ldh (d a : GReg) (off : Int)
  /-- LDHU (R143). -/
  | ldhu (d a : GReg) (off : Int)
  /-- LDW (R143). -/
  | ldw (d a : GReg) (off : Int)
  /-- LDWU (R143). -/
  | ldwu (d a : GReg) (off : Int)
  /-- LDD (R143). -/
  | ldd (d a : GReg) (off : Int)
  /-- STB (R144). -/
  | stb (d a : GReg) (off : Int)
  /-- STH (R144). -/
  | sth (d a : GReg) (off : Int)
  /-- STW (R144). -/
  | stw (d a : GReg) (off : Int)
  /-- STD (R144). -/
  | std (d a : GReg) (off : Int)
  /-- LACQ (R146). -/
  | lacq (d a : GReg) (p : Scope) (z : Size)
  /-- SREL (R146). -/
  | srel (d a : GReg) (p : Scope) (z : Size)
  /-- FENCE_FULL (R148). -/
  | fenceFull (p : Scope)
  /-- FENCE_ACQ (R148). -/
  | fenceAcq (p : Scope)
  /-- FENCE_REL (R148). -/
  | fenceRel (p : Scope)
  /-- FENCE_FLUSH (R148). -/
  | fenceFlush (p : Scope)
  /-- BEQ (R139). -/
  | beq (a b : GReg) (disp : Int)
  /-- BNE (R139). -/
  | bne (a b : GReg) (disp : Int)
  /-- BLT (R139). -/
  | blt (a b : GReg) (disp : Int)
  /-- BGE (R139). -/
  | bge (a b : GReg) (disp : Int)
  /-- BLTU (R139). -/
  | bltu (a b : GReg) (disp : Int)
  /-- BGEU (R139). -/
  | bgeu (a b : GReg) (disp : Int)
  /-- J (R140). -/
  | j (disp : Int)
  /-- JAL (R140). -/
  | jal (disp : Int)
  /-- MFK (R150). -/
  | mfk (d : GReg) (x : BitVec 8)
  /-- MTK (R151). -/
  | mtk (d : GReg) (x : BitVec 8)
  /-- SYS_NOP (R152). -/
  | sysNop (n : BitVec 8)
  /-- TRAP (R152). -/
  | trap (n : BitVec 8)
  /-- BREAK (R152). -/
  | brk (n : BitVec 8)
  /-- RETT (R428). -/
  | rett (n : BitVec 8)
  /-- YIELD (R152). -/
  | yield (n : BitVec 8)
  /-- IDLE (R152). -/
  | idle (n : BitVec 8)
  /-- WAIT (R132). -/
  | wait (l st c t : BitVec 4)
  /-- CWB (R153). -/
  | cwb (d a b : GReg)
  /-- CINV (R153). -/
  | cinv (d a b : GReg)
  /-- CFLUSH (R153). -/
  | cflush (d a b : GReg)
  /-- CPREFETCH (R153). -/
  | cprefetch (d a b : GReg)
  /-- TLBI (R155). -/
  | tlbi (a b : GReg)
  /-- TLBIA (R155). -/
  | tlbia (b : GReg)
  /-- TLBSYNC (R155). -/
  | tlbsync
  /-- VSET (R173). -/
  | vset (d a b : GReg)
  /-- VSETK (R173). -/
  | vsetk (d a : GReg)
  /-- VADD (R190). -/
  | vadd (d a b : VReg) (k : VMask)
  /-- VSUB (R190). -/
  | vsub (d a b : VReg) (k : VMask)
  /-- VAND (R190). -/
  | vand (d a b : VReg) (k : VMask)
  /-- VOR (R190). -/
  | vor (d a b : VReg) (k : VMask)
  /-- VXOR (R190). -/
  | vxor (d a b : VReg) (k : VMask)
  /-- VANDN (R190). -/
  | vandn (d a b : VReg) (k : VMask)
  /-- VMIN (R190). -/
  | vmin (d a b : VReg) (k : VMask)
  /-- VMAX (R190). -/
  | vmax (d a b : VReg) (k : VMask)
  /-- VMINU (R190). -/
  | vminu (d a b : VReg) (k : VMask)
  /-- VMAXU (R190). -/
  | vmaxu (d a b : VReg) (k : VMask)
  /-- VMUL (R190). -/
  | vmul (d a b : VReg) (k : VMask)
  /-- VMULH (R190). -/
  | vmulh (d a b : VReg) (k : VMask)
  /-- VSLL (R190). -/
  | vsll (d a b : VReg) (k : VMask)
  /-- VSRL (R190). -/
  | vsrl (d a b : VReg) (k : VMask)
  /-- VSRA (R190). -/
  | vsra (d a b : VReg) (k : VMask)
  /-- VMULHU (R190). -/
  | vmulhu (d a b : VReg) (k : VMask)
  /-- VSADD (R190). -/
  | vsadd (d a b : VReg) (k : VMask)
  /-- VSSUB (R190). -/
  | vssub (d a b : VReg) (k : VMask)
  /-- VSADDU (R190). -/
  | vsaddu (d a b : VReg) (k : VMask)
  /-- VSSUBU (R190). -/
  | vssubu (d a b : VReg) (k : VMask)
  /-- VMACC (R192). -/
  | vmacc (d a b : VReg) (k : VMask)
  /-- VNMSAC (R192). -/
  | vnmsac (d a b : VReg) (k : VMask)
  /-- VADD_S (R191). -/
  | vaddS (d a : VReg) (b : GReg) (k : VMask)
  /-- VSUB_S (R191). -/
  | vsubS (d a : VReg) (b : GReg) (k : VMask)
  /-- VRSUB_S (R191). -/
  | vrsubS (d a : VReg) (b : GReg) (k : VMask)
  /-- VAND_S (R191). -/
  | vandS (d a : VReg) (b : GReg) (k : VMask)
  /-- VOR_S (R191). -/
  | vorS (d a : VReg) (b : GReg) (k : VMask)
  /-- VXOR_S (R191). -/
  | vxorS (d a : VReg) (b : GReg) (k : VMask)
  /-- VMIN_S (R191). -/
  | vminS (d a : VReg) (b : GReg) (k : VMask)
  /-- VMAX_S (R191). -/
  | vmaxS (d a : VReg) (b : GReg) (k : VMask)
  /-- VSLL_S (R191). -/
  | vsllS (d a : VReg) (b : GReg) (k : VMask)
  /-- VSRL_S (R191). -/
  | vsrlS (d a : VReg) (b : GReg) (k : VMask)
  /-- VSRA_S (R191). -/
  | vsraS (d a : VReg) (b : GReg) (k : VMask)
  /-- VMUL_S (R191). -/
  | vmulS (d a : VReg) (b : GReg) (k : VMask)
  /-- VMV (R194). -/
  | vmv (d a : VReg) (k : VMask)
  /-- VMV_S (R194). -/
  | vmvS (d : VReg) (a : GReg) (k : VMask)
  /-- VID (R194). -/
  | vid (d : VReg) (k : VMask)
  /-- VSEL (R195). -/
  | vsel (d a b : VReg) (k : VMask)
  /-- VNEG (R193). -/
  | vneg (d a : VReg) (k : VMask)
  /-- VABS (R193). -/
  | vabs (d a : VReg) (k : VMask)
  /-- VNOT (R193). -/
  | vnot (d a : VReg) (k : VMask)
  /-- VPOPC (R193). -/
  | vpopc (d a : VReg) (k : VMask)
  /-- VCLZ (R193). -/
  | vclz (d a : VReg) (k : VMask)
  /-- VCTZ (R193). -/
  | vctz (d a : VReg) (k : VMask)
  /-- VSEXT (R193). -/
  | vsext (d a : VReg) (b : BitVec 3) (k : VMask)
  /-- VZEXT (R193). -/
  | vzext (d a : VReg) (b : BitVec 3) (k : VMask)
  /-- VCEQ (R196). -/
  | vceq (d : MReg) (a b : VReg) (k : VMask)
  /-- VCNE (R196). -/
  | vcne (d : MReg) (a b : VReg) (k : VMask)
  /-- VCLT (R196). -/
  | vclt (d : MReg) (a b : VReg) (k : VMask)
  /-- VCLTU (R196). -/
  | vcltu (d : MReg) (a b : VReg) (k : VMask)
  /-- VCLE (R196). -/
  | vcle (d : MReg) (a b : VReg) (k : VMask)
  /-- VCLEU (R196). -/
  | vcleu (d : MReg) (a b : VReg) (k : VMask)
  /-- VCEQ_S (R196). -/
  | vceqS (d : MReg) (a : VReg) (b : GReg) (k : VMask)
  /-- VCLT_S (R196). -/
  | vcltS (d : MReg) (a : VReg) (b : GReg) (k : VMask)
  /-- MAND (R197). -/
  | mand (d a b : MReg)
  /-- MOR (R197). -/
  | mor (d a b : MReg)
  /-- MXOR (R197). -/
  | mxor (d a b : MReg)
  /-- MANDN (R197). -/
  | mandn (d a b : MReg)
  /-- MNOT (R197). -/
  | mnot (d a : MReg)
  /-- MMV (R197). -/
  | mmv (d a : MReg)
  /-- MSET (R197). -/
  | mset (d : MReg)
  /-- MCLR (R197). -/
  | mclr (d : MReg)
  /-- MPOPC (R198). -/
  | mpopc (d : GReg) (a : MReg) (k : VMask)
  /-- MFIRST (R198). -/
  | mfirst (d : GReg) (a : MReg) (k : VMask)
  /-- MSBF (R199). -/
  | msbf (d a : MReg) (k : VMask)
  /-- MSIF (R199). -/
  | msif (d a : MReg) (k : VMask)
  /-- VSLIDEUP (R200). -/
  | vslideup (d a : VReg) (b : BitVec 3) (k : VMask)
  /-- VSLIDEDN (R200). -/
  | vslidedn (d a : VReg) (b : BitVec 3) (k : VMask)
  /-- VSLIDEUP_S (R200). -/
  | vslideupS (d a : VReg) (b : GReg) (k : VMask)
  /-- VSLIDEDN_S (R200). -/
  | vslidednS (d a : VReg) (b : GReg) (k : VMask)
  /-- VXCHG (R201). -/
  | vxchg (d a : VReg) (b : GReg) (k : VMask)
  /-- VCOMPRESS (R202). -/
  | vcompress (d a : VReg) (k : VMask)
  /-- VEXPAND (R202). -/
  | vexpand (d a : VReg) (k : VMask)
  /-- VPERM (R203). -/
  | vperm (d a b : VReg) (k : VMask)
  /-- VGATH8 (R204). -/
  | vgath8 (d a b : VReg) (k : VMask)
  /-- VCONFLICT (R206). -/
  | vconflict (d a : VReg) (k : VMask)
  /-- VMATCH (R207). -/
  | vmatch (d : MReg) (a b : VReg) (c : BitVec 4) (k : VMask)
  /-- VPROBE (R208). -/
  | vprobe (d : GReg) (a : VReg) (b : GReg) (k : VMask)
  /-- VREDSUM (R209). -/
  | vredsum (d : GReg) (a : VReg) (b : GReg) (k : VMask)
  /-- VREDMAX (R209). -/
  | vredmax (d : GReg) (a : VReg) (b : GReg) (k : VMask)
  /-- VREDMIN (R209). -/
  | vredmin (d : GReg) (a : VReg) (b : GReg) (k : VMask)
  /-- VREDMAXU (R209). -/
  | vredmaxu (d : GReg) (a : VReg) (b : GReg) (k : VMask)
  /-- VREDAND (R209). -/
  | vredand (d : GReg) (a : VReg) (b : GReg) (k : VMask)
  /-- VREDOR (R209). -/
  | vredor (d : GReg) (a : VReg) (b : GReg) (k : VMask)
  /-- VREDXOR (R209). -/
  | vredxor (d : GReg) (a : VReg) (b : GReg) (k : VMask)
  /-- VREDMINU (R209). -/
  | vredminu (d : GReg) (a : VReg) (b : GReg) (k : VMask)
  /-- VFADD (R216). -/
  | vfadd (d a b : VReg) (k : VMask)
  /-- VFSUB (R216). -/
  | vfsub (d a b : VReg) (k : VMask)
  /-- VFMUL (R216). -/
  | vfmul (d a b : VReg) (k : VMask)
  /-- VFDIV (R216). -/
  | vfdiv (d a b : VReg) (k : VMask)
  /-- VFMIN (R217). -/
  | vfmin (d a b : VReg) (k : VMask)
  /-- VFMAX (R217). -/
  | vfmax (d a b : VReg) (k : VMask)
  /-- VFSGNJ (R218). -/
  | vfsgnj (d a b : VReg) (k : VMask)
  /-- VFSQRT (R216). -/
  | vfsqrt (d a : VReg) (k : VMask)
  /-- VFMA (R216). -/
  | vfma (d a b : VReg) (c : BitVec 4) (k : VMask)
  /-- VFMS (R216). -/
  | vfms (d a b : VReg) (c : BitVec 4) (k : VMask)
  /-- VFNMA (R216). -/
  | vfnma (d a b : VReg) (c : BitVec 4) (k : VMask)
  /-- VFNMS (R216). -/
  | vfnms (d a b : VReg) (c : BitVec 4) (k : VMask)
  /-- VFADD_S (R216). -/
  | vfaddS (d a : VReg) (b : GReg) (k : VMask)
  /-- VFSUB_S (R216). -/
  | vfsubS (d a : VReg) (b : GReg) (k : VMask)
  /-- VFMUL_S (R216). -/
  | vfmulS (d a : VReg) (b : GReg) (k : VMask)
  /-- VFRSUB_S (R216). -/
  | vfrsubS (d a : VReg) (b : GReg) (k : VMask)
  /-- VFABS (R218). -/
  | vfabs (d a : VReg) (k : VMask)
  /-- VFNEG (R218). -/
  | vfneg (d a : VReg) (k : VMask)
  /-- VFCLASS (R220). -/
  | vfclass (d a : VReg) (k : VMask)
  /-- VFROUND (R219). -/
  | vfround (d a : VReg) (k : VMask)
  /-- VFCEQ (R221). -/
  | vfceq (d : MReg) (a b : VReg) (k : VMask)
  /-- VFCLT (R221). -/
  | vfclt (d : MReg) (a b : VReg) (k : VMask)
  /-- VFCLE (R221). -/
  | vfcle (d : MReg) (a b : VReg) (k : VMask)
  /-- VFCUN (R221). -/
  | vfcun (d : MReg) (a b : VReg) (k : VMask)
  /-- VFCVT (R222). -/
  | vfcvt (d a : VReg) (b : GReg) (k : VMask)
  /-- VF2I (R222). -/
  | vf2i (d a : VReg) (b : GReg) (k : VMask)
  /-- VI2F (R222). -/
  | vi2f (d a : VReg) (b : GReg) (k : VMask)
  /-- VF2I_T (R222). -/
  | vf2iT (d a : VReg) (b : GReg) (k : VMask)
  /-- VQAMAX (R225). -/
  | vqamax (d : GReg) (a : VReg) (b : GReg) (k : VMask)
  /-- VQSCALE (R227). -/
  | vqscale (d a : VReg) (b : GReg)
  /-- VQPACK (R227). -/
  | vqpack (d a : VReg) (b : GReg)
  /-- VQUNPACK (R227). -/
  | vqunpack (d a : VReg) (b : GReg) (k : VMask)
  /-- VFWHT (R232). -/
  | vfwht (d a : VReg) (b : GReg)
  /-- VSFU (R233). -/
  | vsfu (d a : VReg) (b : GReg) (k : VMask)
  /-- VFREDSUM_O (R234). -/
  | vfredsumO (d : GReg) (a : VReg) (b : GReg) (k : VMask)
  /-- VFREDSUM_T (R234). -/
  | vfredsumT (d : GReg) (a : VReg) (b : GReg) (k : VMask)
  /-- VFREDMAX (R234). -/
  | vfredmax (d : GReg) (a : VReg) (b : GReg) (k : VMask)
  /-- VFREDMIN (R234). -/
  | vfredmin (d : GReg) (a : VReg) (b : GReg) (k : VMask)
  /-- VFDOT_O (R234). -/
  | vfdotO (d : GReg) (a b : VReg) (c : BitVec 4) (k : VMask)
  /-- VHKTEST (R235). -/
  | vhktest (d : MReg) (a : VReg) (k : VMask)
  /-- VHKSEL (R235). -/
  | vhksel (d a b : VReg) (k : VMask)
  /-- VHKCNT (R236). -/
  | vhkcnt (d : GReg) (a : VReg) (b : GReg) (k : VMask)
  /-- VTOPK (R237). -/
  | vtopk (d a : VReg) (b : GReg) (k : VMask)
  /-- FADD (R224). -/
  | fadd (d a b : GReg)
  /-- FSUB (R224). -/
  | fsub (d a b : GReg)
  /-- FMUL (R224). -/
  | fmul (d a b : GReg)
  /-- FDIV (R224). -/
  | fdiv (d a b : GReg)
  /-- FMA (R224). -/
  | fma (d a b : GReg)
  /-- FMIN (R217). -/
  | fmin (d a b : GReg)
  /-- FMAX (R217). -/
  | fmax (d a b : GReg)
  /-- FSQRT (R224). -/
  | fsqrt (d a : GReg)
  /-- FCEQ (R221). -/
  | fceq (d a b : GReg)
  /-- FCLT (R221). -/
  | fclt (d a b : GReg)
  /-- FCLE (R221). -/
  | fcle (d a b : GReg)
  /-- FCVT (R223). -/
  | fcvt (d a b : GReg)
  /-- F2I (R224). -/
  | f2i (d a : GReg)
  /-- I2F (R224). -/
  | i2f (d a : GReg)
  /-- FCLASS (R220). -/
  | fclass (d a : GReg)
  /-- FABS (R224). -/
  | fabs (d a : GReg)
  /-- FCADAPT (R230). -/
  | fcadapt (d a : GReg)
  /-- VLD (R350). -/
  | vld (d : VReg) (a b : GReg) (k : VMask)
  /-- VST (R350). -/
  | vst (d : VReg) (a b : GReg) (k : VMask)
  /-- VLDS (R350). -/
  | vlds (d : VReg) (a b : GReg) (k : VMask)
  /-- VSTS (R350). -/
  | vsts (d : VReg) (a b : GReg) (k : VMask)
  /-- VLDX (R350). -/
  | vldx (d : VReg) (a : GReg) (b : VReg) (k : VMask)
  /-- VSTX (R350). -/
  | vstx (d : VReg) (a : GReg) (b : VReg) (k : VMask)
  /-- VLDFF (R354). -/
  | vldff (d : VReg) (a : GReg) (k : VMask)
  /-- VSTXA (R356). -/
  | vstxa (d : VReg) (a : GReg) (b : VReg) (c : BitVec 4) (k : VMask)
  /-- VLDW (R355). -/
  | vldw (d : VReg) (a : GReg) (b : VReg) (c : BitVec 4) (k : VMask)
  /-- VLDROW (R357). -/
  | vldrow (d : VReg) (a : GReg) (b : VReg) (k : VMask)
  /-- VSTROW (R357). -/
  | vstrow (d : VReg) (a : GReg) (b : VReg) (k : VMask)
  /-- VAMOROW (R358). -/
  | vamorow (d : VReg) (a : GReg) (b : VReg) (c : BitVec 4) (k : VMask)
  /-- VLDSYNC (R359). -/
  | vldsync (d : VReg) (a : GReg) (b : VReg) (c : BitVec 4) (k : VMask)
  /-- PLOAD (R270). -/
  | pload (d : VReg) (a b : GReg)
  /-- PROW (R275). -/
  | prow (a b : GReg)
  /-- MMA (R278). -/
  | mma (d : VReg) (a : GReg) (k : VMask)
  /-- MMAV (R304). -/
  | mmav (d : VReg) (a : GReg) (k : VMask)
  /-- PGANG (R272). -/
  | pgang (a : GReg)
  /-- VDCFG (R291). -/
  | vdcfg (a : GReg)
  /-- PBND (R296). -/
  | pbnd (a b : GReg)
  /-- PTREE (R282). -/
  | ptree (d a : VReg)
  /-- TMMA (R285). -/
  | tmma (d : AReg) (a b : GReg)
  /-- TZERO (R286). -/
  | tzero (d : AReg)
  /-- TLD (R286). -/
  | tld (d : AReg) (a : GReg)
  /-- TST (R286). -/
  | tst (d : AReg) (a : GReg)
  /-- TACC (R287). -/
  | tacc (d : AReg) (a : VReg) (b : GReg)
  /-- TROW (R287). -/
  | trow (d : AReg) (a : VReg) (b : GReg)
  /-- FORK (R96). -/
  | fork (d a b : GReg)
  /-- JOIN (R97). -/
  | join (a : GReg)
  /-- RETIRE (R98). -/
  | retire
  /-- LAUNCH (R109). -/
  | launch (d a : GReg)
  /-- CURTAIN (R393). -/
  | curtain (a b : GReg)
  /-- CURTAINX (R393). -/
  | curtainx (d a b : GReg)
  /-- PRODCTL_QUERY (R113). -/
  | prodctlQuery (d a b : GReg)
  /-- PRODCTL_SHARE (R112). -/
  | prodctlShare (d a b : GReg)
  /-- PRODCTL_PAUSE (R112). -/
  | prodctlPause (d a b : GReg)
  /-- PRODCTL_RESUME (R112). -/
  | prodctlResume (d a b : GReg)
  /-- PRODCTL_KILL (R451). -/
  | prodctlKill (d a b : GReg)
  /-- PRODCTL_GRANT (R112). -/
  | prodctlGrant (d a b : GReg)
  /-- PRODCTL_PREEMPT (R112). -/
  | prodctlPreempt (d a b : GReg)
  /-- QBIND (R117). -/
  | qbind (d a b : GReg)
  /-- VACQ (R114). -/
  | vacq (d a : GReg)
  /-- VREL (R115). -/
  | vrel
  /-- BOOST (R116). -/
  | boost (d a : GReg)
  /-- LDE (R388). -/
  | lde (d a : GReg)
  /-- LDF (R388). -/
  | ldf (d a : GReg)
  /-- STF (R388). -/
  | stf (d a : GReg)
  /-- STE (R388). -/
  | ste (d a : GReg)
  /-- FEQ (R388). -/
  | feq (d a : GReg)
  /-- FEFILL (R388). -/
  | fefill (a : GReg)
  /-- FECLR (R388). -/
  | feclr (a : GReg)
  /-- AMOADD (R385). -/
  | amoadd (d a : GReg) (p : Scope) (z : Size)
  /-- AMOSWAP (R385). -/
  | amoswap (d a : GReg) (p : Scope) (z : Size)
  /-- AMOMAX (R385). -/
  | amomax (d a : GReg) (p : Scope) (z : Size)
  /-- AMOMIN (R385). -/
  | amomin (d a : GReg) (p : Scope) (z : Size)
  /-- AMOAND (R385). -/
  | amoand (d a : GReg) (p : Scope) (z : Size)
  /-- AMOOR (R385). -/
  | amoor (d a : GReg) (p : Scope) (z : Size)
  /-- AMOCAS (R385). -/
  | amocas (d a : GReg) (p : Scope) (z : Size)
  /-- CPY (R362). -/
  | cpy (d a b : GReg)
  /-- CPY2D (R363). -/
  | cpy2d (d a b : GReg)
  /-- CPYG (R363). -/
  | cpyg (d a b : GReg)
  /-- NMR (R367). -/
  | nmr (d a b : GReg)
  /-- COLL (R465). -/
  | coll (d a b : GReg)
  /-- SFU (R401). -/
  | sfu (d a b : GReg)
  /-- MSGS (R463). -/
  | msgs (d a b : GReg)
  /-- DISPATCH (R105). -/
  | dispatch (c i : Nat)
  /-- PARKED_RETEST (R91). -/
  | parkedRetest (c i : Nat)
  /-- YIELD_END (R152). -/
  | yieldEnd (c i : Nat)
  /-- PATIENCE_TRAP (R123). -/
  | patienceTrap (c i : Nat)
  /-- RESULT_ARRIVAL (R125). -/
  | resultArrival (c i k : Nat)
  /-- STORE_DRAIN (R144). -/
  | storeDrain (c i : Nat)
  /-- TRAP_ENTRY (R424). -/
  | trapEntry (c i : Nat)
  /-- STRIP_START (R257). -/
  | stripStart (c : Nat)
  /-- STRIP_END (R170). -/
  | stripEnd (c w : Nat)
  /-- ENTRY_COMPLETE (R239). -/
  | entryComplete (c x : Nat)
  /-- TREE_PASS (R258). -/
  | treePass (c : Nat)
  /-- TILE_START (R284). -/
  | tileStart (c : Nat)
  /-- VERDICT_READ_RETURN (R299). -/
  | verdictReadReturn (c x : Nat)
  /-- PIN_GRANT (R343). -/
  | pinGrant (c : Nat)
  /-- MIG_REWALK (R346). -/
  | migRewalk (c i : Nat)
  /-- MERGE_CLOSE (R329). -/
  | mergeClose (q : Nat)
  /-- WRITE_NOTICE (R383). -/
  | writeNotice (n : Nat)
  /-- FE_REQUEST (R390). -/
  | feRequest (n : Nat)
  /-- FE_RETRY (R391). -/
  | feRetry (c i : Nat)
  /-- CURTAIN_HOME (R393). -/
  | curtainHome (n : Nat)
  /-- STAGEHAND_COMMAND (R366). -/
  | stagehandCommand (c i : Nat)
  /-- ENGINE_OPERATION_DONE (R365). -/
  | engineOperationDone (c k : Nat)
  /-- SFU_BATCH (R399). -/
  | sfuBatch (o : Nat)
  /-- SFU_RESULT (R398). -/
  | sfuResult (c : Nat)
  /-- PRODUCTION_END (R111). -/
  | productionEnd (p : Nat)
  /-- PREEMPTION (R446). -/
  | preemption (c i : Nat) (why : PreWhy)
  /-- SEAL_MISMATCH (R436). -/
  | sealMismatch (at_ : SealSite) (r : Resource)
  /-- ERROR_WINDOW_EXPIRY (R442). -/
  | errorWindowExpiry (r : Resource)
  /-- RETSEL_MARK (R444). -/
  | retselMark (c grp : Nat)
  /-- STACK_LEVEL_CHANGE (R370). -/
  | stackLevelChange (die stack temp : Nat)
  /-- POWER_CONTROL_TICK (R408). -/
  | powerControlTick (c : Nat) (h : Handles)
  /-- PLL_RELOCK (R406). -/
  | pllRelock (q adv : Nat)
  /-- BOOST_CHARGE (R116). -/
  | boostCharge (q : Nat)
  /-- BOOST_REFILL (R407). -/
  | boostRefill (hot : Bool)
  /-- SLACK_WINDOW (R422). -/
  | slackWindow (phi t : Nat)
  /-- SHELF_FRAME (R411). -/
  | shelfFrame (bytes : List Byte) (t : Nat)
  /-- NEXT_CLASS_RESTORE (R419). -/
  | nextClassRestore (t : Nat)
  /-- SHED_DEADLINE (R418). -/
  | shedDeadline (cls t : Nat)
  /-- DIMMER_BLIND (R417). -/
  | dimmerBlind (t : Nat)
  /-- DIMCURVE_WRITE (R414). -/
  | dimcurveWrite (n : Nat) (x : Word)
  /-- DIMBLIND_WRITE (R417). -/
  | dimblindWrite (x : Word)
  /-- RESET_RELEASE (R476). -/
  | resetRelease
  /-- STAGE_COMPLETE (R476). -/
  | stageComplete (f : StageFind)
  /-- STAGE_TIMEOUT (R476). -/
  | stageTimeout
  /-- MCTL_SVNUP (R483). -/
  | mctlSvnup
  /-- MCTL_RESET (R483). -/
  | mctlReset
  /-- ATTESTATION (R482). -/
  | attestation (last : Byte)
  /-- ATTESTATION_READY (R482). -/
  | attestationReady
  /-- MGMT_REGISTER_WRITE (R483). -/
  | mgmtRegisterWrite (off : Nat) (x : Word)
  /-- HALT (R473). -/
  | halt
  /-- RESUME (R474). -/
  | resume
  /-- STEP (R474). -/
  | stepOne (stepv : Bool)
  /-- STAGE_DOOR_WRITE (R458). -/
  | stageDoorWrite (p : Packet)
  /-- STAGE_DOOR_READ (R458). -/
  | stageDoorRead (p : Packet)
  /-- STAGE_DOOR_READRESP (R459). -/
  | stageDoorReadresp (p : Packet)
  /-- STAGE_DOOR_ATOMIC (R458). -/
  | stageDoorAtomic (p : Packet)
  /-- STAGE_DOOR_MSG (R461). -/
  | stageDoorMsg (p : Packet)
  /-- STAGE_DOOR_ACK (R457). -/
  | stageDoorAck (p : Packet)
  /-- STAGE_DOOR_NACK (R459). -/
  | stageDoorNack (p : Packet)
  /-- STAGE_DOOR_COLL (R466). -/
  | stageDoorColl (p : Packet)
  /-- COLL_COMPLETE (R466). -/
  | collComplete (n : Nat)
  /-- RETRANSMIT (R457). -/
  | retransmit (conn t : Nat)
  /-- CONNECTION_LOST (R457). -/
  | connectionLost (conn t : Nat)
  /-- MSGS_BUSY_RETRY (R463). -/
  | msgsBusyRetry (n t : Nat)
  /-- ROCE_RDMA_WRITE (R460). -/
  | roceRdmaWrite (r : RoceMsg)
  /-- ROCE_RDMA_READ (R460). -/
  | roceRdmaRead (r : RoceMsg)
  /-- ROCE_SEND (R460). -/
  | roceSend (r : RoceMsg)
  /-- ROCE_UNSUPPORTED (R460). -/
  | roceUnsupported (r : RoceMsg)
  /-- INVALID_FRAME (R453). -/
  | invalidFrame (port : Nat)
  /-- ROW_BUFFER_GRANT (R258). -/
  | rowBufferGrant (c : Nat)
  /-- LINK_RETRY (R441). -/
  | linkRetry (r : Resource)
  /-- DYNAMIC_ADDRESS_ASSIGNMENT (R483). -/
  | dynamicAddressAssignment (addr : BitVec 7)
  /-- STAGE_DOOR_KIND_DISCARDED (R456). -/
  | stageDoorKindDiscarded (kind : BitVec 4)
  deriving DecidableEq, Repr

end Sys2Proof
end

