-- ==== Sys2Proof/Machine/State.lean ====
section
/-! DEFINITION. The state of the KR8, as plain data: everything the spec gives the machine to hold, and a few fields of the
model's own: cur, ir, agenda, now and refillAt of State, turnAt and turnOf of Cluster, and outbox of Door (logs 5, 6). -/

namespace Sys2Proof.Machine

/-- A sparse table: a number and what it holds; an absent number holds the table's default. -/
abbrev Map (α : Type) := List (Nat × α)

/-- Why a step stops for good. -/
inductive Fault where
  /-- Raised by step: bring-up has stopped with a non-zero MSTATUS.ERROR, no slot exists, and no event is on the agenda
  (R476). Safe: the device waits for a management write, which is an event. -/
  | bringUpStopped
  deriving DecidableEq, Repr

/-- Why a step answers nothing. -/
inductive Refusal where
  /-- Raised by exec's arm for an instruction that has no meaning yet. Safe: nothing is proved of it. -/
  | notModelled (mnemonic : String)
  deriving DecidableEq, Repr

/-- Why a slot is parked (R91, R123). -/
inductive ParkWhy where
  /-- a pending register (R91) -/
  | pending (r : Nat)
  /-- a queue port empty or full (R126) -/
  | port (n : Nat)
  /-- a full/empty word (R389) -/
  | fullEmpty (ea : Word)
  /-- a join handle (R97) -/
  | join (ea : Word)
  /-- a curtain, by g[a] (R393) -/
  | curtain (n : Word)
  /-- a full vector queue (R238) -/
  | vectorQueue
  /-- no context free (R114) -/
  | context
  /-- the counters of wait: its four fields (R132) -/
  | counters (l st c t : Nat)
  /-- yield until a local cycle (R152) -/
  | yieldUntil (cycle : Nat)
  /-- idle until a wake event (R152) -/
  | idle
  /-- a walk that met MIG = 1, until a local cycle (R346) -/
  | migrating (ea : Word) (until_ : Nat)
  /-- any other condition the instruction's entry names -/
  | entry (ea : Word)
  deriving DecidableEq, Repr

/-- What holds a Stopped slot (R92). -/
inductive StopWhy where
  /-- a debug stop, with its WHY code (R473) -/
  | debug (why : Nat)
  /-- a double trap (R429) -/
  | doubleTrap
  /-- a pre-emption under way (R446) -/
  | preempting (why : PreWhy)
  /-- a pre-empted task held in place (R447), with the WHY of R448 -/
  | held (why : PreWhy)
  deriving DecidableEq, Repr

/-- The state of a slot of R92; a supervisor slot is one with `sup` set and is ready, parked or stopped. -/
inductive SlotSt where
  | free
  | ready
  | parked (why : ParkWhy)
  | stopped (w : StopWhy) (was : Option ParkWhy)
  deriving DecidableEq, Repr

/-- Where bytes lie: the scratch of production `prod` on core `c` (R316), or a physical address (R331). -/
inductive Loc where
  | scratch (c prod off : Nat)
  | phys (pa : Nat)
  deriving DecidableEq, Repr

/-- A store in the slot's buffer (R144): where, how many bytes, the data, the EA, and the last vector instruction queued
before it (R351). -/
structure StoreEntry where
  loc  : Loc
  n    : Nat
  data : Word
  ea   : Word
  after : Nat
  deriving DecidableEq, Repr

/-- Which counter of OUTST an operation holds (R131). -/
inductive Ctr where
  | none | t | c | s | l
  deriving DecidableEq, Repr

/-- A load that performs behind the vector loads queued before it (R373): its place, its bytes, and the last vector
instruction before it. -/
structure LateLoad where
  loc    : Loc
  n      : Nat
  signed : Bool
  seq    : Nat
  deriving DecidableEq, Repr

/-- A result under way to a register (R90): its value is known, but for a load yet to perform; it arrives when RESULT_ARRIVAL
says, and with it the line that a load miss brings into the L1 (R314, R321). -/
structure Arrival where
  reg    : Nat
  val    : Word
  poison : Bool
  ea     : Word
  ctr    : Ctr
  load   : Option LateLoad
  line   : Option Nat
  deriving DecidableEq, Repr

/-- An mfk whose value waits for earlier vector instructions (R150): the entry read, the last instruction waited for,
the first whose flags count, and the value so far; none where it is VFAULT as that last instruction leaves it. -/
structure LateRead where
  reg   : Nat
  index : Nat
  seq   : Nat
  floor : Nat
  val   : Option Word
  deriving DecidableEq, Repr

/-- A cached translation (R335, R339). -/
structure Tlb where
  vpage : Nat
  big   : Bool
  asid  : BitVec 12
  leaf  : Word
  deriving DecidableEq, Repr

/-- A full/empty instruction or a join at its word's home (R388, R97). -/
inductive FeKind where
  | lde | ldf | stf | ste | feq | fefill | feclr | join
  deriving DecidableEq, Repr

/-- A request to a full/empty word (R389, R390): the slot that waits, the word and the data, and the translation it was made under
(R344). -/
structure FeReq where
  kind : FeKind
  reg  : Nat
  slot : Nat
  loc  : Loc
  ea   : Word
  data : Word
  page : Option Tlb
  deriving DecidableEq, Repr

/-- A request that has left the slot and whose answer the slot waits for (R389, R97, R393). -/
inductive Waiting where
  /-- nothing -/
  | none
  /-- a full/empty request or a join is on its way to its word's home, or listed there -/
  | request (ea : Word)
  /-- it was refused for want of an entry, to be sent again at a local cycle (R391) -/
  | refused (q : FeReq) (at_ : Nat)
  /-- a curtain arrival is on its way to its home (R393) -/
  | arriving (n : Word)
  /-- a curtain arrival was counted at home `home`, entry `index`, in generation `ag` (R395) -/
  | arrived (home index : Nat) (ag : BitVec 32)
  deriving DecidableEq, Repr

/-- A translation being invalidated: the page, or every page; the number, or every number (R154, R155). -/
structure Invalidation where
  page  : Option Word
  asid  : Option (BitVec 12)
  purge : Bool
  frames : List Nat
  deriving DecidableEq, Repr

/-- What a slot stops for while its context freezes: running strips end first (R424, R473). -/
inductive FreezeFor where
  /-- a trap of scalar origin: its code, TRAPADDR and REG -/
  | trap (cause : Nat) (addr : Word) (reg : Nat)
  /-- a trap of vector origin -/
  | vector
  /-- a debug stop, with its WHY code -/
  | debug (why : Nat)
  deriving DecidableEq, Repr

/-- A slot's debug registers (R472), and what a STEP, a HALT or a RESUME has asked for: a STEP is under way, its instruction
has still to issue, its entry has still to complete; a HALT waits; no PC match on the next issue; and an entry at DBGVC has
completed (R473, R474). -/
structure SlotDbg where
  brk     : Bool
  vcen    : Bool
  pcen    : Bool
  pc      : Word
  vc      : Word
  lost    : Bool
  stepping : Bool
  stepReq : Bool
  stepVec : Bool
  haltReq : Bool
  skipPc  : Bool
  vcHit   : Bool
  deriving DecidableEq, Repr

/-- A thread slot (R89 to R99, R118, R124 to R131, R144, R426, R438). `since` is the local cycle of the turn at which the
slot parked on the instruction it has not yet issued (R123), `ilen` the length in bytes of the instruction it waits on;
`freezing` what it stops for once its context's running strips have ended (R424); `retiring` that it parks in a `retire` of the handler
state, which it has left (R427); `flagWrites` the writes of FFLAGS still to take
effect, each with the vector instruction queued last before it (R73). -/
structure Slot where
  st       : SlotSt
  freezing : Option FreezeFor
  sup      : Bool
  handler  : Bool
  retiring : Bool
  pc       : Word
  g        : Vector Word 32
  pend     : BitVec 32
  poison   : BitVec 32
  gea      : Map Word
  handle   : Word
  fmtp     : Word
  sclp     : Word
  taskid   : BitVec 32
  prodid   : Nat
  cls      : BitVec 2
  patience : BitVec 32
  qcode    : Vector (BitVec 3) 8
  vctx     : Option Nat
  fflags   : BitVec 6
  frm      : BitVec 3
  outT     : Nat
  outC     : Nat
  outS     : Nat
  outL     : Nat
  stalerd  : BitVec 32
  trappc   : Word
  trapvc   : Word
  trapcause : Word
  trapaddr : Word
  trapvec  : Word
  hscratch0 : Word
  hscratch1 : Word
  saveptr  : Word
  sbuf     : List StoreEntry
  arrivals : List Arrival
  late     : List LateRead
  flagWrites : List (Nat × BitVec 6)
  waiting  : Waiting
  since    : Option Nat
  ilen     : Nat
  qCmd     : List Word
  qStat    : List Word
  qSfuReq  : List Word
  qSfuRes  : List Word
  invals   : List Invalidation
  saved    : Bool
  dbg      : SlotDbg
  deriving DecidableEq, Repr

/-- A task packet (R93). -/
structure TaskPacket where
  pc     : Word
  arg    : Word
  handle : Word
  fmtp   : Word
  sclp   : Word
  prodid : Nat
  taskid : BitVec 32
  deriving DecidableEq, Repr

/-- An element fault (R205, R430): the element, its cause code and its address. -/
structure ElemFault where
  elem  : Nat
  cause : Nat
  addr  : Word
  deriving DecidableEq, Repr

/-- A trap of vector origin that has fallen due (R424, R430). -/
structure VTrap where
  entry : Word
  cause : Nat
  elem  : Bool
  addr  : Word
  deriving DecidableEq, Repr

/-- How far an entry of the vector queue has come. -/
inductive EntrySt where
  /-- strips up to its restart point have started -/
  | queued
  /-- nothing of it is left to start -/
  | done
  /-- a strip stop fell due at this entry (R352) -/
  | stopped (cause : Nat) (addr : Word)
  deriving DecidableEq, Repr

/-- A resident band: its first register and register count, its format-type, weights per column, block length, bound rows;
no register where none is loaded (R264, R267). -/
structure BandDesc where
  band : Nat
  regs : Nat
  ft   : Nat
  kc   : Nat
  l    : Nat
  bnd  : Bool
  deriving DecidableEq, Repr

/-- What a vector load found at one access as its first strip began: it counts as one access (R351, R373). -/
structure Seen where
  elem  : Nat
  scale : Bool
  val   : Nat
  bad   : Bool
  old   : Bool
  deriving DecidableEq, Repr

/-- An entry of a context's vector queue (R238 to R240, R449); `start` is the VSTART that applies to it, `origin` the one it
issued under, `readyAt` the local cycle at which its expansion
delay ends (R241), `pinned` the first element above those whose pages its unit has pinned (R342), `owned` the 32-byte lines it
owns until it has written them (R378), `seen` what its later strips will load (R373), `snapV` and `snapM` what a tree-fed
instruction has drained of its registers (R254), `begun` whether a cross-element or tree-fed one has started a strip (R188), and
`passes` the tree passes it has had: for its next strip, where they are a strip's own (R258). -/
structure QEntry where
  seq     : Nat
  addr    : Word
  words   : List Half
  op      : VOp
  f       : F3Fields
  ga      : Word
  gb      : Word
  gc      : Word
  vl      : Nat
  vtype   : BitVec 20
  start   : Nat
  restart : Nat
  logG    : Nat
  band    : BandDesc
  vdcfg   : Word
  seed    : Word
  st      : EntrySt
  flags   : BitVec 6
  faults  : List ElemFault
  result  : Option Word
  acc     : List Word
  pinned  : Nat
  readyAt : Nat
  late    : Option VTrap
  origin  : Nat
  owned   : List Loc
  seen    : List Seen
  snapV   : Map (List Row32)
  snapM   : Map (List Bool)
  begun   : Bool
  passes  : Nat
  deriving DecidableEq, Repr

/-- A hold of a row buffer: the rows' FT, M, K and L, the bytes of the rows and then of their scales, and the bound bytes
(R264, R273, R295). -/
structure Hold where
  held  : Bool
  ft    : Nat
  m     : Nat
  k     : Nat
  l     : Nat
  data  : List Byte
  bound : List Byte
  deriving DecidableEq, Repr

/-- What an expansion in the loop buffer is keyed on: an entry's address and words, its g operands, VL, VTYPE and VSTART (R241). -/
structure ExpKey where
  addr  : Word
  words : List Half
  ga    : Word
  gb    : Word
  gc    : Word
  vl    : Nat
  vtype : BitVec 20
  start : Nat
  deriving DecidableEq, Repr

/-- A vector context of a production on a core. `band` and `holds` are as the completed instructions left them, `bandIssue`
and `holdsIssue` as they stand in program order (R263); the block map is keyed 256 × array + position. `latch` holds the latches of a
way's columns, keyed 4 × way + 0 to 3 for C, M, F and T, and `hidden` its hidden row H0; no instruction reads either (R114, R165 to R178, R242, R244, R288, R431, R467). -/
structure Ctx where
  ways    : List Nat
  groups  : List (List Nat)
  bound   : Option Nat
  vl      : Nat
  vstart  : Nat
  hiElems : Nat
  hiRegs  : Nat
  vtype   : BitVec 20
  vfault  : Word
  vdcfg   : Word
  allow   : Nat
  tokens  : Nat
  lcy     : Map Nat
  v       : Map (List Row32)
  m       : Map (List Bool)
  band    : BandDesc
  bandIssue : BandDesc
  logG    : Nat
  blockMap : Map Nat
  holds   : Map Hold
  holdsIssue : Map Hold
  accs    : Map Word
  tileQ   : List Word
  treeQ   : List Word
  queue   : List QEntry
  seq     : Nat
  vfWrites : List (Nat × Word)
  frozen  : Bool
  trap    : Option VTrap
  loopBuf : List ExpKey
  latch   : Map (List Bool)
  hidden  : Map (List Bool)
  defStrip : Int
  skipStrip : Nat
  defTree : Int
  skipTree : Nat
  defRow  : Int
  skipRow : Nat
  defTile : Int
  skipTile : Nat
  defSfu  : Int
  skipSfu : Nat
  deriving DecidableEq, Repr

/-- The condition of a cache way (R159). -/
inductive WaySt where
  | cache | converting | compute | returning
  deriving DecidableEq, Repr

/-- A way and the production that owns it. -/
structure Way where
  st    : WaySt
  owner : Nat
  deriving DecidableEq, Repr

/-- Who holds an 8 KiB granule of the near store, or that it is withheld (R311 to R315, R479). -/
inductive Granule where
  | l1
  | scratch (prod : Nat)
  | withheld
  deriving DecidableEq, Repr

/-- The scratch of one production on one core (R312, R316, R319). -/
structure Scratch where
  granules : List Nat
  bytes  : Map Byte
  full   : List Nat
  poison : List Nat
  deriving DecidableEq, Repr

/-- A pin: a held translation and its holder, a context entry or a stagehand operation (R341). -/
structure Pin where
  tlb    : Tlb
  ctx    : Nat
  seq    : Nat
  atIssue : Bool
  deriving DecidableEq, Repr

/-- A pin request that waits, in the order made: its context, its entry, and, after a walk that met MIG = 1, the local cycle
from which it walks again (R343, R346). -/
structure PinWait where
  ctx    : Nat
  seq    : Nat
  until_ : Nat
  deriving DecidableEq, Repr

/-- A core's copy of a line homed on another die (R322 to R324, R382, R383). -/
structure RLine where
  line   : Nat
  data   : List Byte
  dirty  : BitVec 32
  stamp  : Option Nat
  superseded : Bool
  poison : Bool
  deriving DecidableEq, Repr

/-- A line that a cache holds, in one of its ways; `dirty` for a line of the core's own die that its L2 has still to write
back (R311, R322). -/
structure Tag where
  line  : Nat
  way   : Nat
  dirty : Bool
  deriving DecidableEq, Repr

/-- A line of the instruction cache, with the number of the fill that brought it (R328). -/
structure ILine where
  line  : Nat
  data  : List Byte
  stamp : Nat
  deriving DecidableEq, Repr

/-- Array cycles in which lanes of a strip are charged alike (R468): how many, and the lanes in use, masked, beyond VL and in
a fixed phase in each; `hook` is what LCY_HOOK gains as the first begins (R470). -/
structure Phase where
  cycles : Nat
  use    : Nat
  mask   : Nat
  beyond : Nat
  start  : Nat
  hook   : Nat
  deriving DecidableEq, Repr

/-- A read of the verdict word that has returned to a strip: the array cycles of the strip at which it was issued and at which it
came back, and its key (R299). -/
structure VerdictRead where
  issued : Nat
  back   : Nat
  key    : Word
  deriving DecidableEq, Repr

/-- A strip that runs on a way, or a pass or instruction on a unit, numbered 16 for the tree, 17 for the tile unit and 18 for
a row buffer's fill (R252, R259, R275, R284): its context, its entry, the way, the buffers its relay holds, its elements, its
begin, its end (0 while its verdict reads are awaited), what its lanes are charged, group of lanes by group, and the array
cycles that went by before `begun`, where the lane rate has changed since it started (R405), and, for `mma` and `mmav`, the array
cycles after which row m has been written, the way's row-m chaining bits (R281); `reads` are its reads of the verdict word
(R299), and `owes` the element-beats of its subnormal pass, debited once that has run (R257). -/
structure Strip where
  ctx   : Nat
  seq   : Nat
  way   : Nat
  relay : Nat
  first : Nat
  last  : Nat
  begun : Nat
  endAt : Nat
  tracks : List (List Phase)
  spent : Nat
  rows  : List Nat
  reads : List VerdictRead
  owes  : Nat
  deriving DecidableEq, Repr

/-- Whose operation it is: the slot that issued it, and the production and number of its task (R365, R450). -/
structure Owner where
  slot : Nat
  prod : Nat
  task : BitVec 32
  deriving DecidableEq, Repr

/-- What a stagehand operation does (R360 to R368). -/
inductive SgKind where
  | copy | copy2d | gather | nearReduce
  deriving DecidableEq, Repr

/-- A stagehand or near-memory operation under way (R360, R367): who issued it, with what privilege, its token register or,
none, its queue's status queue, its operands, the descriptor words or list it captured, its token once it has ended, the
destination lines it owns (R378), the bytes it read of its sources, piece by piece, none of an aperture (R380), and its place among
the engines' operations. -/
structure SgOp where
  id     : Nat
  kind   : SgKind
  owner  : Owner
  sup    : Bool
  user   : Bool
  reg    : Option Nat
  dst    : Word
  src    : Word
  ctl    : Word
  blk    : List Word
  token  : Option Word
  owned  : List Loc
  snap   : List (List Byte)
  age    : Nat
  deriving DecidableEq, Repr

/-- A request of a slot to the special-function unit (R401, R402): to a register or, none, from its request queue; the CAUSE
of a bad item; and how many items of the request queue go before it (R403). -/
structure SfuReq where
  slot  : Nat
  reg   : Option Nat
  fn    : Nat
  x     : BitVec 32
  tag   : Nat
  cause : Nat
  behind : Nat
  deriving DecidableEq, Repr

/-- A batch of the special-function unit: scalar requests, or elements of the strip of a `vsfu`, by context and way (R397, R400). -/
structure SfuBatch where
  reqs  : List SfuReq
  strip : Option (Nat × Nat)
  deriving DecidableEq, Repr

/-- A strip of `vsfu` that runs: the active elements of it that are in no batch yet, its batches not returned, and the array
cycles of its own work (R400, R404). -/
structure SfuStrip where
  ctx   : Nat
  way   : Nat
  left  : Nat
  out   : Nat
  beats : Nat
  deriving DecidableEq, Repr

/-- A saved task (R448 to R450): its save area and what the device keeps beside it; the writes of VFAULT count entries of its
queue; `tileQ` and `treeQ` are the items of its context's queues (R117), and `bounds` the bound bytes
of its two holds beyond the 256 that the area has room for (R295). -/
structure Saved where
  area : Word
  prod : Nat
  task : BitVec 32
  cls  : BitVec 2
  pool : Word
  slot : Slot
  entries : List QEntry
  vfWrites : List (Nat × Word)
  vstart : Nat
  tileQ : List Word
  treeQ : List Word
  bounds : List (List Byte)
  deriving DecidableEq, Repr

/-- A core: among the rest its caches' tags, most recently used first, the lines of its write-through buffer, each with the
local cycle at which it entered (R321), and the slots that ask for pins at issue, in the order they asked (R89, R93, R159 to
R168, R309 to R328, R338 to R344, R360, R397 to R400, R454). -/
structure Core where
  ways    : Map Way
  outGroups : BitVec 64
  marked  : BitVec 64
  gran    : Map Granule
  scratch : Map Scratch
  wings   : List TaskPacket
  ptroot  : Word
  asid    : BitVec 12
  mbox    : Word
  tlb     : List Tlb
  pins    : List Pin
  pinWait : List PinWait
  pinAsk  : List Nat
  l1      : List Tag
  l2      : List Tag
  through : List (Nat × Nat)
  remote  : List RLine
  icache  : List ILine
  fills   : Nat
  rowHold : List Nat
  strips  : List Strip
  stripPtr : Nat
  treePtr : Nat
  rowPtr  : Nat
  tilePtr : Nat
  sfuPtr  : Nat
  stripSlots : Nat
  chainOff : BitVec 4
  halfRate : Bool
  vmuDiv  : Nat
  boostOk : Bool
  sgOps   : List SgOp
  sgNext  : Nat
  sfuReqs : List SfuReq
  sfuOrder : List Nat
  sfuVec  : List SfuStrip
  sfuTurn : Bool
  sfuPort : List SfuBatch
  sfuRun  : List SfuBatch
  feWait  : List FeReq
  ctxWait : List Nat
  saved   : List Saved
  deriving DecidableEq, Repr

/-- A merge-table entry (R329). -/
structure Merge where
  block : Nat
  write : Bool
  opened : Nat
  lines : List Nat
  deriving DecidableEq, Repr

/-- A cluster (R130, R329, R405, R406, R116): `clock` is the clock that power control has set and `pll` the one its PLL is locked
to, in steps of 0.3125 GHz, 9 for the boost clock; `boostCycles` the cycles run at the boost clock up to local cycle `boostFrom` and
not yet charged, `boostLast` the context charged last; `turnOf` is the slot that took its turn last, at local cycle `turnAt`
(log 5). -/
structure Cluster where
  cycle  : Nat
  merges : List Merge
  clock  : Nat
  pll    : Nat
  boostCycles : Nat
  boostFrom : Nat
  boostLast : Nat
  turnAt : Nat
  turnOf : Nat
  deriving DecidableEq, Repr

/-- A stack's thermal state (R369, R370). -/
structure Thermal where
  temp  : Nat
  level : Nat
  deriving DecidableEq, Repr

/-- A compute die (R18, R26, R104, R339, R369, R381, R390). -/
structure Die where
  present : Bool
  board   : List TaskPacket
  feWait  : List FeReq
  tlb     : List Tlb
  thermal : Map Thermal
  rowVer  : Map Nat
  spares  : Map Nat
  deriving DecidableEq, Repr

/-- A live production (R106 to R113, R418): among the rest where DONE lies, its address, the root of the table that its launcher's
core had, and the translation, until it is invalidated (R111, R344). -/
structure Prod where
  cores    : List (Nat × Nat)
  ways     : Nat
  contexts : Nat
  scratchG : Nat
  cls      : BitVec 2
  domain   : Nat
  share    : Nat
  share0   : Nat
  lright   : Bool
  launcher : Nat
  curtains : Nat
  pcurtains : Nat
  patience : BitVec 32
  fmtp     : Word
  sclp     : Word
  spillBase : Word
  spillSize : Word
  done     : Loc
  doneFe   : Bool
  doneEa   : Word
  doneRoot : Word
  donePage : Option Tlb
  core0    : Nat
  paused   : Bool
  shed     : Bool
  ending   : Option Nat
  nextTask : Nat
  deriving DecidableEq, Repr

/-- A curtain (R392): its home die, or the door die (16); the production and the index within its allotment. -/
structure Curtain where
  home  : Nat
  prod  : Nat
  index : Nat
  gen   : BitVec 32
  count : Nat
  n     : Nat
  deriving DecidableEq, Repr

/-- A curtain arrival on its way to its home, or a home's answer to a curtainx on its way back to a register (R393). -/
structure CurtainReq where
  slot  : Nat
  home  : Nat
  prod  : Nat
  index : Nat
  n     : Nat
  answer : Option (Nat × Word)
  deriving DecidableEq, Repr

/-- A write notice under way to a die (R383). -/
structure Notice where
  die : Nat
  row : Nat
  ver : Nat
  deriving DecidableEq, Repr

/-- What left the package through a port. -/
inductive Sent where
  | packet (p : Packet)
  | roce (conn : Nat) (kind : Nat) (psn : Nat) (data : List Byte)
  | interrupt (n : Nat)
  | report (bytes : List Byte)
  | attestBusy
  deriving DecidableEq, Repr

/-- Who waits for a vector entry's or an engine operation's packets (R459). -/
inductive RKey where
  | strip (ctx seq : Nat)
  | engine (core id : Nat)
  deriving DecidableEq, Repr

/-- A packet of a vector entry or an engine operation: its first byte, its length, and its answer once it has come, a
STATUS of R456, with the data of a READ (R459). -/
structure Remote where
  key    : RKey
  pa     : Nat
  n      : Nat
  write  : Bool
  status : Option Nat
  data   : List Byte
  deriving DecidableEq, Repr

/-- What a request sent to a peer answers (R459, R463, R466). -/
inductive Awaiting where
  /-- a scalar load or atomic through an aperture; `acq` for one that acquires, at a scope wider than core -/
  | load (o : Owner) (reg size : Nat) (signed : Bool) (ea : Word) (acq : Bool)
  /-- a scalar store through an aperture -/
  | store (o : Owner) (pa : Nat)
  /-- a message of `msgs`, with its mailbox, its payload and the time of its first busy answer -/
  | msg (o : Owner) (reg offset : Nat) (data : List Byte) (busy : Option Nat)
  /-- a packet of a vector entry or an engine operation -/
  | remote (k : RKey) (pa : Nat) (write : Bool)
  /-- a packet of the k-th collective on a group -/
  | coll (gid k : Nat)
  /-- the write of a production's DONE word, with the core whose fault ring hears of it -/
  | done (core prod pa : Nat)
  deriving DecidableEq, Repr

/-- A connection (R456, R457, R459, R460): the next PSN each way, the packets not acknowledged, what waits for an answer by TAG,
the messages delivered, when it last made progress and last sent, the highest ACKPSN that has come, what it answered to each request by PSN, and the slots that have
stored through it since they last sent a REL packet. -/
structure Conn where
  psnOut : Nat
  psnIn  : Nat
  unacked : List Packet
  waits  : List (Nat × Awaiting)
  msgno  : Nat
  progress : Nat
  sentAt : Nat
  acked  : Nat
  answers : Map Packet
  wrote  : List Nat
  deriving DecidableEq, Repr

/-- A message answered busy, to be sent again (R463). -/
structure BusyMsg where
  conn  : Nat
  wait  : Awaiting
  last  : Nat
  deriving DecidableEq, Repr

/-- An arrival that waits at a migrating page, with the operation it asks for (R346, R454, R455). -/
inductive Held where
  | stage (kind : Nat) (p : Packet)
  | roce (kind : Nat) (r : RoceMsg)
  deriving DecidableEq, Repr

/-- A request that waits at a migrating page to learn its connection, and whether it goes through the aperture (R346, R454). -/
structure Deferred where
  conn   : Nat
  far    : Bool
  packet : Packet
  wait   : Awaiting
  deriving DecidableEq, Repr

/-- A collective this package takes part in (R464 to R466): its number, its place among those on its group, who issued it and
with what privilege, its token register, its group with the connection of each member (64 for itself), its addresses, its own
data once read and sent, the CAUSE of a fault at its source, whether a member is lost, and, as a stagehand operation has them, what it
read of its source as it issued, the lines it owns and its place among the engines' operations (R378, R380). -/
structure Coll where
  id    : Nat
  k     : Nat
  owner : Owner
  sup   : Bool
  user  : Bool
  reg   : Nat
  gid   : Nat
  ctl   : Nat
  count : Nat
  self  : Nat
  conns : List Nat
  src   : Word
  dst   : Word
  own   : Option (List Byte)
  fault : Option Nat
  lost  : Bool
  snap  : List (List Byte)
  owned : List Loc
  age   : Nat
  deriving DecidableEq, Repr

/-- What one member has sent for its k-th operation on a group (R465): KIND, OP and ELEM, C and N, and data. -/
structure CollIn where
  conn  : Nat
  gid   : Nat
  k     : Nat
  ctl   : Nat
  count : Nat
  n     : Nat
  data  : List Byte
  deriving DecidableEq, Repr

/-- The ports of the door die (R453 to R466). -/
structure Door where
  conns  : Map Conn
  remotes : List Remote
  busy   : List BusyMsg
  colls  : List Coll
  collNext : Nat
  collIn : List CollIn
  collSeen : Map Nat
  held   : List Held
  deferred : List Deferred
  outbox : List Sent
  deriving DecidableEq, Repr

/-- The dimmer and the slack control (R410 to R422). -/
structure Dimmer where
  curve    : Map Word
  level    : Nat
  target   : Nat
  hold     : Word
  blind    : Word
  deadline : Word
  crcErr   : Nat
  gaps     : Nat
  accepted : Nat
  blindOn  : Bool
  present  : Bool
  last     : Word
  lastSeq  : Option Nat
  lastTime : Nat
  holdFrom : Option Nat
  partialBytes : List Byte
  shedDeadlines : List (Nat × Nat)
  restoring : List Nat
  nextRestore : Nat
  slack    : Nat
  slackAt  : Nat
  slackLow : Bool
  slackEnd : Nat
  deriving DecidableEq, Repr

/-- Errors and retirement (R441 to R444). -/
structure Errors where
  win    : Map Word
  counts : List (Resource × Nat × Nat)
  retsel : Word
  marks  : List (Nat × Nat)
  spared : List (Nat × Nat)
  deriving DecidableEq, Repr

/-- Bring-up, identity and management (R472 to R483): the stage, when it began, ERROR and DONE; the nonce, the report with its signature,
whether it is readable and how many were signed; the fused minimum SVN and the key digests with their revocations; the boot
flash; the I3C address; DBGSEL; the SVN of the firmware that runs; and the digests of the images verified. -/
structure Mgmt where
  stage   : Nat
  stageAt : Nat
  error   : Nat
  done    : Bool
  nonce   : List Byte
  report  : List Byte
  ready   : Bool
  reports : Nat
  minSvn  : Nat
  keys    : List (List Byte × Bool)
  flash   : Map Byte
  i3cAddr : BitVec 7
  dbgSel  : Word
  running : Option Nat
  measured : List (List Byte)
  deriving DecidableEq, Repr

/-- The machine. Slot i of core c is number 16c + i; context k of production p on core c is number 16384c + 4p + k. -/
structure State where
  slots    : Map Slot
  ctxs     : Map Ctx
  cores    : Map Core
  clusters : Map Cluster
  dies     : Map Die
  prods    : Map Prod
  sfuLast  : Map Nat
  mem      : List Host.Cell
  full     : List Nat
  poisoned : List Nat
  feReqs   : List FeReq
  curtains : List Curtain
  curtainReqs : List CurtainReq
  notices  : List Notice
  door     : Door
  dimmer   : Dimmer
  errors   : Errors
  mgmt     : Mgmt
  cur      : Nat
  ir       : List Half
  agenda   : List Instr
  now      : Nat
  refillAt : Nat
  deriving DecidableEq, Repr

/-- The machine as reset is released: bring-up at stage 1 and the compute dies held (R476). Every table is empty, so each
part of it stands at the defaults of Machine/Memory.lean; memory lists nothing. The dimmer's registers are at the reset
values of R412 and R415. -/
def State.reset : State where
  slots := []
  ctxs := []
  cores := []
  clusters := []
  dies := []
  prods := []
  sfuLast := []
  mem := []
  full := []
  poisoned := []
  feReqs := []
  curtains := []
  curtainReqs := []
  notices := []
  door := ⟨[], [], [], [], 0, [], [], [], [], []⟩
  dimmer := {
    curve := []
    level := 0
    target := 0
    hold := 0x320000C8
    blind := 0x6400
    deadline := 1000
    crcErr := 0
    gaps := 0
    accepted := 0
    blindOn := false
    present := false
    last := 0
    lastSeq := none
    lastTime := 0
    holdFrom := none
    partialBytes := []
    shedDeadlines := []
    restoring := []
    nextRestore := 0
    slack := 0
    slackAt := 0
    slackLow := true
    slackEnd := 0 }
  errors := ⟨[], [], 0, [], []⟩
  mgmt := {
    stage := 1
    stageAt := 0
    error := 0
    done := false
    nonce := List.replicate 32 0
    report := []
    ready := false
    reports := 0
    minSvn := 0
    keys := []
    flash := []
    i3cAddr := 0x5A
    dbgSel := 0
    running := none
    measured := [] }
  cur := 0
  ir := []
  agenda := []
  now := 0
  refillAt := 0

end Sys2Proof.Machine
end

