-- ==== Sys2Proof/Machine/Memory.lean ====
section
/-! DEFINITION. Sparse tables, physical memory in its canonical form, the copies a core holds of lines homed on other dies,
scratch, translation and pins (12, 13). -/

namespace Sys2Proof.Machine

/-- What a table holds at a number, or its default. -/
def look {α : Type} (m : Map α) (k : Nat) (d : α) : α :=
  match m with
  | [] => d
  | (j, x) :: t => if j = k then x else look t k d

/-- A table with one entry replaced or added, in rising order of numbers. -/
def put {α : Type} (m : Map α) (k : Nat) (x : α) : Map α :=
  match m with
  | [] => [(k, x)]
  | (j, y) :: t => if j = k then (k, x) :: t else if k < j then (k, x) :: (j, y) :: t else (j, y) :: put t k x

/-! Physical memory (R331, R332). A byte that no entry lists reads 0: bring-up stage 4 zeroes memory (R476). -/

/-- The byte at a physical address. -/
def memByte (m : List Host.Cell) (a : Nat) : Byte :=
  match m with
  | [] => 0
  | (k, v) :: t => if a < k then 0 else if a = k then v else memByte t a

/-- One byte written, the list kept rising and without zeros. -/
def memPut (m : List Host.Cell) (a : Nat) (b : Byte) : List Host.Cell :=
  match m with
  | [] => if b = 0 then [] else [(a, b)]
  | (k, v) :: t =>
    if a < k then (if b = 0 then (k, v) :: t else (a, b) :: (k, v) :: t)
    else if a = k then (if b = 0 then t else (a, b) :: t)
    else (k, v) :: memPut t a b

/-- The canonical form above a bound: addresses strictly rising, no byte that reads as an unlisted one. -/
def memWfFrom (lo : Nat) (m : List Host.Cell) : Bool :=
  match m with
  | [] => true
  | (k, v) :: t => decide (lo ≤ k) && v != 0 && memWfFrom (k + 1) t

/-- The canonical form of memory. -/
def Memory.wf (m : List Host.Cell) : Bool := memWfFrom 0 m

/-- Bytes written at rising addresses. -/
def memPutAll (m : List Host.Cell) (a : Nat) (bs : List Byte) : List Host.Cell :=
  match bs with
  | [] => m
  | b :: t => memPutAll (memPut m a b) (a + 1) t

/-- `n` bytes from rising addresses. -/
def memBytes (m : List Host.Cell) (a n : Nat) : List Byte :=
  match n with
  | 0 => []
  | n + 1 => memByte m a :: memBytes m (a + 1) n

/-- A little-endian number of bytes (R6). -/
def leNat (bs : List Byte) : Nat :=
  match bs with
  | [] => 0
  | b :: t => b.toNat + 256 * leNat t

/-- The `n` little-endian bytes of a number (R6). -/
def leBytes (n x : Nat) : List Byte :=
  match n with
  | 0 => []
  | n + 1 => BitVec.ofNat 8 x :: leBytes n (x / 256)

/-- `n` elements of `f` from `i` up. -/
def tab {α : Type} (n i : Nat) (f : Nat → α) : List α :=
  match n with
  | 0 => []
  | n + 1 => f i :: tab n (i + 1) f

/-- One bit of the CRC of R434. -/
def crcBit (c : BitVec 16) (b : Bool) : BitVec 16 :=
  if bitOf c 15 != b then (c <<< 1) ^^^ 0x1021 else c <<< 1

/-- One byte, most significant bit first (R434). -/
def crcByte (c : BitVec 16) (b : Byte) : BitVec 16 :=
  crcBit (crcBit (crcBit (crcBit (crcBit (crcBit (crcBit (crcBit c (bitOf b 7)) (bitOf b 6)) (bitOf b 5)) (bitOf b 4))
    (bitOf b 3)) (bitOf b 2)) (bitOf b 1)) (bitOf b 0)

/-- The seal of bytes in ascending address; the CRC of a shelf frame (R410, R434). A seal is formed from its line's data,
so no line's seal is kept apart from it (log 8). -/
def crc16 (bs : List Byte) : BitVec 16 := bs.foldl crcByte 0xFFFF

/-! Where things are (R16, R18, R332). -/

/-- The core of a slot number. -/
def slotCore (i : Nat) : Nat := i / 16
/-- The die of a core. -/
def coreDie (c : Nat) : Nat := c / 128
/-- The cluster of a core. -/
def coreCluster (c : Nat) : Nat := c / 4
/-- The octet of a core. -/
def coreOctet (c : Nat) : Nat := c / 8
/-- Whether an address is HBM (R331). -/
def isHbm (pa : Nat) : Bool := decide (pa < 2 ^ 41)
/-- Whether an address is a door-die aperture (R331). -/
def isAperture (pa : Nat) : Bool := decide (2 ^ 51 ≤ pa) && decide (pa < 2 ^ 52)
/-- The home die of an HBM address (R332). -/
def homeDie (pa : Nat) : Nat := pa / 2 ^ 38 % 8
/-- The 32-byte line of an address. -/
def lineOf (pa : Nat) : Nat := pa / 32
/-- The 256-byte row or block of an address. -/
def rowOf (pa : Nat) : Nat := pa / 256

/-! Parts of the state. -/

/-- A slot that dispatch has not set yet: free, every register 0, no context (log 2). -/
def slot0 : Slot where
  st := .free
  freezing := none
  sup := false
  handler := false
  retiring := false
  pc := 0
  g := Vector.replicate 32 0
  pend := 0
  poison := 0
  gea := []
  handle := 0
  fmtp := 0
  sclp := 0
  taskid := 0
  prodid := 0
  cls := 0
  patience := 0
  qcode := Vector.replicate 8 0
  vctx := none
  fflags := 0
  frm := 0
  outT := 0
  outC := 0
  outS := 0
  outL := 0
  stalerd := 0
  trappc := 0
  trapvc := 0
  trapcause := 0
  trapaddr := 0
  trapvec := 0
  hscratch0 := 0
  hscratch1 := 0
  saveptr := 0
  sbuf := []
  arrivals := []
  late := []
  flagWrites := []
  waiting := .none
  since := none
  ilen := 2
  qCmd := []
  qStat := []
  qSfuReq := []
  qSfuRes := []
  invals := []
  saved := false
  dbg := ⟨false, false, false, 0, 0, false, false, false, false, false, false, false⟩

/-- A hold that holds nothing (R273). -/
def hold0 : Hold := ⟨false, 0, 0, 0, 0, [], []⟩

/-- No band (R264). -/
def band0 : BandDesc := ⟨0, 0, 0, 0, 0, false⟩

/-- An entry of nothing, for tables that name none. -/
def entry0 : QEntry where
  seq := 0
  addr := 0
  words := []
  op := .mset
  f := ⟨0, 0, 0, 0, VMask.all⟩
  ga := 0
  gb := 0
  gc := 0
  vl := 0
  vtype := 0
  start := 0
  restart := 0
  logG := 0
  band := band0
  vdcfg := 0
  seed := 0
  st := .queued
  flags := 0
  faults := []
  result := none
  acc := []
  pinned := 0
  readyAt := 0
  late := none
  origin := 0
  owned := []
  seen := []
  snapV := []
  snapM := []
  begun := false
  passes := 0

/-- A context before launch makes one: no ways, nothing bound, VTYPE at its reset value (R171). -/
def ctx0 : Ctx where
  ways := []
  groups := []
  bound := none
  vl := 0
  vstart := 0
  hiElems := 0
  hiRegs := 0
  vtype := 0x0041D
  vfault := 0
  vdcfg := 0
  allow := 0
  tokens := 0
  lcy := []
  v := []
  m := []
  band := band0
  bandIssue := band0
  logG := 0
  blockMap := []
  holds := []
  holdsIssue := []
  accs := []
  tileQ := []
  treeQ := []
  queue := []
  seq := 0
  vfWrites := []
  frozen := false
  trap := none
  loopBuf := []
  latch := []
  hidden := []
  defStrip := 0
  skipStrip := 0
  defTree := 0
  skipTree := 0
  defRow := 0
  skipRow := 0
  defTile := 0
  skipTile := 0
  defSfu := 0
  skipSfu := 0

/-- A core at stage 4: every way and granule in the caches, nothing held (R159, R311, R476). -/
def core0 : Core where
  ways := []
  outGroups := 0
  marked := 0
  gran := []
  scratch := []
  wings := []
  ptroot := 0
  asid := 0
  mbox := 0
  tlb := []
  pins := []
  pinWait := []
  pinAsk := []
  l1 := []
  l2 := []
  through := []
  remote := []
  icache := []
  fills := 0
  rowHold := []
  strips := []
  stripPtr := 0
  treePtr := 0
  rowPtr := 0
  tilePtr := 0
  sfuPtr := 0
  stripSlots := 16
  chainOff := 0
  halfRate := false
  vmuDiv := 1
  boostOk := true
  sgOps := []
  sgNext := 0
  sfuReqs := []
  sfuOrder := []
  sfuVec := []
  sfuTurn := false
  sfuPort := []
  sfuRun := []
  feWait := []
  ctxWait := []
  saved := []

/-- A cluster at full clock, its counter 0 (R130, R405). -/
def cluster0 : Cluster := ⟨0, [], 8, 8, 0, 0, 0, 0, 0⟩

/-- A die that is present, with nothing queued (R26, R104). -/
def die0 : Die := ⟨true, [], [], [], [], [], []⟩

/-- The slot of a number. -/
def slotAt (s : State) (i : Nat) : Slot := look s.slots i slot0
/-- The context of a number. -/
def ctxAt (s : State) (x : Nat) : Ctx := look s.ctxs x ctx0
/-- The core of a number. -/
def coreAt (s : State) (c : Nat) : Core := look s.cores c core0
/-- The cluster of a number. -/
def clusterAt (s : State) (q : Nat) : Cluster := look s.clusters q cluster0
/-- The die of a number. -/
def dieAt (s : State) (d : Nat) : Die := look s.dies d die0

/-- A slot changed. -/
def setSlot (s : State) (i : Nat) (x : Slot) : State := { s with slots := put s.slots i x }
/-- A context changed. -/
def setCtx (s : State) (k : Nat) (x : Ctx) : State := { s with ctxs := put s.ctxs k x }
/-- A core changed. -/
def setCore (s : State) (c : Nat) (x : Core) : State := { s with cores := put s.cores c x }
/-- A cluster changed. -/
def setCluster (s : State) (q : Nat) (x : Cluster) : State := { s with clusters := put s.clusters q x }
/-- A die changed. -/
def setDie (s : State) (d : Nat) (x : Die) : State := { s with dies := put s.dies d x }

/-- The slot acting. -/
def me (s : State) : Slot := slotAt s s.cur
/-- The acting slot changed. -/
def setMe (s : State) (x : Slot) : State := setSlot s s.cur x
/-- The acting slot's core. -/
def myCore (s : State) : Nat := slotCore s.cur
/-- Local cycles of a core's cluster (R130). -/
def cycleOf (s : State) (c : Nat) : Nat := (clusterAt s (coreCluster c)).cycle
/-- A live production, where the number is one (R109). -/
def prodAt (s : State) (p : Nat) : Option Prod :=
  match s.prods.find? fun x => x.1 == p with
  | some x => some x.2
  | none => none
/-- A production changed. -/
def setProd (s : State) (p : Nat) (x : Prod) : State := { s with prods := put s.prods p x }

/-- Number of context `k` of production `p` on core `c`. -/
def ctxNo (c p k : Nat) : Nat := 16384 * c + 4 * p + k
/-- The context number of the slot, where one is bound. -/
def myCtx (s : State) : Option Nat := (me s).vctx.map fun k => ctxNo (myCore s) (me s).prodid k

/-! The caches (R160, R311, R321 to R324). A line homed on the core's die is coherent, so no bytes of one are kept apart from its
home (R374; log 7): the caches hold its tag. A line homed on another die has its own bytes too, for as long as a cache of the
core holds its tag. -/

/-- Whether an address is HBM homed on another die than the core's. -/
def isRemote (c pa : Nat) : Bool := homeDie pa != coreDie c

/-- L1 granules of a core: the L1's ways (R311). -/
def l1Granules (k : Core) : List Nat := (tab 40 0 id).filter fun g => look k.gran g .l1 == .l1

/-- The ways of a core in cache mode: the L2's ways (R160). -/
def cacheWays (k : Core) : List Nat := (tab 16 0 id).filter fun w => (look k.ways w ⟨.cache, 0⟩).st == .cache

/-- Whether the core has an L2: a way in cache mode (R160, R322). -/
def hasL2 (x : Core) : Bool := !(cacheWays x).isEmpty

/-- Whether a cache holds a line. -/
def holdsLine (l : List Tag) (line : Nat) : Bool := l.any fun t => t.line == line

/-- Whether the core's L1 holds a line. -/
def inL1 (x : Core) (line : Nat) : Bool := holdsLine x.l1 line

/-- A line's tag moved to the front: it is the most recently used. -/
def touchTag (l : List Tag) (line : Nat) : List Tag := l.filter (fun t => t.line == line) ++ l.filter fun t => t.line != line

/-- A line placed in its set of `sets`: in the lowest way that holds none of the set, else in place of the least recently used,
which is the second result; nowhere if there is no way (R160, R311, R321; log 7). -/
def placeTag (l : List Tag) (ways : List Nat) (sets line : Nat) (dirty : Bool) : List Tag × Option Tag :=
  let same := l.filter fun t => t.line % sets == line % sets
  match ways.find? fun w => !(same.any fun t => t.way == w) with
  | some w => (⟨line, w, dirty⟩ :: l, none)
  | none =>
    match same.getLast? with
    | none => (l, none)
    | some v => (⟨line, v.way, dirty⟩ :: l.filter fun t => t.line != v.line, some v)

/-- The core's copy of a line. -/
def findLine (x : Core) (line : Nat) : Option RLine := x.remote.find? fun r => r.line == line

/-- The byte a core's access reads: its own copy where it holds one of a remote line, else the home. -/
def coreByte (s : State) (c pa : Nat) : Byte :=
  if isRemote c pa then
    match findLine (coreAt s c) (lineOf pa) with
    | some r => r.data.getD (pa % 32) 0
    | none => memByte s.mem pa
  else memByte s.mem pa

/-- `n` bytes as a core's access reads them. -/
def coreBytes (s : State) (c pa n : Nat) : List Byte := tab n 0 fun i => coreByte s c (pa + i)

/-- Whether the line an access of the core would read is poisoned (R436, R437). -/
def coreLinePoisoned (s : State) (c pa : Nat) : Bool :=
  if isRemote c pa then
    match findLine (coreAt s c) (lineOf pa) with
    | some r => r.poison
    | none => s.poisoned.contains (lineOf pa)
  else s.poisoned.contains (lineOf pa)

/-- A core without the lines for which a test holds: in no cache of it (R153, R326, R328). -/
def forgetLines (x : Core) (gone : Nat → Bool) : Core :=
  { x with
    l1 := x.l1.filter fun t => !gone t.line
    l2 := x.l2.filter fun t => !gone t.line
    remote := x.remote.filter fun r => !gone r.line
    icache := x.icache.filter fun r => !gone r.line }

/-! Burst merging: timing only (R329, R330). -/

/-- Whether an entry of write-backs must go after an open entry that reads one of its lines (R330). -/
def mergeWaits (l : List Merge) (m : Merge) : Bool := m.write && l.any fun r => !r.write && m.lines.any r.lines.contains

/-- The oldest entry that can close is closed, where the table of 16 is full (R329). -/
def mergeRoom (l : List Merge) : List Merge :=
  if l.length < 16 then l else
  match l.find? fun m => !mergeWaits l m with
  | some m => l.erase m
  | none => l.drop 1

/-- A miss or a write-back of a line joins or opens an entry of its kind; a read first closes the entry of write-backs that holds
its line (R329, R330). -/
def mergeJoin (q : Cluster) (line : Nat) (write : Bool) : Cluster :=
  let l := if write then q.merges else q.merges.filter fun m => !(m.write && m.lines.contains line)
  let mine (m : Merge) : Bool := m.block == line / 8 && m.write == write
  match l.find? mine with
  | none => { q with merges := mergeRoom l ++ [⟨line / 8, write, q.cycle, [line]⟩] }
  | some m =>
    let m := { m with lines := if m.lines.contains line then m.lines else line :: m.lines }
    { q with merges :=
        if m.lines.length = 8 ∧ mergeWaits l m = false then l.filter fun k => !mine k else l.map fun k => if mine k then m else k }

/-- A read miss, or a write-back, of core `c` at its cluster's mesh stop (R329). -/
def mergeLine (s : State) (c line : Nat) (write : Bool) : State :=
  setCluster s (coreCluster c) (mergeJoin (clusterAt s (coreCluster c)) line write)

/-! Writes at home, write-backs and fills. -/

/-- The cores whose L2 holds a line dirty that its own die's directory keeps (R322). -/
def dirtyHolders (s : State) (line : Nat) : List Nat :=
  (s.cores.filter fun (c, x) => coreDie c == homeDie (line * 32) && x.l2.any fun t => t.line == line && t.dirty).map (·.1)

/-- A line recalled from the cores of its die but core `keep`: its dirty copies go out as write-backs (R322, R329). -/
def recallLine (s : State) (line keep : Nat) : State :=
  ((dirtyHolders s line).filter (· != keep)).foldl (fun s c => mergeLine s c line true) s

/-- A directory invalidation: every core of the line's die but core `keep` forgets it, a dirty copy written back first, and every one its
instruction-cache copy (R322, R328, R374). -/
def dropLine (s : State) (line keep : Nat) : State :=
  let d := homeDie (line * 32)
  let s := recallLine s line keep
  { s with cores := s.cores.map fun (c, x) =>
      if coreDie c = d then
        (c, if c = keep then { x with icache := x.icache.filter fun r => r.line != line } else forgetLines x (· == line))
      else (c, x) }

/-- Bytes written at their home, within one line; a write of the whole line clears its poison (R374, R436). -/
def homeWrite (s : State) (keep pa : Nat) (bs : List Byte) : State :=
  let s := dropLine s (lineOf pa) keep
  { s with
    mem := memPutAll s.mem pa bs
    poisoned := if bs.length = 32 then s.poisoned.filter (· != lineOf pa) else s.poisoned }

/-- The masked bytes of a copy written at their home. -/
def homeMerge (m : List Host.Cell) (a : Nat) (mask : BitVec 32) (i : Nat) (bs : List Byte) : List Host.Cell :=
  match bs with
  | [] => m
  | b :: t => homeMerge (if bitOf mask i then memPut m (a + i) b else m) a mask (i + 1) t

/-- A line of the core's own die written back: its bytes stand at home already, and its tag becomes clean. -/
def cleanOwn (s : State) (c line : Nat) : State :=
  let x := coreAt s c
  if x.l2.any fun t => t.line == line && t.dirty then
    setCore (mergeLine s c line true) c { x with l2 := x.l2.map fun t => if t.line = line then { t with dirty := false } else t }
  else s

/-- A dirty line written back; of one homed on another die, its written bytes alone; it becomes clean (R322, R324). -/
def writeBackLine (s : State) (c line : Nat) : State :=
  match findLine (coreAt s c) line with
  | none => cleanOwn s c line
  | some r =>
    if r.dirty = 0 then s else
    let s := dropLine (mergeLine s c line true) line 1024
    let s := { s with
      mem := homeMerge s.mem (line * 32) r.dirty 0 r.data
      poisoned := if r.dirty = BitVec.allOnes 32 then
          (if r.poison then s.poisoned else s.poisoned.filter (· != line))
        else if r.poison ∧ ¬ s.poisoned.contains line then line :: s.poisoned else s.poisoned }
    let x := coreAt s c
    setCore s c { x with remote := x.remote.map fun q => if q.line = line then { q with dirty := 0 } else q }

/-- Several copies written back, in the order given. -/
def writeBackLines (s : State) (c : Nat) (lines : List Nat) : State :=
  match lines with
  | [] => s
  | l :: t => writeBackLines (writeBackLine s c l) c t

/-- The core's remote dirty list, oldest first (R324). -/
def dirtyList (x : Core) : List Nat := (x.remote.filter fun r => r.dirty != 0).map (·.line)

/-- The whole remote dirty list written back (R325). -/
def writeBackAll (s : State) (c : Nat) : State := writeBackLines s c (dirtyList (coreAt s c))

/-- Every copy of remote lines invalidated, the dirty ones written back first (R326). -/
def invalidateRemote (s : State) (c : Nat) : State :=
  let s := writeBackAll s c
  setCore s c { forgetLines (coreAt s c) (fun l => isRemote c (l * 32)) with remote := [], icache := [] }

/-- A core's bytes of a line that no cache of it holds any more are gone. -/
def dropCopy (s : State) (c line : Nat) : State :=
  let x := coreAt s c
  if holdsLine x.l1 line || holdsLine x.l2 line then s else setCore s c { x with remote := x.remote.filter fun r => r.line != line }

/-- A copy of a remote line the core has no bytes of, filled from its home, clean (R321, R322). -/
def copyLine (s : State) (c line : Nat) : State :=
  let x := coreAt s c
  if isRemote c (line * 32) ∧ (findLine x line).isNone then
    setCore s c { x with remote := x.remote ++ [⟨line, memBytes s.mem (line * 32) 32, 0, none, false, s.poisoned.contains line⟩] }
  else s

/-- A line placed in the L2, where the core has one; the line it evicts is written back first (R160, R322, R324). -/
def placeL2 (s : State) (c line : Nat) (dirty : Bool) : State :=
  let x := coreAt s c
  if holdsLine x.l2 line then
    setCore s c { x with l2 := (touchTag x.l2 line).map fun t => if t.line = line then { t with dirty := t.dirty || dirty } else t }
  else
    match placeTag x.l2 (cacheWays x) 8192 line dirty with
    | (l, none) => setCore s c { x with l2 := l }
    | (_, some v) =>
      let s := writeBackLine s c v.line
      let x := coreAt s c
      dropCopy (setCore s c { x with l2 := (placeTag x.l2 (cacheWays x) 8192 line dirty).1 }) c v.line

/-- A read that the L1 does not serve: from the L2, which it fills where the line is absent; a miss of a line of the core's own
die goes through the merge table, unless the access is one of those that never do (R321, R322, R329, R330). -/
def readLine (s : State) (c line : Nat) (merge : Bool) : State :=
  let x := coreAt s c
  if holdsLine x.l2 line then placeL2 s c line false else
  let s := if merge && !isRemote c (line * 32) then mergeLine s c line false else s
  if hasL2 x then copyLine (placeL2 s c line false) c line else s

/-- A load miss's line arrives in the L1, in place of the least recently used of its set (R311, R321). -/
def fillL1 (s : State) (c line : Nat) : State :=
  let x := coreAt s c
  if inL1 x line then setCore s c { x with l1 := touchTag x.l1 line }
  else if (l1Granules x).isEmpty then s
  else
    let (l, v) := placeTag x.l1 (l1Granules x) 256 line false
    let s := setCore s c { x with l1 := l }
    copyLine (match v with
      | some v => dropCopy s c v.line
      | none => s) c line

/-- Bytes replaced from position `i` of a list. -/
def overlay (old : List Byte) (i : Nat) (bs : List Byte) : List Byte :=
  old.take i ++ bs ++ old.drop (i + bs.length)

/-- The mask of bytes i to i + n − 1 of a line. -/
def byteMask (i n : Nat) : BitVec 32 := BitVec.ofNat 32 ((2 ^ n - 1) * 2 ^ i)

/-- A write of bytes of a line of the core's own die: at its home, through the L2 where the core has one (R322, R323). -/
def ownWrite (s : State) (c pa : Nat) (bs : List Byte) : State :=
  let s := homeWrite s c pa bs
  if hasL2 (coreAt s c) then placeL2 s c (lineOf pa) true else s

/-- A write of bytes of a remote line made at its home; the core's own copy takes it and keeps the mark of poison unless the
whole line is written (R323, R436). -/
def farWrite (s : State) (c pa : Nat) (bs : List Byte) : State :=
  let s := homeWrite s c pa bs
  let x := coreAt s c
  setCore s c { x with
    icache := x.icache.filter fun r => r.line != lineOf pa
    remote := x.remote.map fun q =>
      if q.line = lineOf pa then { q with data := overlay q.data (pa % 32) bs, poison := q.poison && bs.length != 32 } else q }

/-- An ordinary write by an agent of core `c`, within one line: at the home for a line of its die or with no L2, in the
core's L2 with SCOPE core otherwise (R321 to R324). -/
def coreWrite (s : State) (c pa : Nat) (bs : List Byte) : State :=
  if !isRemote c pa then ownWrite s c pa bs
  else if !hasL2 (coreAt s c) then farWrite s c pa bs
  else
    let s := copyLine (placeL2 s c (lineOf pa) false) c (lineOf pa)
    let x := coreAt s c
    let x := { x with icache := x.icache.filter fun r => r.line != lineOf pa }
    match findLine x (lineOf pa) with
    | none => s
    | some r =>
      let r' : RLine := { r with
        data := overlay r.data (pa % 32) bs
        dirty := r.dirty ||| byteMask (pa % 32) bs.length
        stamp := none
        poison := r.poison && bs.length != 32 }
      let rest := x.remote.filter fun q => q.line != lineOf pa
      if r.dirty = 0 then
        let s := setCore s c { x with remote := rest ++ [r'] }
        let d := dirtyList (coreAt s c)
        if d.length > 256 then writeBackLines s c (d.take 1) else s
      else setCore s c { x with remote := x.remote.map fun q => if q.line = lineOf pa then r' else q }

/-- A write made at the home by core `c`, which leaves its own copy of the line clean and current (R323). -/
def scopedWrite (s : State) (c pa : Nat) (bs : List Byte) : State :=
  if isRemote c pa then farWrite (writeBackLine s c (lineOf pa)) c pa bs else ownWrite s c pa bs

/-- A write that may span lines, each part by `w`; `fuel` bounds the lines. -/
def writeSpan (w : State → Nat → List Byte → State) (fuel : Nat) (s : State) (pa : Nat) (bs : List Byte) : State :=
  match fuel with
  | 0 => s
  | fuel + 1 =>
    if bs = [] then s else
    let n := 32 - pa % 32
    writeSpan w fuel (w s pa (bs.take n)) (pa + n) (bs.drop n)

/-! Scratch (R316 to R320). -/

/-- The scratch of a production on a core. -/
def scratchAt (s : State) (c p : Nat) : Scratch := look (coreAt s c).scratch p ⟨[], [], [], []⟩

/-- A production's scratch changed. -/
def setScratch (s : State) (c p : Nat) (x : Scratch) : State :=
  let k := coreAt s c
  setCore s c { k with scratch := put k.scratch p x }

/-- Bytes of scratch a production has on a core (R316). -/
def scratchSize (s : State) (c p : Nat) : Nat := 8192 * (scratchAt s c p).granules.length

/-- `n` bytes of scratch. -/
def scratchBytes (s : State) (c p off n : Nat) : List Byte :=
  tab n 0 fun i => look (scratchAt s c p).bytes (off + i) 0

/-- Bytes put into a scratch table. -/
def putBytes (m : Map Byte) (off : Nat) (bs : List Byte) : Map Byte :=
  match bs with
  | [] => m
  | b :: t => putBytes (put m off b) (off + 1) t

/-- Bytes written to scratch; a write of a whole 32-byte block clears its poison (R320, R436). -/
def scratchWrite (s : State) (c p off : Nat) (bs : List Byte) : State :=
  let x := scratchAt s c p
  setScratch s c p { x with
    bytes := putBytes x.bytes off bs
    poison := if bs.length = 32 then x.poison.filter (· != off / 32) else x.poison }

/-- The first byte of the line or block of a place. -/
def locLine (l : Loc) : Loc :=
  match l with
  | .scratch c k o => .scratch c k (o / 32 * 32)
  | .phys a => .phys (a / 32 * 32)

/-- Bytes at a place as an agent of core `c` reads them. -/
def locBytes (s : State) (c : Nat) (l : Loc) (n : Nat) : List Byte :=
  match l with
  | .scratch k p off => scratchBytes s k p off n
  | .phys pa => coreBytes s c pa n

/-- Whether the line or block of a place is poisoned. -/
def locPoisoned (s : State) (c : Nat) (l : Loc) : Bool :=
  match l with
  | .scratch k p off => (scratchAt s k p).poison.contains (off / 32)
  | .phys pa => coreLinePoisoned s c pa

/-- An ordinary write by an agent of core `c` to a place, over as many lines as it spans. -/
def locWrite (s : State) (c : Nat) (l : Loc) (bs : List Byte) : State :=
  match l with
  | .scratch k p off => writeSpan (fun s o b => scratchWrite s k p o b) (bs.length / 32 + 2) s off bs
  | .phys pa => writeSpan (fun s a b => coreWrite s c a b) (bs.length / 32 + 2) s pa bs

/-- Whether two byte ranges at places overlap. -/
def locOverlap (a : Loc) (n : Nat) (b : Loc) (k : Nat) : Bool :=
  match a, b with
  | .scratch c p o, .scratch c' p' o' => c == c' && p == p' && decide (o < o' + k) && decide (o' < o + n)
  | .phys x, .phys y => decide (x < y + k) && decide (y < x + n)
  | _, _ => false

/-- Whether one of some lines meets `n` bytes at a place. -/
def linesMeet (ls : List Loc) (l : Loc) (n : Nat) : Bool := ls.any fun a => locOverlap a 32 l n

/-- Whether the vector memory unit or the tile unit owns a line of `n` bytes at a place (R378). -/
def vectorOwns (s : State) (l : Loc) (n : Nat) : Bool := s.ctxs.any fun (_, y) => y.queue.any fun e => linesMeet e.owned l n

/-- Whether a stagehand operation or a collective that has not ended, and whose age passes a test, owns a line of `n` bytes at a place
(R378). -/
def copierOwns (s : State) (test : Nat → Bool) (l : Loc) (n : Nat) : Bool :=
  (s.cores.any fun (_, k) => k.sgOps.any fun o => o.token.isNone && test o.age && linesMeet o.owned l n) ||
  s.door.colls.any fun q => test q.age && linesMeet q.owned l n

/-- The place of the next engine operation among them: how many have issued. -/
def engineAge (s : State) : Nat := (s.cores.map fun x => x.2.sgNext).sum + s.door.collNext

/-- Whether an engine owns a line of `n` bytes at a place: a directory recall makes a slot's access wait until the engine has
written the line (R378). -/
def engineOwns (s : State) (l : Loc) (n : Nat) : Bool := vectorOwns s l n || copierOwns s (fun _ => true) l n

/-- Whether an engine that took a line of `n` bytes at a place before an operation of this age did owns it (R378). -/
def ownedBefore (s : State) (age : Nat) (l : Loc) (n : Nat) : Bool := vectorOwns s l n || copierOwns s (fun a => decide (a < age)) l n

/-- What the bytes at a place are to an engine of core `c`, a miss of a line gathered with others, unless the access is one that
never is (R329, R330). -/
def engineRead (s : State) (c : Nat) (merge : Bool) (l : Loc) (n : Nat) : List Byte × State :=
  match l with
  | .scratch k p off => (scratchBytes s k p off n, s)
  | .phys pa =>
    let s := readLine s c (lineOf pa) merge
    (coreBytes s c pa n, s)

/-- A place `i` bytes on. -/
def locAdd (l : Loc) (i : Nat) : Loc :=
  match l with
  | .scratch c p o => .scratch c p (o + i)
  | .phys a => .phys (a + i)

/-! Translation (R334 to R340). -/

/-- What an access may need of a leaf (R337). -/
structure Need where
  r : Bool
  w : Bool
  x : Bool
  deriving DecidableEq, Repr

/-- A load's need. -/
def needR : Need := ⟨true, false, false⟩
/-- A store's need. -/
def needW : Need := ⟨false, true, false⟩
/-- An atomic's need. -/
def needRW : Need := ⟨true, true, false⟩
/-- A fetch's need. -/
def needX : Need := ⟨false, false, true⟩
/-- Nothing: the walk alone (R389). -/
def needNone : Need := ⟨false, false, false⟩

/-- How a translation ends. -/
inductive Walk where
  | page (t : Tlb)
  | fail (poisonedAt : Option Nat)
  | migrating (t : Tlb)
  deriving DecidableEq, Repr

/-- The index of a level's table (R334). -/
def walkIndex (va : Nat) (level : Nat) : Nat := va / 2 ^ (46 - 10 * level) % 1024

/-- The frame of a leaf: PA[51:16] over zeros (R335). -/
def leafFrame (e : Word) : Nat := fld e 16 36 * 65536

/-- Whether a frame lies in an absent region (R331). -/
def frameAbsent (s : State) (pa : Nat) : Bool :=
  if isHbm pa then !(dieAt s (homeDie pa)).present else !isAperture pa

/-- One level of the walk; `left` counts the levels below (R336, R340). -/
def walkLevel (s : State) (asid : BitVec 12) (va table left : Nat) : Walk :=
  let at_ := table + 8 * walkIndex va (3 - left)
  if s.poisoned.contains (lineOf at_) then .fail (some at_) else
  let e : Word := BitVec.ofNat 64 (leNat (memBytes s.mem at_ 8))
  if !bitOf e 0 then .fail none
  else if !bitOf e 1 then
    if fld e 52 12 != 0 || fld e 2 11 != 0 then .fail none else
    match left with
    | 0 => .fail none
    | l + 1 => walkLevel s asid va (fld e 13 39 * 8192) l
  else
    let level := 3 - left
    if fld e 52 12 != 0 || fld e 11 5 != 0 || fld e 2 2 != 0 then .fail none
    else if level < 2 then .fail none
    else if level == 2 && fld e 16 10 != 0 then .fail none
    else if frameAbsent s (leafFrame e) then .fail none
    else if bitOf e 10 then .migrating ⟨va / 65536, level == 2, asid, e⟩
    else .page ⟨va / 65536, level == 2, asid, e⟩

/-- A walk of a virtual address under a core's PTBASE (R336, R338). -/
def walk (s : State) (c va : Nat) : Walk :=
  walkLevel s (coreAt s c).asid va (fld (coreAt s c).ptroot 13 39 * 8192) 3

/-- Whether a cached translation serves a virtual address under a number (R339). -/
def tlbMatch (t : Tlb) (asid : BitVec 12) (va : Nat) : Bool :=
  (t.asid == asid || bitOf t.leaf 8) &&
  (if t.big then t.vpage / 1024 == va / 2 ^ 26 else t.vpage == va / 65536)

/-- The physical address of a virtual one under a translation (R334, R335). -/
def tlbPhys (t : Tlb) (va : Nat) : Nat :=
  if t.big then leafFrame t.leaf + va % 2 ^ 26 else leafFrame t.leaf + va % 65536

/-- The translation of a virtual address: the core's TLB, its die's, then a walk, which both TLBs keep (R339). -/
def translate (s : State) (c va : Nat) : Walk × State :=
  let x := coreAt s c
  match x.tlb.find? fun t => tlbMatch t x.asid va with
  | some t => (.page t, s)
  | none =>
    let d := dieAt s (coreDie c)
    match d.tlb.find? fun t => tlbMatch t x.asid va with
    | some t => (.page t, setCore s c { x with tlb := (t :: x.tlb).take 128 })
    | none =>
      match walk s c va with
      | .page t =>
        let s := setCore s c { x with tlb := (t :: x.tlb).take 128 }
        (.page t, setDie s (coreDie c) { d with tlb := (t :: d.tlb).take 8192 })
      | w => (w, s)

/-- Whether a leaf permits an access; `user` for the production state (R337). -/
def permits (leaf : Word) (n : Need) (user : Bool) : Bool :=
  (!n.r || bitOf leaf 4) && (!n.w || bitOf leaf 5) && (!n.x || bitOf leaf 6) && (!user || bitOf leaf 7)

/-- The first address of the near window (R142, R316). -/
def nearBase : Nat := 0xFFFFF00000000000

/-- Whether an address lies in the near window. -/
def isNear (ea : Word) : Bool := decide (nearBase ≤ ea.toNat)

/-- How the checks of R142 end for one access. -/
inductive Access where
  | ok (l : Loc) (leaf : Word)
  | trap (cause : Nat)
  | migrating
  deriving DecidableEq, Repr

/-- Checks 2 to 4 of R142 for an access at `ea` by an agent of core `c` for production `p`: `sup` for a supervisor slot,
which has no scratch (R316), and `user` for the production state. -/
def checkAddr (s : State) (c p : Nat) (sup user : Bool) (n : Need) (ea : Word) : Access × State :=
  if fld ea 55 9 != 0 && fld ea 55 9 != 511 then (.trap 7, s)
  else if isNear ea then
    let off := ea.toNat - nearBase
    if sup || decide (scratchSize s c p ≤ off) then (.trap 7, s) else (.ok (.scratch c p off) 0, s)
  else
    let va := ea.toNat % 2 ^ 56
    match translate s c va with
    | (.page t, s) => if permits t.leaf n user then (.ok (.phys (tlbPhys t va)) t.leaf, s) else (.trap 8, s)
    | (.fail _, s) => (.trap 8, s)
    | (.migrating _, s) => (.migrating, s)

end Sys2Proof.Machine
end

