-- ==== Sys2Proof/Machine/Crypto.lean ====
section
/-! DEFINITION. SHAKE256, the Ed448ph verification that bring-up's image checks name, and the Ed448 signature of a report (RFC 8032; 20
R478, R482). -/

namespace Sys2Proof.Machine

/-! SHAKE256: the sponge of Keccak-f[1600], rate 136 bytes. -/

/-- The round constants of Keccak-f[1600]. -/
def keccakRc : List (BitVec 64) :=
  [0x1, 0x8082, 0x800000000000808A, 0x8000000080008000, 0x808B, 0x80000001, 0x8000000080008081, 0x8000000000008009,
   0x8A, 0x88, 0x80008009, 0x8000000A, 0x8000808B, 0x800000000000008B, 0x8000000000008089, 0x8000000000008003,
   0x8000000000008002, 0x8000000000000080, 0x800A, 0x800000008000000A, 0x8000000080008081, 0x8000000000008080,
   0x80000001, 0x8000000080008008]

/-- The rotations of ρ, lane (x, y) at 5y + x. -/
def keccakRot : List Nat :=
  [0, 1, 62, 28, 27, 36, 44, 6, 55, 20, 3, 10, 43, 25, 39, 41, 45, 15, 21, 8, 18, 2, 61, 56, 14]

/-- One round over the 25 lanes. -/
def keccakRound (a : Array (BitVec 64)) (rc : BitVec 64) : Array (BitVec 64) :=
  let at_ (v : Array (BitVec 64)) (i : Nat) : BitVec 64 := v.getD i 0
  let c := ((tab 5 0 id).map fun x => at_ a x ^^^ at_ a (x + 5) ^^^ at_ a (x + 10) ^^^ at_ a (x + 15) ^^^ at_ a (x + 20)).toArray
  let d := ((tab 5 0 id).map fun x => at_ c ((x + 4) % 5) ^^^ (at_ c ((x + 1) % 5)).rotateLeft 1).toArray
  let r := ((tab 25 0 id).map fun i => (at_ a i ^^^ at_ d (i % 5)).rotateLeft (keccakRot.getD i 0)).toArray
  -- π: lane (x, y) of the result comes from lane (x + 3y, x)
  let b := ((tab 25 0 id).map fun i => at_ r ((i % 5 + 3 * (i / 5)) % 5 + 5 * (i % 5))).toArray
  ((tab 25 0 id).map fun i =>
    at_ b i ^^^ (~~~(at_ b ((i % 5 + 1) % 5 + 5 * (i / 5))) &&& at_ b ((i % 5 + 2) % 5 + 5 * (i / 5))) ^^^
      (if i = 0 then rc else 0)).toArray

/-- Keccak-f[1600]. -/
def keccakF (a : Array (BitVec 64)) : Array (BitVec 64) := keccakRc.foldl keccakRound a

/-- Blocks of 136 bytes absorbed. -/
def shakeAbsorb (fuel : Nat) (a : Array (BitVec 64)) (bs : List Byte) : Array (BitVec 64) :=
  match fuel with
  | 0 => a
  | fuel + 1 =>
    if bs = [] then a else
    let blk := (tab 25 0 id).map fun i => a.getD i 0 ^^^
      (if i < 17 then BitVec.ofNat 64 (leNat ((bs.drop (8 * i)).take 8)) else 0)
    shakeAbsorb fuel (keccakF blk.toArray) (bs.drop 136)

/-- Output blocks. -/
def shakeSqueeze (fuel : Nat) (a : Array (BitVec 64)) : List Byte :=
  match fuel with
  | 0 => []
  | fuel + 1 => ((tab 17 0 id).map fun i => leBytes 8 (a.getD i 0).toNat).flatten ++ shakeSqueeze fuel (keccakF a)

/-- A message padded to whole blocks: the suffix 1111 and the first and last bits of pad10*1. -/
def shakePad (m : List Byte) : List Byte :=
  let k := 136 - m.length % 136
  if k = 1 then m ++ [0x9F] else m ++ [0x1F] ++ List.replicate (k - 2) 0 ++ [0x80]

/-- SHAKE256 of a message, `n` bytes of output. -/
def shake256 (m : List Byte) (n : Nat) : List Byte :=
  (shakeSqueeze (n / 136 + 1) (shakeAbsorb (m.length / 136 + 2) (tab 25 0 fun _ => (0 : BitVec 64)).toArray (shakePad m))).take n

/-! Ed448 (RFC 8032, section 5.2). -/

/-- The prime of the field. -/
def edP : Nat := 2 ^ 448 - 2 ^ 224 - 1
/-- The curve's d, modulo the prime. -/
def edD : Nat := edP - 39081
/-- The order of the base point. -/
def edL : Nat := 2 ^ 446 - 13818066809895115352007386748515426880336692474882178609894547503885

/-- A power modulo the prime, by the bits of the exponent, of which there are at most `fuel`. -/
def edPow (fuel x n : Nat) : Nat :=
  match fuel with
  | 0 => 1
  | fuel + 1 => if n = 0 then 1 else
    let r := edPow fuel (x * x % edP) (n / 2)
    if n % 2 = 1 then r * x % edP else r

/-- A point in projective coordinates. -/
structure EdPoint where
  x : Nat
  y : Nat
  z : Nat
  deriving DecidableEq, Repr

/-- x − y modulo the prime. -/
def edSub (x y : Nat) : Nat := (x % edP + (edP - y % edP)) % edP

/-- The sum of two points. -/
def edAdd (p q : EdPoint) : EdPoint :=
  let a := p.z * q.z % edP
  let b := a * a % edP
  let c := p.x * q.x % edP
  let d := p.y * q.y % edP
  let e := edD * c % edP * d % edP
  let f := edSub b e
  let g := (b + e) % edP
  let h := (p.x + p.y) * (q.x + q.y) % edP
  ⟨a * f % edP * edSub h (c + d) % edP, a * g % edP * edSub d c % edP, f * g % edP⟩

/-- A multiple of a point, by the bits of the number. -/
def edMul (fuel n : Nat) (p : EdPoint) : EdPoint :=
  match fuel with
  | 0 => ⟨0, 1, 1⟩
  | fuel + 1 => if n = 0 then ⟨0, 1, 1⟩ else
    let r := edMul fuel (n / 2) (edAdd p p)
    if n % 2 = 1 then edAdd r p else r

/-- Whether two points are the same. -/
def edEq (p q : EdPoint) : Bool :=
  p.x * q.z % edP == q.x * p.z % edP && p.y * q.z % edP == q.y * p.z % edP

/-- The base point. -/
def edBase : EdPoint where
  x := 224580040295924300187604334099896036246789641632564134246125461686950415467406032909029192869357953282578032075146446173674602635247710
  y := 298819210078481492676017930443930673437544040154080242095928241372331506189835876003536878655418784733982303233503462500531545062832660
  z := 1

/-- A point decoded from its 57 bytes; none where they are no point. -/
def edDecode (bs : List Byte) : Option EdPoint :=
  let n := leNat bs
  let sign := n / 2 ^ 455 % 2
  let y := n % 2 ^ 455
  if bs.length ≠ 57 ∨ edP ≤ y then none else
  let y2 := y * y % edP
  let u := edSub y2 1
  let v := edSub (edD * y2 % edP) 1
  let u3 := u * u % edP * u % edP
  let v3 := v * v % edP * v % edP
  let x := u3 * v % edP * edPow 450 (u3 * u % edP * u % edP * v3 % edP) ((edP - 3) / 4) % edP
  if v * (x * x % edP) % edP ≠ u then none
  else if x = 0 ∧ sign = 1 then none
  else some ⟨if x % 2 = sign then x else edP - x, y, 1⟩

/-- A point in its 57 bytes. -/
def edEncode (p : EdPoint) : List Byte :=
  let i := edPow 450 p.z (edP - 2)
  leBytes 57 (p.y * i % edP + p.x * i % edP % 2 * 2 ^ 455)

/-- The secret number of a 57-byte private key, and the prefix of its signatures. -/
def edSecret (key : List Byte) : Nat × List Byte :=
  let h := shake256 key 114
  let n := leNat (h.take 56)
  ((n - n % 4) % 2 ^ 447 + 2 ^ 447, h.drop 57)

/-- The public key of a private one. -/
def ed448Public (key : List Byte) : List Byte := edEncode (edMul 460 (edSecret key).1 edBase)

/-- The 114 bytes of the Ed448 signature of a message under a private key, with an empty context string (R482). -/
def ed448Sign (key message : List Byte) : List Byte :=
  let dom : List Byte := [0x53, 0x69, 0x67, 0x45, 0x64, 0x34, 0x34, 0x38, 0, 0]
  let (a, pre) := edSecret key
  let r := leNat (shake256 (dom ++ pre ++ message) 114) % edL
  let rp := edEncode (edMul 460 r edBase)
  let k := leNat (shake256 (dom ++ rp ++ ed448Public key ++ message) 114) % edL
  rp ++ leBytes 57 ((r + k * a) % edL)

/-- Ed448ph: whether a 114-byte signature of a message's prehash verifies under a key and a context string (R478). -/
def ed448phVerify (key sig context message : List Byte) : Bool :=
  let r := sig.take 57
  let sn := leNat (sig.drop 57)
  let name : List Byte := [0x53, 0x69, 0x67, 0x45, 0x64, 0x34, 0x34, 0x38]
  let dom := name ++ [1, BitVec.ofNat 8 context.length] ++ context
  match edDecode key, edDecode r with
  | some a, some rp =>
    if sig.length ≠ 114 ∨ edL ≤ sn then false else
    let k := leNat (shake256 (dom ++ r ++ key ++ shake256 message 64) 114) % edL
    let four (p : EdPoint) : EdPoint := edAdd (edAdd p p) (edAdd p p)
    edEq (four (edMul 460 sn edBase)) (edAdd (four rp) (four (edMul 460 k a)))
  | _, _ => false

end Sys2Proof.Machine
end

