-- ==== Sys2Proof/Machine/SfuBound.lean ====
section
/-! DEFINITION. The bounds of R233 on the special-function unit's values: each function's value at an FP32 operand computed to
some 200 bits in fixed point, and which FP32 patterns lie within the bound of it (08 R233). -/

namespace Sys2Proof.Machine

/-- 1, as a whole number of 2^−256. -/
def fixOne : Nat := 2 ^ 256

/-- ⌊π × 2^400⌋. -/
def fixPi : Nat := 0x3243F6A8885A308D313198A2E03707344A4093822299F31D0082EFA98EC4E6C89452821E638D01377BE5466CF34E90C6CC0AC

/-- Σ z^k ÷ k!, `n` terms from `t`, the `k`-th. -/
def expSum (n k t z : Nat) : Nat :=
  match n with
  | 0 => 0
  | n + 1 => t + expSum n (k + 1) (t * z / fixOne / (k + 1)) z

/-- e^z for z below 1. -/
def fixExp (z : Nat) : Nat := expSum 64 0 fixOne z

/-- Σ z^(2k+1) ÷ (2k + 1), `n` terms, `t` being the power. -/
def atanhSum (n k t z2 : Nat) : Nat :=
  match n with
  | 0 => 0
  | n + 1 => t / (2 * k + 1) + atanhSum n (k + 1) (t * z2 / fixOne) z2

/-- ln t for t from 1 to 2, as 2 artanh((t − 1) ÷ (t + 1)). -/
def fixLn (t : Nat) : Nat :=
  let z := fixOne * (t - fixOne) / (t + fixOne)
  2 * atanhSum 90 0 z (z * z / fixOne)

/-- ln 2. -/
def fixLn2 : Nat := fixLn (2 * fixOne)

/-- Every second term of the series of sin or cos at an angle whose square is `r2`, from term `k` at `t`: the sum of those added
and of those taken away. -/
def trigSum (n k t r2 : Nat) : Nat × Nat :=
  match n with
  | 0 => (0, 0)
  | n + 1 =>
    let (p, q) := trigSum n (k + 2) (t * r2 / fixOne / ((k + 1) * (k + 2))) r2
    (t + q, p)

/-- Σ 2^k x^(2k+1) ÷ (1 × 3 × … × (2k + 1)), `n` terms from `t`, the `k`-th. -/
def erfSum (n k t x2 : Nat) : Nat :=
  match n with
  | 0 => 0
  | n + 1 => t + erfSum n (k + 1) (t * (2 * x2) / fixOne / (2 * k + 3)) x2

/-- A real number within `slack` × 2^e of (−1)^neg × a × 2^e. -/
structure Near where
  neg   : Bool
  a     : Nat
  e     : Int
  slack : Nat
  deriving DecidableEq, Repr

/-- A value at the scale of 2^−256. -/
def nearFix (neg : Bool) (a : Nat) : Near := ⟨neg, a, -256, 2 ^ 40⟩

/-- A value between 0 and 2^−200. -/
def nearNone : Near := ⟨false, 0, -256, 2 ^ 56⟩

/-- 2^n × e^r for r below ln 2. -/
def nearPow (n : Int) (r : Nat) : Near := ⟨false, fixExp r, n - 256, 2 ^ 40⟩

/-- e^y for a magnitude y, at the scale of 2^−256. -/
def fixPowE (y : Nat) : Nat := fixExp (y % fixLn2) * 2 ^ (y / fixLn2)

/-- log2 or ln of m × 2^e. -/
def nearLog (two : Bool) (m : Nat) (e : Int) : Near :=
  let g := floorLog2 m e
  let t := fixLn (m * fixOne / 2 ^ Nat.log2 m)
  let v : Int := if two then g * fixOne + (t * fixOne / fixLn2 : Nat) else g * fixLn2 + t
  nearFix (v < 0) v.natAbs

/-- sin or cos of the magnitude m × 2^e. -/
def nearTrig (cos neg : Bool) (m : Nat) (e : Int) : Near :=
  let r := m * 2 ^ (e + 400).toNat % (2 * fixPi) / 2 ^ 144
  let r2 := r * r / fixOne
  let (p, q) := if cos then trigSum 64 0 fixOne r2 else trigSum 64 1 r r2
  let v : Int := (p : Int) - q
  nearFix ((v < 0) != (neg && !cos)) v.natAbs

/-- erf of the magnitude `x` at the scale of 2^−256; from 6 on it is within 2^−53 of 1. -/
def nearErf (neg : Bool) (x : Nat) : Near :=
  if 6 * fixOne ≤ x then ⟨neg, fixOne - 2 ^ 202, -256, 2 ^ 202⟩ else
  let x2 := x * x / fixOne
  let s := erfSum 260 0 x x2 * fixOne / fixPowE x2
  nearFix neg (s * (2 * fixOne) / natSqrt 330 0 (fixPi * 2 ^ 112))

/-- The value of function `f` at (−1)^neg × m × 2^e, m not zero, for the operands at which R233 lists no special value. -/
def sfuNear (f : Nat) (neg : Bool) (m : Nat) (e : Int) : Near :=
  let x := m * 2 ^ (e + 256).toNat
  match f with
  | 0 => ⟨neg, 2 ^ 280 / m, -280 - e, 1⟩
  | 1 =>
    let (m, e) := if e % 2 = 0 then (m, e) else (2 * m, e - 1)
    ⟨false, natSqrt 300 0 (2 ^ 560 / m), -280 - e / 2, 2⟩
  | 2 =>
    if neg then
      if 200 * fixOne ≤ x then nearNone else
      let n := (x + fixOne - 1) / fixOne
      nearPow (-(n : Int)) ((n * fixOne - x) * fixLn2 / fixOne)
    else nearPow (x / fixOne) (x % fixOne * fixLn2 / fixOne)
  | 3 =>
    if neg then
      if 200 * fixOne ≤ x then nearNone else
      let n := (x + fixLn2 - 1) / fixLn2
      nearPow (-(n : Int)) (n * fixLn2 - x)
    else nearPow (x / fixLn2) (x % fixLn2)
  | 4 => nearLog true m e
  | 5 => nearLog false m e
  | 6 => nearTrig false neg m e
  | 7 => nearTrig true neg m e
  | 8 =>
    if 128 * fixOne ≤ x then nearFix neg (fixOne - 1) else
    let p := fixPowE (2 * x)
    nearFix neg (fixOne * (p - fixOne) / (p + fixOne))
  | 9 =>
    if 160 * fixOne ≤ x then nearFix false (if neg then 0 else fixOne - 1) else
    let p := fixPowE x
    nearFix false (fixOne * (if neg then fixOne else p) / (p + fixOne))
  | _ => nearErf neg x

/-- The bound of R233 at a value r, with what r may be off by; `half` says whether x lies in [0.5, 2]. -/
def sfuBound (f : Nat) (half : Bool) (r : Near) : Num :=
  let u : Int := (if r.a = 0 then fmtQuantum fp32 else max (floorLog2 r.a r.e) (fmtMin fp32) - 23)
  let b : Num := match f with
    | 0 | 1 | 2 => .fin false 1 u
    | 4 => if half then .fin false 1 (-22) else .fin false 1 u
    | 5 => if half then .fin false 1 (-22) else .fin false 2 u
    | 6 | 7 => .fin false 1 (-22)
    | _ => .fin false 2 u
  (addNum .rne b (.fin false r.slack r.e)).1

/-- Whether a pattern is a value that R233 allows the unit for function `f` at a finite operand that is not zero; where the exact
value lies beyond FP32 the rule bounds nothing. -/
def sfuMay (f : Nat) (p v : BitVec 32) : Bool :=
  match decNum fp32 p.toNat with
  | .fin neg m e =>
    let r := sfuNear f neg m e
    if r.a ≠ 0 ∧ 128 ≤ floorLog2 r.a r.e then true else
    let half := !neg && magLe 1 (-1) m e && magLe m e 2 0
    match decNum fp32 v.toNat, (addNum .rne (decNum fp32 v.toNat) (.fin (!r.neg) r.a r.e)).1, sfuBound f half r with
    | .fin _ _ _, .fin _ d ed, .fin _ b eb => magLe d ed b eb
    | _, _, _ => false
  | _ => true

/-- The unit's value where R233 lists no exact one: the free value, where it keeps to the bound; else the nearest FP32 value
(log 9). -/
def sfuFree (f : Nat) (p : BitVec 32) : BitVec 32 :=
  let v := Config.sfuValue f p
  if sfuMay f p v then v else
  match decNum fp32 p.toNat with
  | .fin neg m e =>
    let r := sfuNear f neg m e
    BitVec.ofNat 32 (encNum fp32 ⟨.rne, false, false, fmtMin fp32⟩ (.fin r.neg r.a r.e) ⟨0, 0⟩).1
  | _ => v

end Sys2Proof.Machine
end

