-- ==== Sys2Proof/Machine/Strips.lean ====
section
/-! DEFINITION. VTYPE's fields, the kinds of vector-queue entry, where a context's strips lie, which of an entry's strips is
next, and when an entry is settled (06 R166 to R177; 07 R185; 09 R249 to R254). -/

namespace Sys2Proof.Machine

/-! VTYPE (R171). -/

/-- VTYPE.SEW's code (R171). -/
def vtSewCode (t : BitVec 20) : Nat := fld t 0 3
/-- VTYPE.SEW in bits (R171). -/
def vtSew (t : BitVec 20) : Nat := 2 ^ vtSewCode t
/-- VTYPE.FMT (R171). -/
def vtFmt (t : BitVec 20) : Nat := fld t 3 4
/-- VTYPE.BLEN as a length (R171). -/
def vtBlen (t : BitVec 20) : Nat := 8 * 2 ^ fld t 9 2
/-- VTYPE.GAP (R171). -/
def vtGap (t : BitVec 20) : Nat := fld t 11 4
/-- VTYPE.RM (R171). -/
def vtMode (t : BitVec 20) : RMode := rmode (fld t 15 3)
/-- VTYPE.SAT (R171). -/
def vtSat (t : BitVec 20) : Bool := bitOf t 18
/-- VTYPE.FTZ (R171). -/
def vtFtz (t : BitVec 20) : Bool := bitOf t 19

/-- The block length of a block format under VTYPE, 1 for any other (R79, R82). -/
def vtBlock (t : BitVec 20) : Nat :=
  match blockFmt (vtFmt t) with
  | some b => if isMx b then 32 else vtBlen t
  | none => 1

/-- The block length of a product operand of format-type `ft` under VTYPE (R266). -/
def productLen (ft : Nat) (t : BitVec 20) : Nat :=
  match blockFmt (ft / 8) with
  | some b => if isMx b then 32 else vtBlen t
  | none => vtBlen t

/-! Kinds of entry (R188, R211, R254, R275, R284). -/

/-- How an entry runs: strip by strip in the lanes, as one cross-element instruction, fed to the tree, on the tile unit, or as
a row buffer's fill. -/
inductive OpKind where
  | lane | cross | tree | tile | row
  deriving DecidableEq, Repr

/-- The kind of an instruction (R188, R254). -/
def opKind (o : VOp) : OpKind :=
  match o with
  | .mfirst | .msbf | .msif | .vslideup | .vslidedn | .vslideupS | .vslidednS | .vxchg | .vcompress | .vexpand | .vperm
  | .vgath8 | .vconflict | .vmatch | .vprobe | .vtopk => .cross
  | .mpopc | .vredsum | .vredmax | .vredmin | .vredmaxu | .vredand | .vredor | .vredxor | .vredminu | .vqamax | .vfredsumO
  | .vfredsumT | .vfredmax | .vfredmin | .vfdotO | .vhkcnt | .ptree => .tree
  | .tmma | .tzero | .tld | .tst | .tacc | .trow => .tile
  | .prow => .row
  | _ => .lane

/-- Whether an entry is an adaptive vqpack (R226, R229). -/
def isAdaptive (e : QEntry) : Bool := e.op == .vqpack && bitOf e.gb 5

/-- How an entry runs: an adaptive vqpack, once started, runs to completion (R188, R229). -/
def entryKind (e : QEntry) : OpKind := if isAdaptive e then .cross else opKind e.op

/-- The vector-class instructions of page 3 (R211). -/
def isFloatOp (o : VOp) : Bool :=
  match o with
  | .vfadd | .vfsub | .vfmul | .vfdiv | .vfmin | .vfmax | .vfsgnj | .vfsqrt | .vfma | .vfms | .vfnma | .vfnms | .vfaddS
  | .vfsubS | .vfmulS | .vfrsubS | .vfabs | .vfneg | .vfclass | .vfround | .vfceq | .vfclt | .vfcle | .vfcun | .vfcvt
  | .vf2i | .vi2f | .vf2iT | .vqamax | .vqscale | .vqpack | .vqunpack | .vfwht | .vsfu | .vfredsumO | .vfredsumT
  | .vfredmax | .vfredmin | .vfdotO | .vhktest | .vhksel | .vhkcnt | .vtopk => true
  | _ => false

/-- Whether an instruction accepts hooks (R235). -/
def acceptsHooks (op : VOp) : Bool :=
  match op with
  | .vhktest | .vhksel | .vhkcnt | .vtopk => true
  | _ => false

/-- Whether FMT `fp32` makes a hook operand a fault (R213). -/
def hooksFault (e : QEntry) : Bool := vtFmt e.vtype == 3 && !acceptsHooks e.op

/-- The row forms of page 4 (R357). -/
def isRowForm (o : VOp) : Bool := o == .vldrow || o == .vstrow || o == .vamorow

/-- Elements of a row (R357). -/
def rowElems (t : BitVec 20) : Nat := 2048 / vtSew t

/-- Whether an `mmav` reads its threshold from the verdict word (R289, R299). -/
def readsVerdict (e : QEntry) : Bool := bitOf e.vdcfg 2 && (fld e.vdcfg 0 2 == 1 || fld e.vdcfg 0 2 == 2)

/-- Whether an entry of an instruction that can access memory does access it (R285, R296, R299). -/
def accessesMemory (e : QEntry) : Bool :=
  match e.op with
  | .pbnd => !bitOf e.gb 0
  | .tmma => !bitOf e.gb 3
  | .mmav => readsVerdict e
  | _ => true

/-- Whether an FT's accumulators are FP32 (R265). -/
def floatFt (ft : Nat) : Bool := decide (2 ≤ ft / 8)

/-! Activity and strips (R169, R170, R185). -/

/-- A mask register as read. -/
def maskBits (y : Ctx) (r : Nat) : Array Bool := (look y.m r []).toArray

/-- Whether the predicate lets element `i` act: unmasked, or its mask bit equal to 1 − MINV (R185). -/
def predicate (m : Array Bool) (k : VMask) (i : Nat) : Bool := !k.en || (m.getD i false != k.inv)

/-- The least multiple of `l` at or above `n`. -/
def roundUp (n l : Nat) : Nat := (n + l - 1) / l * l

/-- The unit on which an instruction acts: its block length, the group of `vfwht`, a row, else 1 (R215, R353, R357). -/
def unitOf (e : QEntry) : Nat :=
  match e.op with
  | .vqscale | .vqpack | .vqunpack | .vqamax | .vld | .vst => vtBlock e.vtype
  | .vfwht => 2 ^ (e.gb.toNat % 16)
  | .vldrow | .vstrow | .vamorow => rowElems e.vtype
  | _ => 1

/-- The first element an entry processes (R176, R215). -/
def firstElem (e : QEntry) : Nat := roundUp e.start (unitOf e)

/-- The strips of a context: each its way, its first element and the first after it (R169). -/
def stripsFrom (lo : Nat) (ways : List Nat) (groups : List (List Nat)) : List (Nat × Nat × Nat) :=
  match ways, groups with
  | w :: ws, g :: gs => (w, lo, lo + 512 * g.length) :: stripsFrom (lo + 512 * g.length) ws gs
  | _, _ => []

/-- The strips of a context (R169). -/
def stripsOf (y : Ctx) : List (Nat × Nat × Nat) := stripsFrom 0 y.ways y.groups

/-- Whether an element of [lo, hi) is active for its instruction: `vsel` acts on every one, and a row form on the first of
each row (R170, R185, R195, R357). -/
def anyActive (y : Ctx) (e : QEntry) (lo hi : Nat) : Bool :=
  let k := if e.op = .vsel then VMask.all else e.f.k
  let m := maskBits y k.reg.toNat
  (tab (hi - lo) lo id).any fun i => predicate m k i && (!isRowForm e.op || i % rowElems e.vtype == 0)

/-- A strip of an entry: its way, its own bounds, and the elements of it that the entry has still to process. -/
structure StripPart where
  way : Nat
  hi  : Nat
  lo  : Nat
  top : Nat
  deriving DecidableEq, Repr

/-- The lowest strip of an entry neither started nor passed (R170, R240). -/
def nextStrip (y : Ctx) (e : QEntry) : Option StripPart :=
  let from_ := roundUp e.restart (unitOf e)
  (stripsOf y).findSome? fun (w, lo, hi) =>
    let a := max lo from_
    let b := min hi e.vl
    if a < b then some ⟨w, hi, a, b⟩ else none

/-- Whether a strip has an active element; one that has none is passed in its turn and takes no steps (R170). -/
def stripActive (y : Ctx) (e : QEntry) (p : StripPart) : Bool := anyActive y e p.lo p.top

/-- Whether every strip of an entry has started or been passed, or its one effect is done (R239). -/
def allStarted (y : Ctx) (e : QEntry) : Bool :=
  match e.st with
  | .done => true
  | .queued => (entryKind e == .lane || entryKind e == .tree) && (nextStrip y e).isNone
  | .stopped _ _ => false

/-- The oldest cross-element or tree-fed entry that has begun, where every earlier one has started all its strips: it runs to
completion, whatever stops its context (R188, R261). -/
def goesOn (y : Ctx) (l : List QEntry) : Option QEntry :=
  match l with
  | [] => none
  | e :: t => if e.begun && e.st == .queued then some e else if allStarted y e then goesOn y t else none

/-- Whether an instruction can record a deferred element fault (R253, R279, R282, R284, R356). -/
def canFault (e : QEntry) : Bool :=
  match e.op with
  | .vperm | .vgath8 | .vstxa | .vldw => true
  | .mma => !bitOf e.ga 1 && floatFt e.band.ft
  | .ptree => vtFmt e.vtype == 3
  | .tmma => fld e.gb 0 2 == 1
  | .tacc | .trow => fld e.gb 0 4 == 0
  | .vqscale | .vqpack => fld e.gb 0 4 == 3
  | o => isFloatOp o && hooksFault e

/-- Whether an entry screens its strips for hooks (R249, R279). -/
def screens (e : QEntry) : Bool := e.op == .mma || (isFloatOp e.op && hooksFault e)

/-- Whether an entry is settled while it is not complete (R253). -/
def settled (y : Ctx) (e : QEntry) : Bool := !canFault e || (screens e && allStarted y e && e.faults.isEmpty)

end Sys2Proof.Machine
end

