-- ==== Sys2Proof/Machine/Ops.lean ====
section
/-! DEFINITION. The named operations every meaning is made of: registers and ports, parking, the fault ring, releases and
acquires, completion of vector entries, and taking a trap and returning from one (04, 05, 09, 12, 14, 17). -/

namespace Sys2Proof.Machine

/-- What a meaning answers. -/
abbrev Result := Host.Outcome State Fault Refusal

/-! Privilege (R127). -/

/-- The production state: neither handler nor supervisor slot. -/
def isUser (x : Slot) : Bool := !x.handler && !x.sup

/-! Registers and queue ports (R117, R124 to R126). -/

/-- The queue code bound to a register, 0 where it is an ordinary register (R117). -/
def portCode (x : Slot) (r : GReg) : Nat :=
  if 24 ≤ r.toNat then (x.qcode.toList.getD (r.toNat - 24) 0).toNat else 0

/-- Whether a queue code is of the push direction (R117). -/
def isPush (code : Nat) : Bool := code == 1 || code == 3 || code == 5
/-- Whether a queue code is of the pop direction (R117). -/
def isPop (code : Nat) : Bool := code == 2 || code == 4 || code == 6

/-- Items a queue holds at most (R366, R402, R285, R282). -/
def queueDepth (code : Nat) : Nat := if code = 5 ∨ code = 6 then 64 else 16

/-- The context bound to slot `i`, where one is. -/
def ctxOf (s : State) (i : Nat) : Option Nat :=
  (slotAt s i).vctx.map fun k => ctxNo (slotCore i) (slotAt s i).prodid k

/-- The items of a queue of slot `i` (R117). -/
def queueItems (s : State) (i code : Nat) : List Word :=
  let x := slotAt s i
  let y := match ctxOf s i with
    | some k => ctxAt s k
    | none => ctx0
  match code with
  | 1 => x.qCmd | 2 => x.qStat | 3 => x.qSfuReq | 4 => x.qSfuRes | 5 => y.tileQ | 6 => y.treeQ
  | _ => []

/-- A queue of slot `i` replaced. DESIGN CHOICE: with no context bound, code 5 or 6 names no queue: an item pushed is dropped,
and a pop finds none and parks (R117; log 21). -/
def setQueue (s : State) (i code : Nat) (q : List Word) : State :=
  let x := slotAt s i
  match code with
  | 1 => setSlot s i { x with qCmd := q }
  | 2 => setSlot s i { x with qStat := q }
  | 3 => setSlot s i { x with qSfuReq := q }
  | 4 => setSlot s i { x with qSfuRes := q }
  | 5 => match ctxOf s i with
    | some k => setCtx s k { ctxAt s k with tileQ := q }
    | none => s
  | 6 => match ctxOf s i with
    | some k => setCtx s k { ctxAt s k with treeQ := q }
    | none => s
  | _ => s

/-- A g register of a slot; g0 reads as zero (R124). -/
def readG (x : Slot) (r : GReg) : Word := if r = 0 then 0 else x.g.get r.toFin

/-- A g register set: g0 discards; a write ends a pending state and poison (R124, R125, R438). -/
def setG (x : Slot) (r : GReg) (v : Word) : Slot :=
  if r = 0 then x else
  { x with g := x.g.set r.toNat v r.isLt
           pend := x.pend &&& ~~~(BitVec.twoPow 32 r.toNat)
           poison := x.poison &&& ~~~(BitVec.twoPow 32 r.toNat) }

/-- The scalar requests in the unit's port or in the unit (R399). -/
def sfuSent (k : Core) : List SfuReq := ((k.sfuPort ++ k.sfuRun).map (·.reqs)).flatten

/-- Slots' requests, oldest first, without the oldest `n` of slot `i`. -/
def dropOldest (n i : Nat) (l : List Nat) : List Nat :=
  match l with
  | [] => []
  | j :: t => if j = i ∧ 0 < n then dropOldest (n - 1) i t else j :: dropOldest n i t

/-- Slot `i` has made a scalar request, the youngest of its core's: of `sfu` or into its queue (R400). -/
def noteSfu (s : State) (i : Nat) : State :=
  let c := slotCore i
  let k := coreAt s c
  let made := (k.sfuReqs.filter fun q => q.slot == i).length + (slotAt s i).qSfuReq.length
  setCore s c { k with sfuOrder := dropOldest ((k.sfuOrder.filter (· == i)).length + 1 - made) i k.sfuOrder ++ [i] }

/-- A register leaves the pending state with no value. -/
def unpend (x : Slot) (r : Nat) : Slot := { x with pend := x.pend &&& ~~~(BitVec.twoPow 32 r) }

/-- A result written to the register slot `i` names: pushed where that is a bound push port, which is then pending no longer (R90,
R126). -/
def writeAt (s : State) (i : Nat) (r : GReg) (v : Word) : State :=
  let code := portCode (slotAt s i) r
  if isPush code then
    let s := setQueue s i code (queueItems s i code ++ [v])
    let s := setSlot s i (unpend (slotAt s i) r.toNat)
    if code = 3 then noteSfu s i else s
  else setSlot s i (setG (slotAt s i) r v)

/-- A result of the acting slot. -/
def writeG (s : State) (r : GReg) (v : Word) : State := writeAt s s.cur r v

/-- A register left pending by an access at `ea` (R90, R123). -/
def pendG (x : Slot) (r : GReg) (ea : Word) : Slot :=
  if r = 0 then x else
  { x with pend := x.pend ||| BitVec.twoPow 32 r.toNat, gea := put x.gea r.toNat ea }

/-- A pending register written as poisoned (R437, R438). -/
def poisonG (x : Slot) (r : GReg) (ea : Word) : Slot :=
  if r = 0 then x else
  { x with pend := x.pend &&& ~~~(BitVec.twoPow 32 r.toNat)
           poison := x.poison ||| BitVec.twoPow 32 r.toNat
           gea := put x.gea r.toNat ea }

/-- Register number of a Nat. -/
def greg (n : Nat) : GReg := BitVec.ofNat 5 n

/-! Issuing, parking (R91, R123, R131). -/

/-- Length in bytes of the instruction being issued (R29). -/
def irLen (s : State) : Nat := 2 * s.ir.length

/-- The address after the instruction being issued. -/
def nextPc (s : State) : Word := (me s).pc + BitVec.ofNat 64 (irLen s)

/-- The instruction has issued: the slot is ready at the next one. -/
def advance (s : State) : State := setMe s { me s with st := .ready, pc := nextPc s, since := none, waiting := .none }

/-- The instruction has issued and the slot is ready at another address. -/
def jumpTo (s : State) (pc : Word) : State := setMe s { me s with st := .ready, pc := pc, since := none, waiting := .none }

/-- The acting slot parks on the instruction it has not issued; the turn of the first park counts (R123). -/
def park (s : State) (why : ParkWhy) : State :=
  let x := me s
  setMe s { x with
    st := .parked why
    since := some (x.since.getD (cycleOf s (myCore s)))
    ilen := irLen s }

/-- Slot `i` finishes the instruction it waits on after issue (R389, R97, R394). -/
def finishAt (s : State) (i : Nat) : State :=
  let x := slotAt s i
  setSlot s i { x with
    st := match x.st with
      | .stopped w _ => .stopped w none
      | _ => .ready
    pc := x.pc + BitVec.ofNat 64 x.ilen
    since := none
    waiting := .none }

/-- A counter of OUTST raised (R131). -/
def raiseCtr (x : Slot) (k : Ctr) : Slot :=
  match k with
  | .none => x
  | .t => { x with outT := x.outT + 1 }
  | .c => { x with outC := x.outC + 1 }
  | .s => { x with outS := x.outS + 1 }
  | .l => { x with outL := x.outL + 1 }

/-- A counter of OUTST lowered (R131). -/
def lowerCtr (x : Slot) (k : Ctr) : Slot :=
  match k with
  | .none => x
  | .t => { x with outT := x.outT - 1 }
  | .c => { x with outC := x.outC - 1 }
  | .s => { x with outS := x.outS - 1 }
  | .l => { x with outL := x.outL - 1 }

/-- A counter's value (R131). -/
def ctrOf (x : Slot) (k : Ctr) : Nat :=
  match k with
  | .none => 0
  | .t => x.outT
  | .c => x.outC
  | .s => x.outS
  | .l => x.outL

/-- A result of the acting slot left under way: its register pending, its counter raised (R90, R131). -/
def sendResult (s : State) (r : GReg) (v : Word) (poison : Bool) (ea : Word) (k : Ctr) : State :=
  let x := raiseCtr (pendG (me s) r ea) k
  setMe s { x with arrivals := x.arrivals ++ [⟨r.toNat, v, poison, ea, k, none, none⟩] }

/-- The result of a load miss left under way, with the line it brings into the L1 (R90, R131, R321). -/
def sendMiss (s : State) (r : GReg) (v : Word) (poison : Bool) (ea : Word) (line : Nat) : State :=
  let x := raiseCtr (pendG (me s) r ea) .l
  setMe s { x with arrivals := x.arrivals ++ [⟨r.toNat, v, poison, ea, .l, none, some line⟩] }

/-- A load of the acting slot that has still to perform: its register pending, counted in OUTST.L (R90, R131, R373). -/
def sendLoad (s : State) (r : GReg) (ea : Word) (q : LateLoad) : State :=
  let x := raiseCtr (pendG (me s) r ea) .l
  setMe s { x with arrivals := x.arrivals ++ [⟨r.toNat, 0, false, ea, .l, some q, none⟩] }

/-- A result under way arrives at slot `i`, and in the L1 the line it brings; g0 drops it. DESIGN CHOICE: a poisoned one for a push
port pushes no item, and leaves its register poisoned (R124, R125, R126, R321, R436, R437; log 21). -/
def deliver (s : State) (i : Nat) (a : Arrival) : State :=
  let s := match a.line with
    | some l => fillL1 s (slotCore i) l
    | none => s
  let s := setSlot s i (lowerCtr (slotAt s i) a.ctr)
  if a.poison then
    setSlot s i (poisonG (slotAt s i) (greg a.reg) a.ea)
  else
    let s := writeAt s i (greg a.reg) a.val
    setSlot s i { slotAt s i with gea := put (slotAt s i).gea a.reg 0 }

/-! Owners of operations under way, and save areas (R448 to R450). -/

/-- Who the acting slot's operations belong to. -/
def ownerOf (s : State) : Owner := ⟨s.cur, (me s).prodid, (me s).taskid⟩

/-- Whether slot `x` holds a task of that production and number. -/
def holds (x : Slot) (o : Owner) : Bool := x.st != .free && !x.saved && x.prodid == o.prod && x.taskid == o.task

/-- The slot that holds the owner's task now (R450). -/
def holder (s : State) (o : Owner) : Option Nat :=
  if holds (slotAt s o.slot) o then some o.slot
  else if (slotAt s o.slot).sup then none
  else (s.slots.find? fun (i, x) => slotCore i == slotCore o.slot && holds x o && !x.sup).map (·.1)

/-- The physical address of a supervisor-state access to HBM at virtual address `va` on core `c` (R439, R447). -/
def supPhys (s : State) (c : Nat) (va : Word) : Option Nat :=
  match translate s c (va.toNat % 2 ^ 56) with
  | (.page t, _) =>
    let pa := tlbPhys t (va.toNat % 2 ^ 56)
    if permits t.leaf needRW false && isHbm pa then some pa else none
  | _ => none

/-- Whether the page of a supervisor-state address migrates: an access of the device there waits and walks again (R346). -/
def supMigrates (s : State) (c : Nat) (va : Word) : Bool :=
  match (translate s c (va.toNat % 2 ^ 56)).1 with
  | .migrating _ => true
  | _ => false

/-- A 64-bit word of a save area or a pool. -/
def areaWord (s : State) (c : Nat) (va : Word) : Word :=
  match supPhys s c va with
  | some pa => BitVec.ofNat 64 (leNat (coreBytes s c pa 8))
  | none => 0

/-- A 64-bit word of a save area or a pool written. -/
def areaPut (s : State) (c : Nat) (va x : Word) : State :=
  match supPhys s c va with
  | some pa => scopedWrite s c pa (leBytes 8 x.toNat)
  | none => s

/-- The saved task of an owner (R450). -/
def savedOf (s : State) (o : Owner) : Option Saved :=
  (coreAt s (slotCore o.slot)).saved.find? fun q => q.prod == o.prod && q.task == o.task

/-- The number of a register's port where its saved task has it bound to a push queue (R118, R448). -/
def savedPush (s : State) (c : Nat) (q : Saved) (reg : Nat) : Option Nat :=
  if 24 ≤ reg ∧ isPush (fld (areaWord s c (q.area + 0x150)) (8 + 3 * (reg - 24)) 3) = true then some (reg - 24) else none

/-- A token for a saved task: in its register in the save area, or at the end of its push port's queue there; its PENDMAP bit and
OUTST.C there (R126, R448). -/
def savedToken (s : State) (o : Owner) (q : Saved) (reg : Nat) (v : Word) : State :=
  let c := slotCore o.slot
  let s := if reg = 0 then s else
    match savedPush s c q reg with
    | none => areaPut s c (q.area + BitVec.ofNat 64 (0x40 + 8 * reg)) v
    | some n =>
      let counts := areaWord s c (q.area + 0x1E0)
      areaPut (areaPut s c (q.area + BitVec.ofNat 64 (0x200 + 512 * n + 8 * fld counts (8 * n) 8)) v) c (q.area + 0x1E0)
        (counts + BitVec.ofNat 64 (2 ^ (8 * n)))
  let map := areaWord s c (q.area + 0x30)
  let s := areaPut s c (q.area + 0x30) (map &&& ~~~(BitVec.twoPow 64 reg))
  let out := areaWord s c (q.area + 0x168)
  areaPut s c (q.area + 0x168) (if fld out 12 6 = 0 then out else out - 0x1000)

/-- Whether a token for an owner waits: its task is saved, and the page of its area migrates (R346, R448). -/
def tokenWaits (s : State) (o : Owner) : Bool :=
  (holder s o).isNone && (savedOf s o).any fun q =>
    supMigrates s (slotCore o.slot) q.area || supMigrates s (slotCore o.slot) (q.area + 0x11FF)

/-- A token (R364): FAIL, CAUSE and DONE. -/
def tokenWord (fail : Bool) (cause done : Nat) : Word :=
  BitVec.ofNat 64 ((if fail then 2 ^ 63 else 0) + cause % 128 * 2 ^ 56 + done % 2 ^ 48)

/-- A token arrives: at the register of the slot that holds the task, in its save area, or, the task gone, nowhere
(R125, R448, R450, R451). -/
def deliverToken (s : State) (o : Owner) (reg : Nat) (v : Word) : State :=
  match holder s o with
  | some i => deliver s i ⟨reg, v, false, 0, .c, none, none⟩
  | none =>
    match savedOf s o with
    | some q => savedToken s o q reg v
    | none => s

/-! The fault ring (R439, R440). -/

/-- What a record says beside its kind (R440). -/
structure FaultRec where
  kind  : Nat
  cls   : Nat
  prod  : Nat
  addr  : Word
  cause : Word
  pc    : Word
  count : Nat
  deriving DecidableEq, Repr

/-- The 64 bytes of a record (R440). -/
def recordBytes (r : FaultRec) (cycle : Nat) : List Byte :=
  leBytes 8 (r.kind * 2 ^ 56 + r.cls * 2 ^ 48 + r.prod) ++ leBytes 8 cycle ++ leBytes 8 r.addr.toNat ++
  leBytes 8 r.cause.toNat ++ leBytes 8 r.pc.toNat ++ leBytes 8 r.count ++ leBytes 16 0

/-- Every supervisor slot of core `c` that is in idle wakes (R152, R439). -/
def wakeIdle (s : State) (c : Nat) : State :=
  { s with slots := s.slots.map fun (i, x) =>
      if slotCore i = c ∧ x.sup ∧ x.st = .parked .idle then (i, { x with st := .ready, since := none }) else (i, x) }

/-- A record written to the fault ring of core `c`, or dropped (R439). -/
def faultRecord (s : State) (c : Nat) (r : FaultRec) : State :=
  let va := (coreAt s c).mbox.toNat % 2 ^ 56
  if (coreAt s c).mbox = 0 then s else
  match translate s c va with
  | (.page t, s) =>
    let pa := tlbPhys t va
    if !permits t.leaf needRW false || !isHbm pa then s else
    if s.poisoned.contains (lineOf pa) then s else
    let produced := leNat (memBytes s.mem pa 8)
    let consumed := leNat (memBytes s.mem (pa + 8) 8)
    let lost := leNat (memBytes s.mem (pa + 16) 8)
    if (produced + 2 ^ 64 - consumed) % 2 ^ 64 < 63 then
      let at_ := pa + 64 + 64 * (produced % 63)
      if s.poisoned.contains (lineOf at_) || s.poisoned.contains (lineOf (at_ + 32)) then s else
      let s := writeSpan (fun s a b => homeWrite s 1024 a b) 4 s at_ (recordBytes r (cycleOf s c))
      let s := homeWrite s 1024 pa (leBytes 8 (produced + 1))
      wakeIdle s c
    else homeWrite s 1024 (pa + 16) (leBytes 8 (lost + 1))
  | (_, s) => s

/-- A record of kind `kind` about a line whose seal fails: one of the near store is named by its near address (R437, R440). -/
def sealRecord (s : State) (c kind prod : Nat) (l : Loc) : State :=
  let at_ := match l with
    | .phys pa => pa / 32 * 32
    | .scratch _ _ off => nearBase + off / 32 * 32
  faultRecord s c ⟨kind, 0, prod, BitVec.ofNat 64 at_, 0, 0, 0⟩

/-- The lowest-numbered core of a die that has a mailbox region (R439). -/
def ringCore (s : State) (d : Nat) : Option Nat :=
  (s.cores.find? fun (c, x) => coreDie c == d && x.mbox != 0).map (·.1)

/-- A record about a die (R439). -/
def dieRecord (s : State) (d : Nat) (r : FaultRec) : State :=
  match ringCore s d with
  | some c => faultRecord s c r
  | none => s

/-! Releases and acquires (R325, R326, R371, R377). -/

/-- Vector instructions that read or write memory, and the page 5 instructions that do (R348; 10, 11). -/
def isMemOp (o : VOp) : Bool :=
  match o with
  | .vld | .vst | .vlds | .vsts | .vldx | .vstx | .vldff | .vstxa | .vldw | .vldrow | .vstrow | .vamorow | .vldsync
  | .pload | .prow | .pbnd | .tld | .tst | .tmma | .mmav => true
  | _ => false

/-- Vector loads of page 4 (R350). -/
def isVecLoad (o : VOp) : Bool :=
  match o with
  | .vld | .vlds | .vldx | .vldff | .vldw | .vldrow | .vldsync | .pload | .prow | .pbnd | .tld | .tmma | .mmav => true
  | _ => false

/-- Vector stores of page 4, and `tst` (R350, R286). -/
def isVecStore (o : VOp) : Bool :=
  match o with
  | .vst | .vsts | .vstx | .vstxa | .vstrow | .vamorow | .tst => true
  | _ => false

/-- What waits at the ports: for an answer, to be sent again, or for its connection to be known (R346, R457, R463). -/
def doorWaits (s : State) : List Awaiting :=
  s.door.busy.map (·.wait) ++ s.door.deferred.map (·.wait) ++ (s.door.conns.map fun c => c.2.waits.map (·.2)).flatten

/-- Whether an answer from a port is awaited for a scalar access of slot `i` (R459). -/
def portWaits (s : State) (i : Nat) : Bool :=
  (doorWaits s).any fun w =>
    match w with
    | .load o _ _ _ _ _ => o.slot == i
    | .store o _ => o.slot == i
    | _ => false

/-- Whether slot `i` awaits an acquiring access through a port: no later access of the slot performs before it (R146). -/
def acqWaits (s : State) (i : Nat) : Bool :=
  (doorWaits s).any fun w =>
    match w with
    | .load o _ _ _ _ acq => o.slot == i && acq
    | _ => false

/-- Entries that read memory, an adaptive vqpack's card among it (R229, R350). -/
def readsMem (e : QEntry) : Bool := isVecLoad e.op || isAdaptive e
/-- Entries that write memory (R229, R350). -/
def writesMem (e : QEntry) : Bool := isVecStore e.op || isAdaptive e

/-- Whether a context holds an incomplete access of vector instructions numbered up to `n` for which the test holds; the
frozen entries of a handler's context wait for it, and it for none of them (R351, R373, R428; log 14). -/
def vecPending (s : State) (i n : Nat) (test : QEntry → Bool) : Bool :=
  match ctxOf s i with
  | some k => !(slotAt s i).handler &&
    (ctxAt s k).queue.any fun e => decide (e.seq ≤ n) && (isMemOp e.op && accessesMemory e || isAdaptive e) && test e
  | none => false

/-- The last vector instruction queued in the slot's context; none counts for an access of a handler (R351; log 14). -/
def lastSeq (s : State) : Nat :=
  match myCtx s with
  | some k => if (me s).handler then 0 else (ctxAt s k).seq
  | none => 0

/-- Whether an access of the acting slot has such an access before it. -/
def vecAhead (s : State) (test : QEntry → Bool) : Bool := vecPending s s.cur (lastSeq s) test

/-- Whether a load of the acting slot has still to perform. -/
def lateLoads (s : State) : Bool := (me s).arrivals.any fun a => a.load.isSome

/-- Whether the slot's earlier accesses have all performed as a release needs them: the store buffer drained, the ports'
answers come, and the context's memory instructions complete (R373, R377, R459). -/
def releaseReady (s : State) : Bool := (me s).sbuf.isEmpty && !portWaits s s.cur && !lateLoads s && !vecAhead s fun _ => true

/-- Whether a load of the acting slot follows loads that have still to perform (R373). -/
def loadsAhead (s : State) : Bool := lateLoads s || vecAhead s readsMem

/-- A release at a scope by an agent of core `c`, once its accesses have performed (R325). -/
def releaseAt (s : State) (c : Nat) (p : Scope) : State := if 2 ≤ p.rank then writeBackAll s c else s

/-- An acquire at a scope by an agent of core `c` (R326). -/
def acquireAt (s : State) (c : Nat) (p : Scope) : State := if 2 ≤ p.rank then invalidateRemote s c else s

/-- The scope of a stealing domain (R96, R106). -/
def domainScope (d : Nat) : Scope :=
  match d with
  | 0 => .core | 1 => .cluster | 2 => .die | _ => .package

/-- The scope D of the slot's production (R96). -/
def myDomain (s : State) : Scope :=
  match prodAt s (me s).prodid with
  | some p => domainScope p.domain
  | none => .core

/-! Completion of a vector-queue entry (R73, R131, R189, R239, R430 to R433). -/

/-- The counter an entry holds in OUTST until it completes (R131, R350, R286). -/
def vopCtr (o : VOp) : Ctr :=
  match o with
  | .vld | .vlds | .vldx | .vldff | .vldw | .vldrow | .vldsync | .pload | .prow | .pbnd => .l
  | .vst | .vsts | .vstx | .vstxa | .vstrow | .vamorow => .s
  | .tmma | .tzero | .tld | .tst | .tacc | .trow => .t
  | _ => .none

/-- The counter of one entry: a `pbnd` that computes its bounds loads nothing (R271, R296). -/
def entryCtr (e : QEntry) : Ctr := if e.op = .pbnd ∧ bitOf e.gb 0 then .none else vopCtr e.op

/-- Instructions whose scalar result the lanes compute (R90, R189). -/
def owesG (o : VOp) : Bool :=
  match o with
  | .mpopc | .mfirst | .vprobe | .vredsum | .vredmax | .vredmin | .vredmaxu | .vredand | .vredor | .vredxor | .vredminu
  | .vqamax | .vfredsumO | .vfredsumT | .vfredmax | .vfredmin | .vfdotO | .vhkcnt => true
  | _ => false

/-- A bit of a list of bits set, the list extended as needed. -/
def setBit (l : List Bool) (i : Nat) (b : Bool) : List Bool :=
  if i < l.length then l.set i b else l ++ List.replicate (i - l.length) false ++ [b]

/-- The value of VFAULT after element faults (R431, R432). -/
def vfaultOf (old : Word) (fs : List ElemFault) (ff : Bool) : Word :=
  let first := fs.foldl (fun a f => if f.elem < a then f.elem else a) 0xFFFF
  let cause := match fs.find? fun f => f.elem == first with
    | some f => f.cause
    | none => 0
  BitVec.ofNat 64 (2 ^ 63 + cause % 128 * 2 ^ 56 + first % 65536 * 2 ^ 32 + min fs.length 0xFFFF * 2 ^ 16 +
    (if ff then 16 else 0) + fld old 0 4)

/-- The record of deferred element faults in VFAULT and, with FMEN, in a mask register (R432). -/
def recordFaults (y : Ctx) (e : QEntry) (first : Nat) : Ctx :=
  let y' := { y with vfault := vfaultOf y.vfault e.faults false }
  if bitOf y.vfault 3 then
    let r := fld y.vfault 0 3
    let row := tab (e.vl - first) first id |>.foldl
      (fun l i => setBit l i (e.faults.any fun f => f.elem == i)) (look y.m r [])
    { y' with m := put y'.m r row }
  else y'

/-- The trap that deferred element faults raise (R430). -/
def faultTrap (e : QEntry) : VTrap :=
  let first := e.faults.foldl (fun a f => if f.elem < a then f.elem else a) 0xFFFF
  match e.faults.find? fun f => f.elem == first with
  | some f => ⟨e.addr, f.cause, true, if f.cause = 7 ∨ f.cause = 8 ∨ f.cause = 9 then f.addr else 0⟩
  | none => ⟨e.addr, 0, true, 0⟩

/-- Flags joined to FFLAGS, and to each value that a write of FFLAGS has still to put there (R72, R73). -/
def addFlags (x : Slot) (f : BitVec 6) : Slot :=
  { x with fflags := x.fflags ||| f, flagWrites := x.flagWrites.map fun (w : Nat × BitVec 6) => (w.1, w.2 ||| f) }

/-- What vector instruction `seq` does to FFLAGS as it completes: its flags join it, and then a write that waited for no later one
takes effect (R73). -/
def vectorFlags (x : Slot) (seq : Nat) (f : BitVec 6) : Slot :=
  { x with
    fflags := (x.flagWrites.filter fun (w : Nat × BitVec 6) => decide (w.1 ≤ seq)).foldl
      (fun (_ : BitVec 6) (w : Nat × BitVec 6) => w.2) (x.fflags ||| f)
    flagWrites := x.flagWrites.filter fun (w : Nat × BitVec 6) => !decide (w.1 ≤ seq) }

/-- What the completion of instruction `seq` adds to a late read that waits for it or for a later one: its flags to FFLAGS, and
to VL what a vldff trims it to (R150, R354). DESIGN CHOICE: a pending mfk of FFLAGS takes FFLAGS as it issues and the flags of the
vector instructions it waits for; an earlier scalar sfu that completes while it waits adds nothing to it (log 14). -/
def lateStep (seq : Nat) (flags : BitVec 6) (trim : Option Nat) (r : LateRead) : LateRead :=
  if r.seq < seq then r
  else if r.index = 0x0D ∧ r.floor < seq then { r with val := r.val.map fun v => v ||| flags.setWidth 64 }
  else match trim with
    | some n => if r.index = 0x00 then { r with val := some (BitVec.ofNat 64 n) } else r
    | none => r

/-- The late reads of slot `i` as instruction `seq` completes: those that waited for it get their value; `vf` is VFAULT as it
leaves it (R150). -/
def resolveLate (s : State) (i seq : Nat) (flags : BitVec 6) (trim : Option Nat) (vf : Word) : State :=
  let x := slotAt s i
  let upd := x.late.map (lateStep seq flags trim)
  let ready := upd.filter fun r => decide (r.seq ≤ seq)
  let s := setSlot s i { x with late := upd.filter fun r => !decide (r.seq ≤ seq) }
  ready.foldl (fun s r => writeAt s i (greg r.reg) (r.val.getD vf)) s

/-- Core of a context number. -/
def ctxCore (x : Nat) : Nat := x / 16384
/-- Production of a context number. -/
def ctxProd (x : Nat) : Nat := x / 4 % 4096

/-- The bytes of a card at its home, the core's own dirty copy written back first (R229, R230). -/
def cardHome (s : State) (c : Nat) (l : Loc) (n : Nat) : List Byte × State :=
  match l with
  | .scratch k p off => (scratchBytes s k p off n, s)
  | .phys pa =>
    let s := writeBackLines s c ((tab (n / 32 + 2) 0 fun i => lineOf pa + i).filter fun x => decide (x * 32 < pa + n))
    (memBytes s.mem pa n, s)

/-- Bytes of a card written at its home, within one line (R229). -/
def cardPut (s : State) (c : Nat) (l : Loc) (bs : List Byte) : State :=
  match l with
  | .scratch k p off => scratchWrite s k p off bs
  | .phys pa => scopedWrite s c pa bs

/-- Where an address that the front checked at issue lies: scratch, or under the pin that an entry took, or, after a
pre-emption dropped it, under a new translation (R229, R286, R303, R341). -/
def pinnedLoc (s : State) (x seq : Nat) (n : Need) (ea : Word) : Option Loc :=
  let c := ctxCore x
  let va := ea.toNat % 2 ^ 56
  if isNear ea then some (.scratch c (ctxProd x) (ea.toNat - nearBase)) else
  match (coreAt s c).pins.find? fun p => p.ctx == x && p.seq == seq && p.atIssue && tlbMatch p.tlb p.tlb.asid va with
  | some p => some (.phys (tlbPhys p.tlb va))
  | none => match (translate s c va).1 with
    | .page t => if permits t.leaf n true then some (.phys (tlbPhys t va)) else none
    | _ => none

/-- Whether the page of an address that the front checked at issue is being migrated, with no pin left on it (R346). -/
def pinMigrates (s : State) (x seq : Nat) (ea : Word) : Bool :=
  let c := ctxCore x
  let va := ea.toNat % 2 ^ 56
  !isNear ea && !((coreAt s c).pins.any fun p => p.ctx == x && p.seq == seq && p.atIssue && tlbMatch p.tlb p.tlb.asid va) &&
    (match (translate s c va).1 with
     | .migrating _ => true
     | _ => false)

/-- Whether a line that an access of the vector memory unit at an address reads is to be waited for: its page is being migrated, or an
engine owns it (R346, R378). -/
def pinWaits (s : State) (x seq : Nat) (ea : Word) : Bool :=
  pinMigrates s x seq ea || (pinnedLoc s x seq needNone ea).any fun l => engineOwns s l 1

/-- Whether an adaptive `vqpack` has to wait for its card (R229, R346, R378). -/
def cardWaits (s : State) (x : Nat) (e : QEntry) : Bool :=
  isAdaptive e && (tab 10 0 id).any fun i => pinWaits s x e.seq (e.acc.headD 0 + BitVec.ofNat 64 (8 * i))

/-- Bytes of a card written at their home (R229). -/
def cardPutAt (s : State) (x seq : Nat) (ea : Word) (bs : List Byte) : State :=
  match pinnedLoc s x seq needRW ea with
  | some l => cardPut s (ctxCore x) l bs
  | none => s

/-- The history entry and count an adaptive vqpack adds to its card, one read-modify-write at the card's home (R229). -/
def cardUpdate (s : State) (x seq : Nat) (ea : Word) (amax sat : Nat) : State :=
  match pinnedLoc s x seq needRW ea with
  | none => s
  | some l =>
    let (bs, s) := cardHome s (ctxCore x) l 8
    let w := leNat bs
    let head := w / 2 ^ 24 % 16
    let count := min (w / 2 ^ 32 + sat) 0xFFFFFFFF
    let s := cardPutAt s x seq (ea + BitVec.ofNat 64 (16 + 4 * head)) (leBytes 4 amax)
    cardPutAt s x seq ea (leBytes 8 (count * 2 ^ 32 + w % 2 ^ 24 + (head + 1) % 16 * 2 ^ 24 + w / 2 ^ 28 % 16 * 2 ^ 28))

/-- The fault a card meets: a line of it that holds poison, or, after a pre-emption, a page that no longer translates. -/
def cardFault (s : State) (x seq : Nat) (ea : Word) : Option Nat :=
  let ls := (tab 10 0 id).map fun i => pinnedLoc s x seq needRW (ea + BitVec.ofNat 64 (8 * i))
  if ls.any (·.isNone) then some 8
  else if (ls.filterMap id).any fun l => locPoisoned s (ctxCore x) l then some 9
  else none

/-- The completion of an adaptive vqpack of context `x`: `acc` holds the card's EA, the amax and the count; a poisoned card
stays as it is (R229, R430). -/
def completeCard (s : State) (x : Nat) (e : QEntry) : State × Option VTrap :=
  match e.op, e.acc with
  | .vqpack, [ea, amax, sat] =>
    match cardFault s x e.seq ea with
    | some k => (s, some ⟨e.addr, k, false, ea⟩)
    | none => (cardUpdate s x e.seq ea amax.toNat sat.toNat, none)
  | _, _ => (s, none)

/-- Pins an entry holds are dropped (R342). -/
def dropPins (s : State) (c x seq : Nat) : State :=
  let k := coreAt s c
  setCore s c { k with pins := k.pins.filter fun p => !(p.ctx == x && p.seq == seq) }

/-- The hold of buffer `b` by context `x` ends; its contents are lost (R273). -/
def freeHold (s : State) (x b : Nat) : State :=
  let k := coreAt s (ctxCore x)
  let s := setCore s (ctxCore x) { k with rowHold := k.rowHold.filter (· != 2 * x + b) }
  setCtx s x { ctxAt s x with holds := put (ctxAt s x).holds b hold0 }

/-- The band in program order after entries that have still to complete (R263). -/
def bandAfter (es : List QEntry) (b : BandDesc) : BandDesc := es.foldl (fun b e => if e.op = .pload then e.band else b) b

/-- The holds in program order after entries that have still to complete (R263, R273). -/
def holdsAfter (es : List QEntry) (hs : Map Hold) : Map Hold :=
  es.foldl (fun hs e => match e.op with
    | .prow => put hs (fld e.gb 8 1) ⟨true, fld e.gb 0 7, fld e.gb 16 5, fld e.gb 24 16,
      productLen (fld e.gb 0 7) e.vtype, [], []⟩
    | .mma | .mmav => if bitOf e.ga 2 then put hs (fld e.ga 0 1) hold0 else hs
    | _ => hs) hs

/-- The arrays of the ways whose strips end above element `from_`. -/
def arraysAbove (y : Ctx) (from_ : Nat) : List Nat :=
  (((stripsOf y).zip y.groups).filter fun p => decide (from_ < p.1.2.2)).map (·.2) |>.flatten

/-- The product state as `pload` leaves it from its restart point up: its band, and the identity map of every array whose strip it
has not run; a strip sets the maps of its own (R270, R271). -/
def ploadState (y : Ctx) (e : QEntry) (from_ : Nat) : Ctx :=
  let arrays := arraysAbove y from_
  { y with band := e.band, blockMap := y.blockMap.filter fun p => !arrays.contains (p.1 / 256) }

/-- What completion of an entry does beside its result, flags and faults: the band of a pload stands (R270), an mma or mmav
with FREE ends its hold (R278), a vldrow's stale reads are counted (R471), a vldsync acquires (R359), and a vldff that
trimmed sets VL and VFAULT (R354, R433). -/
def completionEffect (s : State) (x : Nat) (e : QEntry) : State :=
  let y := ctxAt s x
  match e.op with
  | .pload => setCtx s x (if e.acc = [] then ploadState y e 0 else { y with band := e.band })
  | .mma | .mmav => if bitOf e.ga 2 then freeHold s x (fld e.ga 0 1) else s
  | .vldrow =>
    match y.bound, e.acc with
    | some i, n :: _ =>
      let z := slotAt s i
      setSlot s i { z with stalerd := BitVec.ofNat 32 (min (z.stalerd.toNat + n.toNat) 0xFFFFFFFF) }
    | _, _ => s
  | .vldsync => acquireAt s (ctxCore x) .die
  | .vldff =>
    match e.acc with
    | [f, cause] => setCtx s x { y with vl := f.toNat, vfault := vfaultOf y.vfault [⟨f.toNat, cause.toNat, 0⟩] true }
    | _ => s
  | _ => s

/-- What an entry's expansion is keyed on (R241). -/
def expKey (e : QEntry) : ExpKey := ⟨e.addr, e.words, e.ga, e.gb, e.gc, e.vl, e.vtype, e.start⟩

/-- The head entry `e` of context `x` completes and leaves the queue: its result is written, its flags and faults are
recorded, its counter falls, and a fault it deferred falls due as a trap (R239, R432). A `prow` that failed leaves the holds in
program order as they are without it (R430). DESIGN CHOICE: an adaptive `vqpack` that has recorded element faults and meets a
poisoned card takes the trap of the element faults alone (R229; log 15). -/
def completeHead (s : State) (x : Nat) (e : QEntry) : State :=
  let c := ctxCore x
  let (s, cardTrap) := completeCard s x e
  let s := completionEffect s x e
  let y := ctxAt s x
  let y := if e.faults.isEmpty then y else recordFaults y e e.origin
  let vf := y.vfault
  let y := { y with
    queue := y.queue.filter fun q => q.seq != e.seq
    vfault := (y.vfWrites.filter fun (w : Nat × Word) => decide (w.1 ≤ e.seq)).foldl (fun (_ : Word) (w : Nat × Word) => w.2) vf
    vfWrites := y.vfWrites.filter fun (w : Nat × Word) => !decide (w.1 ≤ e.seq)
    loopBuf := (expKey e :: y.loopBuf).take 16
    trap := if !e.faults.isEmpty then some (faultTrap e) else
      match e.late with
      | some t => some t
      | none => match cardTrap with
        | some t => some t
        | none => y.trap }
  let y := if y.queue.isEmpty then
      { y with
        defStrip := 0, skipStrip := 0, defTree := 0, skipTree := 0, defRow := 0, skipRow := 0, defTile := 0, skipTile := 0
        defSfu := 0, skipSfu := 0 }
    else y
  let y := if e.op = .prow ∧ e.late.isSome then { y with holdsIssue := holdsAfter y.queue y.holds } else y
  let s := dropPins (setCtx s x y) c x e.seq
  match y.bound with
  | none => s
  | some i =>
    let z := lowerCtr (slotAt s i) (entryCtr e)
    let z := if e.op = .vqpack ∧ e.acc ≠ [] then lowerCtr z .s else z
    let z := vectorFlags z e.seq e.flags
    let s := if z.dbg.stepVec then setCtx s x { ctxAt s x with frozen := true } else s
    let z := { z with dbg := { z.dbg with stepVec := false, vcHit := z.dbg.vcHit || (z.dbg.vcen && z.dbg.vc == e.addr) } }
    let s := setSlot s i z
    let s := match e.result with
      | some v => writeAt s i (greg e.f.d.toNat) v
      | none => s
    resolveLate s i e.seq e.flags (match e.op, e.acc with
      | .vldff, [f, _] => some f.toNat
      | _, _ => none) vf

/-- Whether the head entry of context `x` has ended: nothing of it is left to start, no strip of it runs, and its card need not be
waited for (R229, R239, R346). -/
def entryEnded (s : State) (x : Nat) (e : QEntry) : Bool :=
  (e.st == .done || (entryKind e == .lane && allStarted (ctxAt s x) e)) && !cardWaits s x e &&
  !((coreAt s (ctxCore x)).strips.any fun t => t.ctx == x && t.seq == e.seq)

/-- Head entries that have ended complete, oldest first, until a trap falls due; `fuel` bounds them (R239, R425). -/
def completeEnded (s : State) (x fuel : Nat) : State :=
  match fuel with
  | 0 => s
  | fuel + 1 =>
    let y := ctxAt s x
    match y.queue with
    | e :: _ => if entryEnded s x e && y.trap.isNone then completeEnded (completeHead s x e) x fuel else s
    | [] => s

/-- Packets of the context's strips that nobody waits for any more are forgotten. -/
def forgetPackets (s : State) (x : Nat) : State :=
  let mine (k : RKey) : Bool := match k with
    | .strip z _ => z == x
    | .engine _ _ => false
  { s with door := { s.door with
      remotes := s.door.remotes.filter fun r => !mine r.key
      deferred := s.door.deferred.filter fun d => match d.wait with
        | .remote q _ _ => !mine q
        | _ => true
      conns := s.door.conns.map fun (n, k) => (n, { k with waits := k.waits.filter fun (_, w) => match w with
        | .remote q _ _ => !mine q
        | _ => true }) } }

/-- Whether an entry of `rowHold` is a buffer that a relay of context `x` holds (R251): `prow` holds are 2 × context + name. -/
def isRelay (x h : Nat) : Bool := h == 2 ^ 32 + x

/-! Lane-cycle charges of strips (R467, R468). -/

/-- Array cycles that begin from local cycle `a` up to `b`: at half rate one begins in every other local cycle, an even one
(R9, R405; log 11). -/
def cyclesIn (half : Bool) (a b : Nat) : Nat := if half then (b + 1) / 2 - (a + 1) / 2 else b - a

/-- The local cycle at which `n` array cycles from local cycle `a` on have ended. -/
def cyclesEnd (half : Bool) (a n : Nat) : Nat := if half then 2 * ((a + 1) / 2 + n) else a + n

/-- Array cycles of core `c` from local cycle `a` to `b`. -/
def arrayCycles (s : State) (c a b : Nat) : Nat := cyclesIn (coreAt s c).halfRate a b

/-- What the lanes of one group have been charged after `n` array cycles: USE, MASK, BEYOND, START, STALL and HOOK, the stall
being what no strip claims. -/
def chargedBy (n : Nat) (l : List Phase) : List Nat :=
  match l with
  | [] => [0, 0, 0, 0, 0, 0]
  | p :: t =>
    let k := min n p.cycles
    let here := [k * p.use, k * p.mask, k * p.beyond, k * p.start, 0, p.hook]
    if p.cycles ≤ n then (here.zip (chargedBy (n - p.cycles) t)).map fun x => x.1 + x.2 else here

/-- Two lists of charges added. -/
def addCharges (a b : List Nat) : List Nat := (a.zip b).map fun x => x.1 + x.2

/-- What a strip of core `c` has been charged by now. -/
def stripCharges (s : State) (c : Nat) (t : Strip) : List Nat :=
  let n := t.spent + arrayCycles s c t.begun (if t.endAt = 0 then cycleOf s c else min (cycleOf s c) t.endAt)
  t.tracks.foldl (fun a l => addCharges a (chargedBy n l)) [0, 0, 0, 0, 0, 0]

/-- Lane cycles added to a context's counters, class by class. -/
def addLcy (y : Ctx) (n : Nat) (l : List Nat) : Ctx :=
  match l with
  | [] => y
  | x :: t => addLcy { y with lcy := if x = 0 then y.lcy else put y.lcy n (look y.lcy n 0 + x) } (n + 1) t

/-- A context with what its running strips have been charged so far. -/
def chargeRunning (s : State) (x : Nat) : Ctx :=
  ((coreAt s (ctxCore x)).strips.filter fun t => t.ctx == x).foldl (fun y t => addLcy y 0 (stripCharges s (ctxCore x) t)) (ctxAt s x)

/-- The counters of a context as a slot binds it: 6 holds the local cycle from which array cycles are counted (R114, R467). -/
def lcyStart (s : State) (c : Nat) : Map Nat := [(6, cycleOf s c)]

/-! Freezing a context (R155, R424, R446). -/

/-- The entry of context `x` that goes on while its slot stops, before the handler runs (R188, R261, R424). -/
def runsOn (s : State) (x : Nat) : Option QEntry :=
  let y := ctxAt s x
  if y.bound.any fun i => (slotAt s i).handler then none else goesOn y y.queue

/-- Whether a strip of context `x` runs, or an instruction that has begun and must go on to its end; the tree held for an entry that
other entries have to go before is no such strip (R188, R261). -/
def stripsRun (s : State) (x : Nat) : Bool :=
  ((coreAt s (ctxCore x)).strips.any fun t => t.ctx == x && !(t.way == 16 && t.endAt == 0)) || (runsOn s x).isSome

/-- An entry as a freeze leaves it: it keeps its restart point, and a tree-fed one what it has drained, and it loses its pins, its
lines and what its loads have found; a cross-element one that has only passed strips starts afresh (R188, R202, R240). -/
def stillEntry (e : QEntry) : QEntry :=
  let e := { e with pinned := 0, owned := [], seen := [], passes := 0 }
  if entryKind e = .cross ∧ e.st = .queued then { e with restart := e.start } else e

/-- An entry as a return from the handler runs it again: from its restart point; a tree-fed one goes on with what it has drained
(R240, R428; log 11). -/
def againEntry (e : QEntry) : QEntry :=
  { e with
    start := if opKind e.op = .tree then e.start else max e.start e.restart
    st := match e.st with
      | .stopped _ _ => .queued
      | t => t }

/-- A context whose oldest entry is a `pload` that has stopped at a strip: the product state is set (R271). -/
def stoppedPload (y : Ctx) : Ctx :=
  match y.queue with
  | e :: _ => if e.op = .pload ∧ (e.st ≠ .queued ∨ e.restart ≠ e.start) then ploadState y e (if e.acc = [] then 0 else e.restart) else y
  | [] => y

/-- The freeze of a context of which no strip runs any more: what has ended completes, no strip starts, and every other entry
keeps its restart point and loses what its unit holds; a `pload` stopped at a strip leaves the product state set (R155, R271,
R424, R446). -/
def freeze (s : State) (x : Nat) : State :=
  let c := ctxCore x
  let k := coreAt s c
  let s := setCore s c { k with
    strips := k.strips.filter fun t => t.ctx != x
    sfuVec := k.sfuVec.filter fun v => v.ctx != x
    rowHold := k.rowHold.filter fun h => !isRelay x h
    pinWait := k.pinWait.filter fun p => p.ctx != x }
  let s := completeEnded s x 16
  let k := coreAt s c
  let s := setCore s c { k with pins := k.pins.filter fun p => p.ctx != x || p.atIssue }
  let y := ctxAt s x
  let s := setCtx s x { stoppedPload y with frozen := true, queue := y.queue.map stillEntry }
  forgetPackets s x

/-- The trap that has fallen due in a context: after its oldest entry completed, or a strip stop at its oldest entry (R430). -/
def trapDue (y : Ctx) : Option VTrap :=
  match y.trap, y.queue with
  | some t, _ => some t
  | none, e :: _ =>
    match e.st with
    | .stopped cause addr => some ⟨e.addr, cause, false, addr⟩
    | _ => none
  | none, [] => none

/-! Withdrawing a wait (R123, R395, R424). -/

/-- The key of the packets that the `n`-th block read of slot `i`'s instruction sends (R459). -/
def blockKey (i n : Nat) : RKey := .engine (slotCore i) (2 ^ 64 + 16 * n + i % 16)

/-- The packets of slot `i`'s block reads are forgotten. -/
def blockClear (s : State) (i : Nat) : State :=
  { s with door := { s.door with remotes := s.door.remotes.filter fun r => r.key != blockKey i 0 && r.key != blockKey i 1 } }

/-- The request of slot `i` leaves every list (R391, R424). -/
def withdrawRequest (s : State) (i : Nat) : State :=
  let s := blockClear s i
  { s with
    feReqs := s.feReqs.filter fun q => q.slot != i
    dies := s.dies.map fun (d, x) => (d, { x with feWait := x.feWait.filter fun q => q.slot != i })
    cores := s.cores.map fun (c, x) => (c, { x with feWait := x.feWait.filter fun q => q.slot != i
                                                    ctxWait := x.ctxWait.filter (· != i)
                                                    pinAsk := x.pinAsk.filter (· != i) })
    curtainReqs := s.curtainReqs.filter fun q => q.slot != i || q.answer.isSome }

/-- The answers to curtainx that slot `i` has not received are dropped, its task gone. -/
def dropAnswers (s : State) (i : Nat) : State := { s with curtainReqs := s.curtainReqs.filter fun q => q.slot != i }

/-- A counted arrival is taken back (R395). -/
def withdrawArrival (s : State) (prod home index : Nat) : State :=
  { s with curtains := s.curtains.map fun t =>
      if t.home = home ∧ t.prod = prod ∧ t.index = index then
        { t with count := t.count - 1, n := if t.count ≤ 1 then 0 else t.n }
      else t }

/-- The wait of slot `i` is withdrawn; its instruction executes afresh (R123, R424). -/
def withdraw (s : State) (i : Nat) : State :=
  let x := slotAt s i
  let s := withdrawRequest s i
  let s := match x.waiting with
    | .arrived home index _ => withdrawArrival s x.prodid home index
    | _ => s
  setSlot s i { slotAt s i with waiting := .none }

/-! Taking a trap, and returning (R424 to R429). -/

/-- TRAPCAUSE (R426). -/
def causeWord (code : Nat) (vec elem : Bool) (reg : Nat) : Word :=
  BitVec.ofNat 64 (code + (if vec then 128 else 0) + (if elem then 256 else 0) + reg * 65536)

/-- TRAPVC: the commit pointer's entry, and whether an entry is incomplete (R424). -/
def trapVc (s : State) (i : Nat) (entry : Option Word) : Word :=
  match ctxOf s i with
  | none => entry.getD 0
  | some k =>
    match (ctxAt s k).queue with
    | [] => entry.getD 0
    | e :: _ => entry.getD e.addr ||| 1

/-- An even address. -/
def evenAddr (a : Word) : Word := a &&& ~~~1

/-- How a slot that enters the handler stands: ready, but stopped still where it is being pre-empted (R424, R452). -/
def handlerSt (t : SlotSt) : SlotSt :=
  match t with
  | .stopped (.preempting w) _ => .stopped (.preempting w) none
  | _ => .ready

/-- Slot `i` enters the handler: the saved registers written, the state changed, the pc at TRAPVEC; a slot that is being
pre-empted stays stopped. In the handler state this is a double trap: the slot stops, the entries keep the first trap, and a
record is written (R424, R426, R429, R452). -/
def enterHandler (s : State) (i : Nat) (pc vc cause addr : Word) : State :=
  let x := slotAt s i
  if x.handler then
    let s := setSlot s i { x with st := .stopped .doubleTrap none, freezing := none, since := none }
    faultRecord s (slotCore i) ⟨1, 0, x.prodid, addr, cause, evenAddr pc, 0⟩
  else
    setSlot s i { x with
      st := handlerSt x.st
      freezing := none
      handler := true
      trappc := evenAddr pc
      trapvc := vc
      trapcause := cause
      trapaddr := addr
      pc := x.trapvec
      since := none
      retiring := false
      waiting := .none }

/-- A walk of slot `i`'s access that met a poisoned line writes a record of kind 2 (R437). -/
def walkRecordAt (s : State) (i : Nat) (ea : Word) : State :=
  match walk s (slotCore i) (ea.toNat % 2 ^ 56) with
  | .fail (some pa) => faultRecord s (slotCore i) ⟨2, 0, (slotAt s i).prodid, BitVec.ofNat 64 (pa / 32 * 32), 0, 0, 0⟩
  | _ => s

/-- The trap of vector origin that fell due in the frozen context of slot `i`: a wait of the slot is withdrawn, and TRAPPC is the
first instruction not yet issued (R424, R425, R437). -/
def enterVector (s : State) (i x : Nat) (t : VTrap) : State :=
  let s := withdraw (if t.cause = 8 then walkRecordAt s i t.addr else s) i
  let s := setCtx s x { ctxAt s x with trap := none }
  enterHandler s i (slotAt s i).pc (trapVc s i (some t.entry)) (causeWord t.cause true t.elem 0) t.addr

/-- Slot `i` stopped for the debugger; a parked one keeps its place and the time it has waited (R473, R475). -/
def debugHold (s : State) (i why : Nat) : State :=
  let x := slotAt s i
  setSlot s i { x with
    st := .stopped (.debug why) (match x.st with
      | .parked w => some w
      | _ => none)
    freezing := none
    since := x.since.map fun t => cycleOf s (slotCore i) - t
    dbg := { x.dbg with stepping := false, stepReq := false, stepVec := false, haltReq := false, vcHit := false } }

/-- Slot `i` stops for the debugger, or enters the handler, its context frozen, unless what completed in the freeze has made a
trap of vector origin due, which is then the one taken: a debug stop then falls before the handler's first instruction (R424, R425, R473,
R475). -/
def endFreeze (s : State) (i x : Nat) (f : FreezeFor) : State :=
  let s := freeze s x
  match trapDue (ctxAt s x) with
  | some t =>
    match f with
    | .debug why => debugHold (enterVector s i x t) i why
    | _ => enterVector s i x t
  | none =>
    match f with
    | .trap cause addr reg => enterHandler s i (slotAt s i).pc (trapVc s i none) (causeWord cause false false reg) addr
    | .vector => setSlot s i { slotAt s i with freezing := none }
    | .debug why => debugHold s i why

/-- The freeze of slot `i`'s context begins: no strip starts, the slot issues nothing, and once no strip runs the freeze ends
(R424). -/
def beginFreeze (s : State) (i x : Nat) (f : FreezeFor) : State :=
  if stripsRun s x then
    setSlot (setCtx s x { ctxAt s x with frozen := true }) i { slotAt s i with freezing := some f }
  else endFreeze s i x f

/-- Taking a trap of scalar origin on slot `i`: its context freezes first (R424). -/
def takeTrapAt (s : State) (i cause : Nat) (addr : Word) (reg : Nat) : State :=
  match ctxOf s i with
  | none => enterHandler s i (slotAt s i).pc (trapVc s i none) (causeWord cause false false reg) addr
  | some x =>
    if (slotAt s i).handler then
      enterHandler s i (slotAt s i).pc (trapVc s i none) (causeWord cause false false reg) addr
    else beginFreeze s i x (.trap cause addr reg)

/-- Taking a trap on the instruction the slot is issuing: a next state. -/
def takeTrap (s : State) (cause : Nat) (addr : Word) : State := takeTrapAt s s.cur cause addr 0

/-- The return: the handler state left, the context thawed, each entry at its restart point, the pc at TRAPPC (R428). -/
def returnTrap (s : State) : State :=
  let s := match myCtx s with
    | some x =>
      let y := ctxAt s x
      setCtx s x { y with frozen := false, queue := y.queue.map againEntry }
    | none => s
  setMe s { me s with st := .ready, handler := false, pc := (me s).trappc, since := none }

end Sys2Proof.Machine
end

