-- ==== Sys2Proof/Machine/Operands.lean ====
section
/-! DEFINITION. Every operand form: reading g operands with their ports, pending states and poison (R91, R126, R438), the
shapes of scalar instructions, and effective addresses (R142). -/

namespace Sys2Proof.Machine

/-- What reading the operands of an instruction gives: values, or a slot that parked or trapped. -/
inductive Operands where
  | ok (vals : List Word) (s : State)
  | stop (s : State)
  deriving DecidableEq, Repr

/-- A register that is no bound port, not pending and not poisoned. -/
def plainReg (x : Slot) (r : GReg) : Bool :=
  portCode x r == 0 && !bitOf x.pend r.toNat && !bitOf x.poison r.toNat

/-- The first register among `rs` for which `p` holds. -/
def firstReg (p : GReg → Bool) (rs : List GReg) : Option GReg := rs.find? p

/-- The port number of a register (R117). -/
def portNo (r : GReg) : Nat := r.toNat - 24

/-- The pop port among `srcs`, in field order, that has no item left for its read (R126). -/
def emptyPop (s : State) (seen : List GReg) (srcs : List GReg) : Option GReg :=
  match srcs with
  | [] => none
  | r :: t =>
    let code := portCode (me s) r
    let before := (seen.filter (· == r)).length
    if isPop code && decide ((queueItems s s.cur code).length ≤ before) then some r else emptyPop s (r :: seen) t

/-- Whether a result of slot `i` is under way to register `r`: it is pending until that arrives, and an instruction that writes it
parks, so that pushes enter a port's queue in program order (R90, R91, R126). -/
def aimedAt (s : State) (i : Nat) (r : GReg) : Bool := bitOf (slotAt s i).pend r.toNat

/-- The push port among `dsts` with no room, or with a result still under way to it (R126). -/
def fullPush (s : State) (dsts : List GReg) : Option GReg :=
  dsts.find? fun r =>
    let code := portCode (me s) r
    isPush code && (decide (queueDepth code ≤ (queueItems s s.cur code).length) || aimedAt s s.cur r)

/-- One operand read: a pop from a pop port, zero from a poisoned register in the handler state (R126, R438). -/
def readOne (s : State) (r : GReg) : Word × State :=
  let x := me s
  let code := portCode x r
  if isPop code then
    match queueItems s s.cur code with
    | v :: q => (v, setQueue s s.cur code q)
    | [] => (0, s)
  else if bitOf x.poison r.toNat then (0, s)
  else (readG x r, s)

/-- Operands read in field order. -/
def readAll (s : State) (rs : List GReg) : List Word × State :=
  match rs with
  | [] => ([], s)
  | r :: t =>
    let (v, s) := readOne s r
    let (vs, s) := readAll s t
    (v :: vs, s)

/-- The operands of an instruction that reads `srcs` (fields a, b, c in order), reads `data` (a d field that is a source)
and writes `dsts`. It reads all or nothing: a direction fault, a pending register, an empty or full port and a poisoned
operand each stop it first (R91, R117, R126, R438). -/
def readOperands (s : State) (srcs data dsts : List GReg) : Operands :=
  let x := me s
  if (srcs ++ data ++ dsts).all (plainReg x) then .ok ((srcs ++ data).map (readG x)) s else
  match firstReg (fun r => isPush (portCode x r)) srcs with
  | some r => .stop (takeTrap s 22 (BitVec.ofNat 64 (portNo r)))
  | none =>
  match firstReg (fun r => portCode x r != 0) data with
  | some r => .stop (takeTrap s 22 (BitVec.ofNat 64 (portNo r)))
  | none =>
  match firstReg (fun r => isPop (portCode x r)) dsts with
  | some r => .stop (takeTrap s 22 (BitVec.ofNat 64 (portNo r)))
  | none =>
  match firstReg (fun r => bitOf x.pend r.toNat && portCode x r == 0) (srcs ++ data ++ dsts) with
  | some r => .stop (park s (.pending r.toNat))
  | none =>
  match emptyPop s [] srcs with
  | some r => .stop (park s (.port (portNo r)))
  | none =>
  match fullPush s dsts with
  | some r => .stop (park s (.port (portNo r)))
  | none =>
  match firstReg (fun r => isUser x && bitOf x.poison r.toNat && portCode x r == 0) (srcs ++ data) with
  | some r => .stop (takeTrapAt s s.cur 9 (look x.gea r.toNat 0) r.toNat)
  | none =>
    let (vs, s) := readAll s (srcs ++ data)
    .ok vs s

/-- An instruction over its operands. -/
def withOps (s : State) (srcs data dsts : List GReg) (k : List Word → State → Result) : Result :=
  match readOperands s srcs data dsts with
  | .ok vs s => k vs s
  | .stop s => .next s

/-- The n-th operand value. -/
def opnd (vs : List Word) (n : Nat) : Word := vs.getD n 0

/-- The instruction ends by a result available to the next one (R90). -/
def retire1 (s : State) (d : GReg) (v : Word) : Result := .next (advance (writeG s d v))

/-- g[d] := f(g[a], g[b]). -/
def alu2 (s : State) (d a b : GReg) (f : Word → Word → Word) : Result :=
  withOps s [a, b] [] [d] fun vs s => retire1 s d (f (opnd vs 0) (opnd vs 1))

/-- g[d] := f(g[a]). -/
def alu1 (s : State) (d a : GReg) (f : Word → Word) : Result :=
  withOps s [a] [] [d] fun vs s => retire1 s d (f (opnd vs 0))

/-- g[d] := v. -/
def alu0 (s : State) (d : GReg) (v : Word) : Result :=
  withOps s [] [] [d] fun _ s => retire1 s d v

/-- A branch: taken when f(g[a], g[b]), to its own address + 2 × disp (R37, R139). -/
def branch2 (s : State) (a b : GReg) (disp : Int) (f : Word → Word → Bool) : Result :=
  withOps s [a, b] [] [] fun vs s =>
    if f (opnd vs 0) (opnd vs 1) then .next (jumpTo s ((me s).pc + trunc64 (2 * disp))) else .next (advance s)

/-- The privilege trap: code 4, TRAPADDR 0 (R127, R423). -/
def privTrap (s : State) : Result := .next (takeTrap s 4 0)

/-- The effective address of a page-0 memory instruction: g[a] + imm × unit (R36, R142). -/
def effAddr (base : Word) (off : Int) (unit : Nat) : Word := base + trunc64 (off * unit)

/-- The checks of R142 for the acting slot: alignment to `unit`, then the address, the window and the translation. -/
def checkAccess (s : State) (unit : Nat) (n : Need) (ea : Word) : Access × State :=
  if ea.toNat % unit ≠ 0 then (.trap 6, s)
  else checkAddr s (myCore s) (me s).prodid (me s).sup (isUser (me s)) n ea

/-- A walk that met a poisoned line writes a record of kind 2 (R437). -/
def walkRecord (s : State) (ea : Word) : State := walkRecordAt s s.cur ea

/-- The trap of a failed check (R142, R437). -/
def accessTrap (s : State) (cause : Nat) (ea : Word) : State :=
  takeTrap (if cause = 8 then walkRecord s ea else s) cause ea

/-- An instruction over a checked access: a failed check traps with TRAPADDR := EA, a migrating page parks (R142, R346).
Either leaves the operands as `back` had them, so that no pop is lost. -/
def withAccess (back s : State) (unit : Nat) (n : Need) (ea : Word) (k : Loc → Word → State → Result) : Result :=
  match checkAccess s unit n ea with
  | (.ok l leaf, s) => if acqWaits s s.cur then .next (park back (.entry ea)) else k l leaf s
  | (.trap cause, _) => .next (accessTrap back cause ea)
  | (.migrating, _) => .next (park back (.migrating ea (cycleOf back (myCore back) + 256)))

end Sys2Proof.Machine
end

