-- ==== Sys2Proof/Machine/Flags.lean ====
section
/-! DEFINITION. FFLAGS and the rounding a scalar or a vector instruction runs under (03 R67 to R78; 05 R151; 06 R171). -/

namespace Sys2Proof.Machine

/-- Flags of a scalar instruction join FFLAGS as it completes (R72, R73). -/
def raiseFlags (s : State) (f : BitVec 6) : State := setMe s (addFlags (me s) f)

/-- Scalar rounding: FRM, with SR as RNE; FTZ never applies (R67, R76, R77). -/
def scalarRounding (x : Slot) : Rounding := ⟨noSr (rmode x.frm.toNat), false, false, fmtMin fp64⟩

/-- The width a format code fixes; none for int and uint (R61). -/
def fmtSew (code : Nat) : Option Nat :=
  match code with
  | 2 => some 16 | 3 => some 32 | 4 => some 64 | 5 => some 16 | 6 => some 8 | 7 => some 8
  | 8 => some 4 | 9 => some 8 | 10 => some 4 | 11 => some 8
  | _ => none

/-- Whether a value is a valid VTYPE (R172). -/
def vtypeValid (t : Word) : Bool :=
  fld t 20 44 == 0 && fld t 7 2 == 0 && fld t 0 3 != 7 && decide (fld t 3 4 ≤ 11) && decide (fld t 15 3 ≤ 5) &&
  decide (fld t 11 4 ≤ 8) &&
  (match fmtSew (fld t 3 4) with
   | some w => 2 ^ fld t 0 3 == w
   | none => true)

/-- Vector rounding under VTYPE, the computation format binary64 or binary32 (R76). -/
def vectorRounding (t : BitVec 20) (wide : Bool) : Rounding :=
  ⟨vtMode t, vtSat t, vtFtz t, if wide then fmtMin fp64 else fmtMin fp32⟩

/-- A scalar binary64 result: rounded under FRM, its flags joined (R224). -/
def scalarFp (s : State) (d : GReg) (r : Num × BitVec 6) : Result :=
  let (p, st) := encNum fp64 (scalarRounding (me s)) r.1 ⟨0, 1⟩
  retire1 (raiseFlags s (st.flags ||| r.2)) d (BitVec.ofNat 64 p)

end Sys2Proof.Machine
end

