-- ==== Sys2Proof/Machine/Scalar.lean ====
section
/-! DEFINITION. Page 0's integer, immediate and branch instructions (05 R133 to R141), one meaning each. -/

namespace Sys2Proof.Machine

/-- ADD (R133). -/
def execAdd (d a b : GReg) (s : State) : Result := alu2 s d a b fun x y => x + y
/-- SUB (R133). -/
def execSub (d a b : GReg) (s : State) : Result := alu2 s d a b fun x y => x - y
/-- AND (R133). -/
def execAnd (d a b : GReg) (s : State) : Result := alu2 s d a b fun x y => x &&& y
/-- OR (R133). -/
def execOr (d a b : GReg) (s : State) : Result := alu2 s d a b fun x y => x ||| y
/-- XOR (R133). -/
def execXor (d a b : GReg) (s : State) : Result := alu2 s d a b fun x y => x ^^^ y
/-- ANDN (R133). -/
def execAndn (d a b : GReg) (s : State) : Result := alu2 s d a b fun x y => x &&& ~~~y
/-- SLL: shifts ignore g[b][63:6] (R133). -/
def execSll (d a b : GReg) (s : State) : Result := alu2 s d a b fun x y => x <<< (y.toNat % 64)
/-- SRL (R133). -/
def execSrl (d a b : GReg) (s : State) : Result := alu2 s d a b fun x y => x >>> (y.toNat % 64)
/-- SRA: rounds toward −∞ (R133). -/
def execSra (d a b : GReg) (s : State) : Result := alu2 s d a b fun x y => x.sshiftRight (y.toNat % 64)
/-- ROL (R133). -/
def execRol (d a b : GReg) (s : State) : Result := alu2 s d a b fun x y => x.rotateLeft (y.toNat % 64)
/-- SLT (R133). -/
def execSlt (d a b : GReg) (s : State) : Result := alu2 s d a b fun x y => if x.slt y then 1 else 0
/-- SLTU (R133). -/
def execSltu (d a b : GReg) (s : State) : Result := alu2 s d a b fun x y => if x.ult y then 1 else 0
/-- MIN: signed (R133). -/
def execMin (d a b : GReg) (s : State) : Result := alu2 s d a b fun x y => if x.sle y then x else y
/-- MAX: signed (R133). -/
def execMax (d a b : GReg) (s : State) : Result := alu2 s d a b fun x y => if x.sle y then y else x
/-- MINU (R133). -/
def execMinu (d a b : GReg) (s : State) : Result := alu2 s d a b fun x y => if x.ule y then x else y
/-- MAXU (R133). -/
def execMaxu (d a b : GReg) (s : State) : Result := alu2 s d a b fun x y => if x.ule y then y else x
/-- MUL (R133). -/
def execMul (d a b : GReg) (s : State) : Result := alu2 s d a b fun x y => x * y
/-- MULH: bits 127 to 64 of the signed product (R133). -/
def execMulh (d a b : GReg) (s : State) : Result :=
  alu2 s d a b fun x y => BitVec.ofInt 64 (x.toInt * y.toInt / 2 ^ 64)
/-- MULHU: bits 127 to 64 of the unsigned product (R133). -/
def execMulhu (d a b : GReg) (s : State) : Result :=
  alu2 s d a b fun x y => BitVec.ofNat 64 (x.toNat * y.toNat / 2 ^ 64)
/-- CMOV: g[d] is a source, whatever g[b] is (R133). -/
def execCmov (d a b : GReg) (s : State) : Result :=
  withOps s [a, b] [d] [d] fun vs s => retire1 s d (if opnd vs 1 = 0 then opnd vs 2 else opnd vs 0)

/-- DIV: by zero all ones; toward zero; −2^63 by −1 gives itself (R134). -/
def execDiv (d a b : GReg) (s : State) : Result :=
  alu2 s d a b fun x y => if y = 0 then BitVec.allOnes 64 else BitVec.ofInt 64 (x.toInt.tdiv y.toInt)
/-- DIVU (R134). -/
def execDivu (d a b : GReg) (s : State) : Result :=
  alu2 s d a b fun x y => if y = 0 then BitVec.allOnes 64 else BitVec.ofNat 64 (x.toNat / y.toNat)
/-- REM: by zero the dividend; the sign follows the dividend (R134). -/
def execRem (d a b : GReg) (s : State) : Result :=
  alu2 s d a b fun x y => if y = 0 then x else BitVec.ofInt 64 (x.toInt.tmod y.toInt)
/-- REMU (R134). -/
def execRemu (d a b : GReg) (s : State) : Result :=
  alu2 s d a b fun x y => if y = 0 then x else BitVec.ofNat 64 (x.toNat % y.toNat)

/-- Zero bits above the highest 1 among the low `n` bits. -/
def clzNat (n x : Nat) : Nat :=
  match n with
  | 0 => 0
  | n + 1 => if x.testBit n then 0 else clzNat n x + 1
/-- Zero bits below the lowest 1 from bit `i`, among `n` bits. -/
def ctzNat (n i x : Nat) : Nat :=
  match n with
  | 0 => 0
  | n + 1 => if x.testBit i then 0 else ctzNat n (i + 1) x + 1
/-- 1 bits among the low `n`. -/
def popNat (n x : Nat) : Nat :=
  match n with
  | 0 => 0
  | n + 1 => (if x.testBit n then 1 else 0) + popNat n x

/-- CLZ (R135). -/
def execClz (d a : GReg) (s : State) : Result := alu1 s d a fun x => BitVec.ofNat 64 (clzNat 64 x.toNat)
/-- CTZ (R135). -/
def execCtz (d a : GReg) (s : State) : Result := alu1 s d a fun x => BitVec.ofNat 64 (ctzNat 64 0 x.toNat)
/-- POPC (R135). -/
def execPopc (d a : GReg) (s : State) : Result := alu1 s d a fun x => BitVec.ofNat 64 (popNat 64 x.toNat)
/-- BSWAP (R135). -/
def execBswap (d a : GReg) (s : State) : Result :=
  alu1 s d a fun x => BitVec.ofNat 64 (leNat (leBytes 8 x.toNat).reverse)
/-- SEXTB (R135). -/
def execSextb (d a : GReg) (s : State) : Result := alu1 s d a fun x => (x.setWidth 8).signExtend 64
/-- SEXTH (R135). -/
def execSexth (d a : GReg) (s : State) : Result := alu1 s d a fun x => (x.setWidth 16).signExtend 64
/-- SEXTW (R135). -/
def execSextw (d a : GReg) (s : State) : Result := alu1 s d a fun x => (x.setWidth 32).signExtend 64

/-- JALR: an odd target traps at the jump and leaves g[d]; the target is read before the link is written (R32, R141). -/
def execJalr (d a : GReg) (s : State) : Result :=
  withOps s [a] [] [d] fun vs s' =>
    let t := opnd vs 0
    if bitOf t 0 then .next (takeTrap s 5 t)
    else .next (jumpTo (writeG s' d (nextPc s)) t)

/-- ADDI (R136). -/
def execAddi (d a : GReg) (imm : Int) (s : State) : Result := alu1 s d a fun x => x + trunc64 imm
/-- ANDI (R136). -/
def execAndi (d a : GReg) (imm : Int) (s : State) : Result := alu1 s d a fun x => x &&& trunc64 imm
/-- ORI (R136). -/
def execOri (d a : GReg) (imm : Int) (s : State) : Result := alu1 s d a fun x => x ||| trunc64 imm
/-- XORI (R136). -/
def execXori (d a : GReg) (imm : Int) (s : State) : Result := alu1 s d a fun x => x ^^^ trunc64 imm
/-- SLLI (R136). -/
def execSlli (d a : GReg) (sh : BitVec 6) (s : State) : Result := alu1 s d a fun x => x <<< sh.toNat
/-- SRLI (R136). -/
def execSrli (d a : GReg) (sh : BitVec 6) (s : State) : Result := alu1 s d a fun x => x >>> sh.toNat
/-- SRAI (R136). -/
def execSrai (d a : GReg) (sh : BitVec 6) (s : State) : Result := alu1 s d a fun x => x.sshiftRight sh.toNat
/-- LEA (R137). -/
def execLea (d a b : GReg) (sh : BitVec 2) (s : State) : Result := alu2 s d a b fun x y => x + y <<< sh.toNat
/-- LI (R138). -/
def execLi (d : GReg) (imm : Int) (s : State) : Result := alu0 s d (trunc64 imm)
/-- LIH: the upper half replaced; g[d] is a source (R138). -/
def execLih (d : GReg) (imm : Int) (s : State) : Result :=
  withOps s [] [d] [d] fun vs s =>
    retire1 s d ((trunc64 imm).setWidth 32 ++ (opnd vs 0).setWidth 32)

/-- BEQ (R139). -/
def execBeq (a b : GReg) (disp : Int) (s : State) : Result := branch2 s a b disp fun x y => x == y
/-- BNE (R139). -/
def execBne (a b : GReg) (disp : Int) (s : State) : Result := branch2 s a b disp fun x y => x != y
/-- BLT (R139). -/
def execBlt (a b : GReg) (disp : Int) (s : State) : Result := branch2 s a b disp fun x y => x.slt y
/-- BGE (R139). -/
def execBge (a b : GReg) (disp : Int) (s : State) : Result := branch2 s a b disp fun x y => !x.slt y
/-- BLTU (R139). -/
def execBltu (a b : GReg) (disp : Int) (s : State) : Result := branch2 s a b disp fun x y => x.ult y
/-- BGEU (R139). -/
def execBgeu (a b : GReg) (disp : Int) (s : State) : Result := branch2 s a b disp fun x y => !x.ult y
/-- J (R140). -/
def execJ (disp : Int) (s : State) : Result := .next (jumpTo s ((me s).pc + trunc64 (2 * disp)))
/-- JAL: the link in g1 (R140). -/
def execJal (disp : Int) (s : State) : Result :=
  withOps s [] [] [1] fun _ s => .next (jumpTo (writeG s 1 (nextPc s)) ((me s).pc + trunc64 (2 * disp)))

end Sys2Proof.Machine
end

