-- ==== Sys2Proof/WellFormed.lean ====
section
/-! DEFINITION. Which terms of Instr are instructions of the KR8 (02 R34 to R44; 07 R180). -/

namespace Sys2Proof

/-- With MEN = 0, MREG and MINV are zero (R42). -/
def VMask.wf (k : VMask) : Bool := k.en || (k.inv == false && k.reg == 0)

/-- The PR payload for three 5-bit register numbers (R38, R40). -/
def prBits (d a b : BitVec 5) : BitVec 9 :=
  d.extractLsb' 3 2 ++ a.extractLsb' 3 2 ++ b.extractLsb' 3 2 ++ (0 : BitVec 3)

/-- Whether `k` PX words widen a base field of `n` bits enough for `imm` (R36). -/
def fitsPx (n k : Nat) (imm : Int) : Bool :=
  decide (-(2 ^ (n + 9 * k - 1) : Int) ≤ imm) && decide (imm < (2 ^ (n + 9 * k - 1) : Int))

/-- Whether an immediate fits beside the PR word its registers need, on page 0 (R36, R39, R55). -/
def fits (n : Nat) (pr : BitVec 9) (imm : Int) : Bool := fitsPx n (if pr = 0 then 4 else 3) imm

/-- Whether a resource instance exists: a class that is charged, its number, and the cluster that R442 names for it, that of
its core or cluster 0 of its die (R16, R441, R442). -/
def resourceWf (r : Resource) : Bool :=
  if r.cls = 0 then decide (r.inst < 65536) && r.cluster == r.inst / 64 / 4
  else if r.cls = 4 then decide (r.inst < 10485760) && r.cluster == r.inst / 10240 / 4
  else decide (r.cls ≤ 3) && decide (r.cluster < 256) && r.cluster % 32 == 0 && (r.cls != 1 || r.inst / 2 ^ 30 == r.cluster / 32)

/-- Whether a packet is one of KIND `kind`, each field in its width (R456). -/
def packetWf (kind : Nat) (p : Packet) : Bool :=
  p.kind == kind && decide (p.conn < 2 ^ 16) && decide (p.psn < 2 ^ 32) && decide (p.ackpsn < 2 ^ 32) && decide (p.win < 256) &&
  decide (p.key < 2 ^ 16) && decide (p.offset < 2 ^ 48) && decide (p.len ≤ 4096) && decide (p.tag < 2 ^ 32) &&
  decide (p.status < 2 ^ 32)

/-- Whether an encoding or, for an event, an agent exists for the term: every operand is in the range the formats of R34
to R44 give it, the prefixes number at most four (R39), and an event names an agent of R16, R25. -/
def Instr.wf : Instr → Bool
  | .add _ _ _ => true
  | .sub _ _ _ => true
  | .and _ _ _ => true
  | .or _ _ _ => true
  | .xor _ _ _ => true
  | .andn _ _ _ => true
  | .sll _ _ _ => true
  | .srl _ _ _ => true
  | .sra _ _ _ => true
  | .rol _ _ _ => true
  | .slt _ _ _ => true
  | .sltu _ _ _ => true
  | .min _ _ _ => true
  | .max _ _ _ => true
  | .minu _ _ _ => true
  | .maxu _ _ _ => true
  | .mul _ _ _ => true
  | .mulh _ _ _ => true
  | .mulhu _ _ _ => true
  | .cmov _ _ _ => true
  | .div _ _ _ => true
  | .divu _ _ _ => true
  | .rem _ _ _ => true
  | .remu _ _ _ => true
  | .clz _ _ => true
  | .ctz _ _ => true
  | .popc _ _ => true
  | .bswap _ _ => true
  | .sextb _ _ => true
  | .sexth _ _ => true
  | .sextw _ _ => true
  | .jalr _ _ => true
  | .addi d a imm => fits 5 (prBits d a 0) imm
  | .andi d a imm => fits 5 (prBits d a 0) imm
  | .ori d a imm => fits 5 (prBits d a 0) imm
  | .xori d a imm => fits 5 (prBits d a 0) imm
  | .slli _ _ _ => true
  | .srli _ _ _ => true
  | .srai _ _ _ => true
  | .lea _ _ _ _ => true
  | .li d imm => fits 8 (prBits d 0 0) imm
  | .lih d imm => fits 8 (prBits d 0 0) imm
  | .ldb d a off => fits 2 (prBits d a 0) off
  | .ldbu d a off => fits 2 (prBits d a 0) off
  | .ldh d a off => fits 2 (prBits d a 0) off
  | .ldhu d a off => fits 2 (prBits d a 0) off
  | .ldw d a off => fits 2 (prBits d a 0) off
  | .ldwu d a off => fits 2 (prBits d a 0) off
  | .ldd d a off => fits 2 (prBits d a 0) off
  | .stb d a off => fits 2 (prBits d a 0) off
  | .sth d a off => fits 2 (prBits d a 0) off
  | .stw d a off => fits 2 (prBits d a 0) off
  | .std d a off => fits 2 (prBits d a 0) off
  | .lacq _ _ _ _ => true
  | .srel _ _ _ _ => true
  | .fenceFull _ => true
  | .fenceAcq _ => true
  | .fenceRel _ => true
  | .fenceFlush _ => true
  | .beq a b disp => fits 5 (prBits 0 a b) disp
  | .bne a b disp => fits 5 (prBits 0 a b) disp
  | .blt a b disp => fits 5 (prBits 0 a b) disp
  | .bge a b disp => fits 5 (prBits 0 a b) disp
  | .bltu a b disp => fits 5 (prBits 0 a b) disp
  | .bgeu a b disp => fits 5 (prBits 0 a b) disp
  | .j disp => fits 11 0 disp
  | .jal disp => fits 11 0 disp
  | .mfk _ _ => true
  | .mtk _ _ => true
  | .sysNop _ => true
  | .trap _ => true
  | .brk _ => true
  | .rett _ => true
  | .yield _ => true
  | .idle _ => true
  | .wait _ _ _ _ => true
  | .cwb _ _ _ => true
  | .cinv _ _ _ => true
  | .cflush _ _ _ => true
  | .cprefetch _ _ _ => true
  | .tlbi _ _ => true
  | .tlbia _ => true
  | .tlbsync => true
  | .vset _ _ _ => true
  | .vsetk _ _ => true
  | .vadd _ _ _ k => k.wf
  | .vsub _ _ _ k => k.wf
  | .vand _ _ _ k => k.wf
  | .vor _ _ _ k => k.wf
  | .vxor _ _ _ k => k.wf
  | .vandn _ _ _ k => k.wf
  | .vmin _ _ _ k => k.wf
  | .vmax _ _ _ k => k.wf
  | .vminu _ _ _ k => k.wf
  | .vmaxu _ _ _ k => k.wf
  | .vmul _ _ _ k => k.wf
  | .vmulh _ _ _ k => k.wf
  | .vsll _ _ _ k => k.wf
  | .vsrl _ _ _ k => k.wf
  | .vsra _ _ _ k => k.wf
  | .vmulhu _ _ _ k => k.wf
  | .vsadd _ _ _ k => k.wf
  | .vssub _ _ _ k => k.wf
  | .vsaddu _ _ _ k => k.wf
  | .vssubu _ _ _ k => k.wf
  | .vmacc _ _ _ k => k.wf
  | .vnmsac _ _ _ k => k.wf
  | .vaddS _ _ _ k => k.wf
  | .vsubS _ _ _ k => k.wf
  | .vrsubS _ _ _ k => k.wf
  | .vandS _ _ _ k => k.wf
  | .vorS _ _ _ k => k.wf
  | .vxorS _ _ _ k => k.wf
  | .vminS _ _ _ k => k.wf
  | .vmaxS _ _ _ k => k.wf
  | .vsllS _ _ _ k => k.wf
  | .vsrlS _ _ _ k => k.wf
  | .vsraS _ _ _ k => k.wf
  | .vmulS _ _ _ k => k.wf
  | .vmv _ _ k => k.wf
  | .vmvS _ _ k => k.wf
  | .vid _ k => k.wf
  | .vsel _ _ _ k => k.wf && k.en
  | .vneg _ _ k => k.wf
  | .vabs _ _ k => k.wf
  | .vnot _ _ k => k.wf
  | .vpopc _ _ k => k.wf
  | .vclz _ _ k => k.wf
  | .vctz _ _ k => k.wf
  | .vsext _ _ b k => k.wf && decide (b.toNat < 6)
  | .vzext _ _ b k => k.wf && decide (b.toNat < 6)
  | .vceq _ _ _ k => k.wf
  | .vcne _ _ _ k => k.wf
  | .vclt _ _ _ k => k.wf
  | .vcltu _ _ _ k => k.wf
  | .vcle _ _ _ k => k.wf
  | .vcleu _ _ _ k => k.wf
  | .vceqS _ _ _ k => k.wf
  | .vcltS _ _ _ k => k.wf
  | .mand _ _ _ => true
  | .mor _ _ _ => true
  | .mxor _ _ _ => true
  | .mandn _ _ _ => true
  | .mnot _ _ => true
  | .mmv _ _ => true
  | .mset _ => true
  | .mclr _ => true
  | .mpopc _ _ k => k.wf
  | .mfirst _ _ k => k.wf
  | .msbf _ _ k => k.wf
  | .msif _ _ k => k.wf
  | .vslideup _ _ _ k => k.wf
  | .vslidedn _ _ _ k => k.wf
  | .vslideupS _ _ _ k => k.wf
  | .vslidednS _ _ _ k => k.wf
  | .vxchg _ _ _ k => k.wf
  | .vcompress _ _ k => k.wf && k.en
  | .vexpand _ _ k => k.wf && k.en
  | .vperm _ _ _ k => k.wf
  | .vgath8 _ _ _ k => k.wf
  | .vconflict _ _ k => k.wf
  | .vmatch _ _ _ _ k => k.wf
  | .vprobe _ _ _ k => k.wf
  | .vredsum _ _ _ k => k.wf
  | .vredmax _ _ _ k => k.wf
  | .vredmin _ _ _ k => k.wf
  | .vredmaxu _ _ _ k => k.wf
  | .vredand _ _ _ k => k.wf
  | .vredor _ _ _ k => k.wf
  | .vredxor _ _ _ k => k.wf
  | .vredminu _ _ _ k => k.wf
  | .vfadd _ _ _ k => k.wf
  | .vfsub _ _ _ k => k.wf
  | .vfmul _ _ _ k => k.wf
  | .vfdiv _ _ _ k => k.wf
  | .vfmin _ _ _ k => k.wf
  | .vfmax _ _ _ k => k.wf
  | .vfsgnj _ _ _ k => k.wf
  | .vfsqrt _ _ k => k.wf
  | .vfma _ _ _ _ k => k.wf
  | .vfms _ _ _ _ k => k.wf
  | .vfnma _ _ _ _ k => k.wf
  | .vfnms _ _ _ _ k => k.wf
  | .vfaddS _ _ _ k => k.wf
  | .vfsubS _ _ _ k => k.wf
  | .vfmulS _ _ _ k => k.wf
  | .vfrsubS _ _ _ k => k.wf
  | .vfabs _ _ k => k.wf
  | .vfneg _ _ k => k.wf
  | .vfclass _ _ k => k.wf
  | .vfround _ _ k => k.wf
  | .vfceq _ _ _ k => k.wf
  | .vfclt _ _ _ k => k.wf
  | .vfcle _ _ _ k => k.wf
  | .vfcun _ _ _ k => k.wf
  | .vfcvt _ _ _ k => k.wf
  | .vf2i _ _ _ k => k.wf
  | .vi2f _ _ _ k => k.wf
  | .vf2iT _ _ _ k => k.wf
  | .vqamax _ _ _ k => k.wf
  | .vqscale _ _ _ => true
  | .vqpack _ _ _ => true
  | .vqunpack _ _ _ k => k.wf
  | .vfwht _ _ _ => true
  | .vsfu _ _ _ k => k.wf
  | .vfredsumO _ _ _ k => k.wf
  | .vfredsumT _ _ _ k => k.wf
  | .vfredmax _ _ _ k => k.wf
  | .vfredmin _ _ _ k => k.wf
  | .vfdotO _ _ _ _ k => k.wf
  | .vhktest _ _ k => k.wf
  | .vhksel _ _ _ k => k.wf
  | .vhkcnt _ _ _ k => k.wf
  | .vtopk _ _ _ k => k.wf
  | .fadd _ _ _ => true
  | .fsub _ _ _ => true
  | .fmul _ _ _ => true
  | .fdiv _ _ _ => true
  | .fma _ _ _ => true
  | .fmin _ _ _ => true
  | .fmax _ _ _ => true
  | .fsqrt _ _ => true
  | .fceq _ _ _ => true
  | .fclt _ _ _ => true
  | .fcle _ _ _ => true
  | .fcvt _ _ _ => true
  | .f2i _ _ => true
  | .i2f _ _ => true
  | .fclass _ _ => true
  | .fabs _ _ => true
  | .fcadapt _ _ => true
  | .vld _ _ _ k => k.wf
  | .vst _ _ _ k => k.wf
  | .vlds _ _ _ k => k.wf
  | .vsts _ _ _ k => k.wf
  | .vldx _ _ _ k => k.wf
  | .vstx _ _ _ k => k.wf
  | .vldff _ _ k => k.wf
  | .vstxa _ _ _ _ k => k.wf
  | .vldw _ _ _ _ k => k.wf
  | .vldrow _ _ _ k => k.wf
  | .vstrow _ _ _ k => k.wf
  | .vamorow _ _ _ _ k => k.wf
  | .vldsync _ _ _ _ k => k.wf
  | .pload _ _ _ => true
  | .prow _ _ => true
  | .mma _ _ k => k.wf
  | .mmav _ _ k => k.wf
  | .pgang _ => true
  | .vdcfg _ => true
  | .pbnd _ _ => true
  | .ptree _ _ => true
  | .tmma _ _ _ => true
  | .tzero _ => true
  | .tld _ _ => true
  | .tst _ _ => true
  | .tacc _ _ _ => true
  | .trow _ _ _ => true
  | .fork _ _ _ => true
  | .join _ => true
  | .retire => true
  | .launch _ _ => true
  | .curtain _ _ => true
  | .curtainx _ _ _ => true
  | .prodctlQuery _ _ _ => true
  | .prodctlShare _ _ _ => true
  | .prodctlPause _ _ _ => true
  | .prodctlResume _ _ _ => true
  | .prodctlKill _ _ _ => true
  | .prodctlGrant _ _ _ => true
  | .prodctlPreempt _ _ _ => true
  | .qbind _ _ _ => true
  | .vacq _ _ => true
  | .vrel => true
  | .boost _ _ => true
  | .lde _ _ => true
  | .ldf _ _ => true
  | .stf _ _ => true
  | .ste _ _ => true
  | .feq _ _ => true
  | .fefill _ => true
  | .feclr _ => true
  | .amoadd _ _ _ _ => true
  | .amoswap _ _ _ _ => true
  | .amomax _ _ _ _ => true
  | .amomin _ _ _ _ => true
  | .amoand _ _ _ _ => true
  | .amoor _ _ _ _ => true
  | .amocas d _ _ _ => !bitOf d 0
  | .cpy _ _ _ => true
  | .cpy2d _ _ _ => true
  | .cpyg _ _ _ => true
  | .nmr _ _ _ => true
  | .coll _ _ _ => true
  | .sfu _ _ _ => true
  | .msgs _ _ _ => true
  | .dispatch c i => decide (c < 1024) && decide (i < 16)
  | .parkedRetest c i => decide (c < 1024) && decide (i < 16)
  | .yieldEnd c i => decide (c < 1024) && decide (i < 16)
  | .patienceTrap c i => decide (c < 1024) && decide (i < 16)
  | .resultArrival c i _ => decide (c < 1024) && decide (i < 16)
  | .storeDrain c i => decide (c < 1024) && decide (i < 16)
  | .trapEntry c i => decide (c < 1024) && decide (i < 16)
  | .stripStart c => decide (c < 1024)
  | .stripEnd c w => decide (c < 1024) && decide (w < 16)
  | .entryComplete c x => decide (c < 1024) && decide (x < 16384)
  | .treePass c => decide (c < 1024)
  | .tileStart c => decide (c < 1024)
  | .verdictReadReturn c x => decide (c < 1024) && decide (x < 16384)
  | .pinGrant c => decide (c < 1024)
  | .migRewalk c i => decide (c < 1024) && decide (i < 16)
  | .mergeClose q => decide (q < 256)
  | .writeNotice _ => true
  | .feRequest _ => true
  | .feRetry c i => decide (c < 1024) && decide (i < 16)
  | .curtainHome _ => true
  | .stagehandCommand c i => decide (c < 1024) && decide (i < 16)
  | .engineOperationDone c _ => decide (c < 1024)
  | .sfuBatch o => decide (o < 128)
  | .sfuResult c => decide (c < 1024)
  | .productionEnd p => decide (p < 4096)
  | .preemption c i _ => decide (c < 1024) && decide (i < 16)
  | .sealMismatch at_ r => resourceWf r && (at_ != .zeroed || r.cls == 0)
  | .errorWindowExpiry r => resourceWf r
  | .retselMark c grp => decide (c < 1024) && decide (grp < 64)
  | .stackLevelChange die stack _ => decide (die < 8) && decide (stack < 4)
  | .powerControlTick c _ => decide (c < 1024)
  | .pllRelock q _ => decide (q < 256)
  | .boostCharge q => decide (q < 256)
  | .boostRefill _ => true
  | .slackWindow phi _ => decide (phi < 1001)
  | .shelfFrame _ _ => true
  | .nextClassRestore _ => true
  | .shedDeadline cls _ => decide (cls < 4)
  | .dimmerBlind _ => true
  | .dimcurveWrite n _ => decide (n < 16)
  | .dimblindWrite _ => true
  | .resetRelease => true
  | .stageComplete _ => true
  | .stageTimeout => true
  | .mctlSvnup => true
  | .mctlReset => true
  | .attestation _ => true
  | .attestationReady => true
  | .mgmtRegisterWrite off _ => decide (off < 65536)
  | .halt => true
  | .resume => true
  | .stepOne _ => true
  | .stageDoorWrite p => packetWf 0 p
  | .stageDoorRead p => packetWf 1 p
  | .stageDoorReadresp p => packetWf 2 p
  | .stageDoorAtomic p => packetWf 3 p
  | .stageDoorMsg p => packetWf 4 p
  | .stageDoorAck p => packetWf 5 p
  | .stageDoorNack p => packetWf 6 p
  | .stageDoorColl p => packetWf 7 p
  | .collComplete _ => true
  | .retransmit conn _ => decide (conn < 64)
  | .connectionLost conn _ => decide (conn < 64)
  | .msgsBusyRetry _ _ => true
  | .roceRdmaWrite _ => true
  | .roceRdmaRead _ => true
  | .roceSend _ => true
  | .roceUnsupported _ => true
  | .invalidFrame port => decide (port < 17)
  | .rowBufferGrant c => decide (c < 1024)
  | .linkRetry r => resourceWf r && (r.cls == 2 || r.cls == 3)
  | .dynamicAddressAssignment _ => true
  | .stageDoorKindDiscarded kind => decide (8 ≤ kind.toNat)

/-- Whether the row is an event, a step that no slot issues and that has no encoding (spec/95_what_each_step_holds.md). -/
def Instr.isEvent : Instr → Bool
  | .add _ _ _ => false
  | .sub _ _ _ => false
  | .and _ _ _ => false
  | .or _ _ _ => false
  | .xor _ _ _ => false
  | .andn _ _ _ => false
  | .sll _ _ _ => false
  | .srl _ _ _ => false
  | .sra _ _ _ => false
  | .rol _ _ _ => false
  | .slt _ _ _ => false
  | .sltu _ _ _ => false
  | .min _ _ _ => false
  | .max _ _ _ => false
  | .minu _ _ _ => false
  | .maxu _ _ _ => false
  | .mul _ _ _ => false
  | .mulh _ _ _ => false
  | .mulhu _ _ _ => false
  | .cmov _ _ _ => false
  | .div _ _ _ => false
  | .divu _ _ _ => false
  | .rem _ _ _ => false
  | .remu _ _ _ => false
  | .clz _ _ => false
  | .ctz _ _ => false
  | .popc _ _ => false
  | .bswap _ _ => false
  | .sextb _ _ => false
  | .sexth _ _ => false
  | .sextw _ _ => false
  | .jalr _ _ => false
  | .addi _ _ _ => false
  | .andi _ _ _ => false
  | .ori _ _ _ => false
  | .xori _ _ _ => false
  | .slli _ _ _ => false
  | .srli _ _ _ => false
  | .srai _ _ _ => false
  | .lea _ _ _ _ => false
  | .li _ _ => false
  | .lih _ _ => false
  | .ldb _ _ _ => false
  | .ldbu _ _ _ => false
  | .ldh _ _ _ => false
  | .ldhu _ _ _ => false
  | .ldw _ _ _ => false
  | .ldwu _ _ _ => false
  | .ldd _ _ _ => false
  | .stb _ _ _ => false
  | .sth _ _ _ => false
  | .stw _ _ _ => false
  | .std _ _ _ => false
  | .lacq _ _ _ _ => false
  | .srel _ _ _ _ => false
  | .fenceFull _ => false
  | .fenceAcq _ => false
  | .fenceRel _ => false
  | .fenceFlush _ => false
  | .beq _ _ _ => false
  | .bne _ _ _ => false
  | .blt _ _ _ => false
  | .bge _ _ _ => false
  | .bltu _ _ _ => false
  | .bgeu _ _ _ => false
  | .j _ => false
  | .jal _ => false
  | .mfk _ _ => false
  | .mtk _ _ => false
  | .sysNop _ => false
  | .trap _ => false
  | .brk _ => false
  | .rett _ => false
  | .yield _ => false
  | .idle _ => false
  | .wait _ _ _ _ => false
  | .cwb _ _ _ => false
  | .cinv _ _ _ => false
  | .cflush _ _ _ => false
  | .cprefetch _ _ _ => false
  | .tlbi _ _ => false
  | .tlbia _ => false
  | .tlbsync => false
  | .vset _ _ _ => false
  | .vsetk _ _ => false
  | .vadd _ _ _ _ => false
  | .vsub _ _ _ _ => false
  | .vand _ _ _ _ => false
  | .vor _ _ _ _ => false
  | .vxor _ _ _ _ => false
  | .vandn _ _ _ _ => false
  | .vmin _ _ _ _ => false
  | .vmax _ _ _ _ => false
  | .vminu _ _ _ _ => false
  | .vmaxu _ _ _ _ => false
  | .vmul _ _ _ _ => false
  | .vmulh _ _ _ _ => false
  | .vsll _ _ _ _ => false
  | .vsrl _ _ _ _ => false
  | .vsra _ _ _ _ => false
  | .vmulhu _ _ _ _ => false
  | .vsadd _ _ _ _ => false
  | .vssub _ _ _ _ => false
  | .vsaddu _ _ _ _ => false
  | .vssubu _ _ _ _ => false
  | .vmacc _ _ _ _ => false
  | .vnmsac _ _ _ _ => false
  | .vaddS _ _ _ _ => false
  | .vsubS _ _ _ _ => false
  | .vrsubS _ _ _ _ => false
  | .vandS _ _ _ _ => false
  | .vorS _ _ _ _ => false
  | .vxorS _ _ _ _ => false
  | .vminS _ _ _ _ => false
  | .vmaxS _ _ _ _ => false
  | .vsllS _ _ _ _ => false
  | .vsrlS _ _ _ _ => false
  | .vsraS _ _ _ _ => false
  | .vmulS _ _ _ _ => false
  | .vmv _ _ _ => false
  | .vmvS _ _ _ => false
  | .vid _ _ => false
  | .vsel _ _ _ _ => false
  | .vneg _ _ _ => false
  | .vabs _ _ _ => false
  | .vnot _ _ _ => false
  | .vpopc _ _ _ => false
  | .vclz _ _ _ => false
  | .vctz _ _ _ => false
  | .vsext _ _ _ _ => false
  | .vzext _ _ _ _ => false
  | .vceq _ _ _ _ => false
  | .vcne _ _ _ _ => false
  | .vclt _ _ _ _ => false
  | .vcltu _ _ _ _ => false
  | .vcle _ _ _ _ => false
  | .vcleu _ _ _ _ => false
  | .vceqS _ _ _ _ => false
  | .vcltS _ _ _ _ => false
  | .mand _ _ _ => false
  | .mor _ _ _ => false
  | .mxor _ _ _ => false
  | .mandn _ _ _ => false
  | .mnot _ _ => false
  | .mmv _ _ => false
  | .mset _ => false
  | .mclr _ => false
  | .mpopc _ _ _ => false
  | .mfirst _ _ _ => false
  | .msbf _ _ _ => false
  | .msif _ _ _ => false
  | .vslideup _ _ _ _ => false
  | .vslidedn _ _ _ _ => false
  | .vslideupS _ _ _ _ => false
  | .vslidednS _ _ _ _ => false
  | .vxchg _ _ _ _ => false
  | .vcompress _ _ _ => false
  | .vexpand _ _ _ => false
  | .vperm _ _ _ _ => false
  | .vgath8 _ _ _ _ => false
  | .vconflict _ _ _ => false
  | .vmatch _ _ _ _ _ => false
  | .vprobe _ _ _ _ => false
  | .vredsum _ _ _ _ => false
  | .vredmax _ _ _ _ => false
  | .vredmin _ _ _ _ => false
  | .vredmaxu _ _ _ _ => false
  | .vredand _ _ _ _ => false
  | .vredor _ _ _ _ => false
  | .vredxor _ _ _ _ => false
  | .vredminu _ _ _ _ => false
  | .vfadd _ _ _ _ => false
  | .vfsub _ _ _ _ => false
  | .vfmul _ _ _ _ => false
  | .vfdiv _ _ _ _ => false
  | .vfmin _ _ _ _ => false
  | .vfmax _ _ _ _ => false
  | .vfsgnj _ _ _ _ => false
  | .vfsqrt _ _ _ => false
  | .vfma _ _ _ _ _ => false
  | .vfms _ _ _ _ _ => false
  | .vfnma _ _ _ _ _ => false
  | .vfnms _ _ _ _ _ => false
  | .vfaddS _ _ _ _ => false
  | .vfsubS _ _ _ _ => false
  | .vfmulS _ _ _ _ => false
  | .vfrsubS _ _ _ _ => false
  | .vfabs _ _ _ => false
  | .vfneg _ _ _ => false
  | .vfclass _ _ _ => false
  | .vfround _ _ _ => false
  | .vfceq _ _ _ _ => false
  | .vfclt _ _ _ _ => false
  | .vfcle _ _ _ _ => false
  | .vfcun _ _ _ _ => false
  | .vfcvt _ _ _ _ => false
  | .vf2i _ _ _ _ => false
  | .vi2f _ _ _ _ => false
  | .vf2iT _ _ _ _ => false
  | .vqamax _ _ _ _ => false
  | .vqscale _ _ _ => false
  | .vqpack _ _ _ => false
  | .vqunpack _ _ _ _ => false
  | .vfwht _ _ _ => false
  | .vsfu _ _ _ _ => false
  | .vfredsumO _ _ _ _ => false
  | .vfredsumT _ _ _ _ => false
  | .vfredmax _ _ _ _ => false
  | .vfredmin _ _ _ _ => false
  | .vfdotO _ _ _ _ _ => false
  | .vhktest _ _ _ => false
  | .vhksel _ _ _ _ => false
  | .vhkcnt _ _ _ _ => false
  | .vtopk _ _ _ _ => false
  | .fadd _ _ _ => false
  | .fsub _ _ _ => false
  | .fmul _ _ _ => false
  | .fdiv _ _ _ => false
  | .fma _ _ _ => false
  | .fmin _ _ _ => false
  | .fmax _ _ _ => false
  | .fsqrt _ _ => false
  | .fceq _ _ _ => false
  | .fclt _ _ _ => false
  | .fcle _ _ _ => false
  | .fcvt _ _ _ => false
  | .f2i _ _ => false
  | .i2f _ _ => false
  | .fclass _ _ => false
  | .fabs _ _ => false
  | .fcadapt _ _ => false
  | .vld _ _ _ _ => false
  | .vst _ _ _ _ => false
  | .vlds _ _ _ _ => false
  | .vsts _ _ _ _ => false
  | .vldx _ _ _ _ => false
  | .vstx _ _ _ _ => false
  | .vldff _ _ _ => false
  | .vstxa _ _ _ _ _ => false
  | .vldw _ _ _ _ _ => false
  | .vldrow _ _ _ _ => false
  | .vstrow _ _ _ _ => false
  | .vamorow _ _ _ _ _ => false
  | .vldsync _ _ _ _ _ => false
  | .pload _ _ _ => false
  | .prow _ _ => false
  | .mma _ _ _ => false
  | .mmav _ _ _ => false
  | .pgang _ => false
  | .vdcfg _ => false
  | .pbnd _ _ => false
  | .ptree _ _ => false
  | .tmma _ _ _ => false
  | .tzero _ => false
  | .tld _ _ => false
  | .tst _ _ => false
  | .tacc _ _ _ => false
  | .trow _ _ _ => false
  | .fork _ _ _ => false
  | .join _ => false
  | .retire => false
  | .launch _ _ => false
  | .curtain _ _ => false
  | .curtainx _ _ _ => false
  | .prodctlQuery _ _ _ => false
  | .prodctlShare _ _ _ => false
  | .prodctlPause _ _ _ => false
  | .prodctlResume _ _ _ => false
  | .prodctlKill _ _ _ => false
  | .prodctlGrant _ _ _ => false
  | .prodctlPreempt _ _ _ => false
  | .qbind _ _ _ => false
  | .vacq _ _ => false
  | .vrel => false
  | .boost _ _ => false
  | .lde _ _ => false
  | .ldf _ _ => false
  | .stf _ _ => false
  | .ste _ _ => false
  | .feq _ _ => false
  | .fefill _ => false
  | .feclr _ => false
  | .amoadd _ _ _ _ => false
  | .amoswap _ _ _ _ => false
  | .amomax _ _ _ _ => false
  | .amomin _ _ _ _ => false
  | .amoand _ _ _ _ => false
  | .amoor _ _ _ _ => false
  | .amocas _ _ _ _ => false
  | .cpy _ _ _ => false
  | .cpy2d _ _ _ => false
  | .cpyg _ _ _ => false
  | .nmr _ _ _ => false
  | .coll _ _ _ => false
  | .sfu _ _ _ => false
  | .msgs _ _ _ => false
  | .dispatch _ _ => true
  | .parkedRetest _ _ => true
  | .yieldEnd _ _ => true
  | .patienceTrap _ _ => true
  | .resultArrival _ _ _ => true
  | .storeDrain _ _ => true
  | .trapEntry _ _ => true
  | .stripStart _ => true
  | .stripEnd _ _ => true
  | .entryComplete _ _ => true
  | .treePass _ => true
  | .tileStart _ => true
  | .verdictReadReturn _ _ => true
  | .pinGrant _ => true
  | .migRewalk _ _ => true
  | .mergeClose _ => true
  | .writeNotice _ => true
  | .feRequest _ => true
  | .feRetry _ _ => true
  | .curtainHome _ => true
  | .stagehandCommand _ _ => true
  | .engineOperationDone _ _ => true
  | .sfuBatch _ => true
  | .sfuResult _ => true
  | .productionEnd _ => true
  | .preemption _ _ _ => true
  | .sealMismatch _ _ => true
  | .errorWindowExpiry _ => true
  | .retselMark _ _ => true
  | .stackLevelChange _ _ _ => true
  | .powerControlTick _ _ => true
  | .pllRelock _ _ => true
  | .boostCharge _ => true
  | .boostRefill _ => true
  | .slackWindow _ _ => true
  | .shelfFrame _ _ => true
  | .nextClassRestore _ => true
  | .shedDeadline _ _ => true
  | .dimmerBlind _ => true
  | .dimcurveWrite _ _ => true
  | .dimblindWrite _ => true
  | .resetRelease => true
  | .stageComplete _ => true
  | .stageTimeout => true
  | .mctlSvnup => true
  | .mctlReset => true
  | .attestation _ => true
  | .attestationReady => true
  | .mgmtRegisterWrite _ _ => true
  | .halt => true
  | .resume => true
  | .stepOne _ => true
  | .stageDoorWrite _ => true
  | .stageDoorRead _ => true
  | .stageDoorReadresp _ => true
  | .stageDoorAtomic _ => true
  | .stageDoorMsg _ => true
  | .stageDoorAck _ => true
  | .stageDoorNack _ => true
  | .stageDoorColl _ => true
  | .collComplete _ => true
  | .retransmit _ _ => true
  | .connectionLost _ _ => true
  | .msgsBusyRetry _ _ => true
  | .roceRdmaWrite _ => true
  | .roceRdmaRead _ => true
  | .roceSend _ => true
  | .roceUnsupported _ => true
  | .invalidFrame _ => true
  | .rowBufferGrant _ => true
  | .linkRetry _ => true
  | .dynamicAddressAssignment _ => true
  | .stageDoorKindDiscarded _ => true

end Sys2Proof
end

