-- ==== Sys2Proof/Decode.lean ====
section
/-! DEFINITION. The decoder of the KR8's 16-bit words, total on any words and rejecting by name (02 R29 to R52), and the
encoder written from the same tables. -/

namespace Sys2Proof

/-- The prefix words read so far (R38, R39): the PX payloads in fetch order, and the payloads of PR, PP and PM. -/
structure Prefixes where
  px : List (BitVec 9)
  pr : Option (BitVec 9)
  pp : Option (BitVec 9)
  pm : Option (BitVec 9)
  deriving DecidableEq, Repr

/-- How a register field of an F3 or FV word is read (R35, R40): five bits with its PR pair; three bits, the pair 0b00;
a source width's code, 0 to 5, the pair 0b00 (R180); zero, the pair 0b00; or ignored with its pair (R154). -/
inductive FieldKind where
  | wide | narrow | width | zero | ignored
  deriving DecidableEq, Repr

/-- What R42 and R180 let PM do: no PM; optional mask; mask with MEN = 1; fourth operand c, PM then required. -/
inductive MaskKind where
  | no | opt | req | fourth
  deriving DecidableEq, Repr

/-- The fields of one F3 or FV instruction (R34). -/
structure F3Shape where
  d : FieldKind
  a : FieldKind
  b : FieldKind
  mask : MaskKind
  deriving DecidableEq, Repr

/-- What the decoder makes of words read in fetch order (R43). A number k names the word, counted from 0. -/
inductive Decoded where
  /-- instruction `i`, of `n` words -/
  | ok (i : Instr) (n : Nat)
  /-- word `k` is a fifth prefix, or a second PR, PP or PM: illegal format -/
  | illegalFormat (k : Nat)
  /-- the encoding whose base word is word `k` is none of R44's instructions: illegal instruction -/
  | illegalInstruction (k : Nat)
  /-- no base word among the words given -/
  | short
  deriving DecidableEq, Repr

/-- No prefix read. -/
def noPrefixes : Prefixes := ⟨[], none, none, none⟩

/-- How many prefix words have been read. -/
def prefixCount (p : Prefixes) : Nat :=
  p.px.length + p.pr.toList.length + p.pp.toList.length + p.pm.toList.length

/-- A word whose major opcode is 31 is a prefix word (R29). -/
def isPrefixWord (w : Half) : Bool := fld w 11 5 == 31

/-- Reading one more prefix word; none where R43 raises illegal format on it. -/
def addPrefix (p : Prefixes) (w : Half) : Option Prefixes :=
  let v : BitVec 9 := w.setWidth 9
  if prefixCount p ≥ 4 then none else
  match fld w 9 2 with
  | 0 => some { p with px := p.px ++ [v] }
  | 1 => if p.pr.isNone then some { p with pr := some v } else none
  | 2 => if p.pp.isNone then some { p with pp := some v } else none
  | _ => if p.pm.isNone then some { p with pm := some v } else none

/-- The payload of PR, zero without one (R38). -/
def prOf (p : Prefixes) : BitVec 9 := p.pr.getD 0
/-- HD, HA and HB (R38). -/
def hdOf (p : Prefixes) : BitVec 2 := (prOf p).extractLsb' 7 2
/-- HA (R38). -/
def haOf (p : Prefixes) : BitVec 2 := (prOf p).extractLsb' 5 2
/-- HB (R38). -/
def hbOf (p : Prefixes) : BitVec 2 := (prOf p).extractLsb' 3 2
/-- ZERO of PR (R38). -/
def prZero (p : Prefixes) : Bool := (prOf p).extractLsb' 0 3 == 0

/-- Bits [10:8] (R34). -/
def dBits (w : Half) : BitVec 3 := w.extractLsb' 8 3
/-- Bits [7:5] (R34). -/
def aBits (w : Half) : BitVec 3 := w.extractLsb' 5 3
/-- Bits [4:2] (R34). -/
def bBits (w : Half) : BitVec 3 := w.extractLsb' 2 3
/-- Bits [1:0] (R34). -/
def minorOf (w : Half) : BitVec 2 := w.extractLsb' 0 2

/-- One register field with its PR pair (R35, R40). -/
def readField (k : FieldKind) (hi : BitVec 2) (lo : BitVec 3) : Option (BitVec 5) :=
  match k with
  | .wide => some (hi ++ lo)
  | .narrow => if hi = 0 then some (hi ++ lo) else none
  | .width => if hi = 0 ∧ lo < 6 then some (hi ++ lo) else none
  | .zero => if hi = 0 ∧ lo = 0 then some 0 else none
  | .ignored => some 0

/-- The mask operand in a PM payload (R42). -/
def readMask (x : BitVec 9) : Option VMask :=
  let k : VMask := ⟨bitOf x 5, bitOf x 4, x.extractLsb' 6 3⟩
  if k.wf then some k else none

/-- C of a PM payload (R38). -/
def cBits (x : BitVec 9) : BitVec 4 := x.setWidth 4

/-- The fourth operand and the mask of an instruction (R42, R180). -/
def readPm (k : MaskKind) (pm : Option (BitVec 9)) : Option (BitVec 4 × VMask) :=
  match k, pm with
  | .no, none => some (0, VMask.all)
  | .no, some _ => none
  | .opt, none => some (0, VMask.all)
  | .opt, some x => if cBits x = 0 then (readMask x).map fun m => (0, m) else none
  | .req, none => none
  | .req, some x => if cBits x = 0 then (readMask x).bind fun m => if m.en then some (0, m) else none else none
  | .fourth, none => none
  | .fourth, some x => (readMask x).map fun m => (cBits x, m)

/-- The operands of an F3 or FV word (R34, R40, R42); PX is not accepted (R44). -/
def readF3 (sh : F3Shape) (p : Prefixes) (w : Half) : Option F3Fields :=
  if p.px = [] ∧ prZero p then do
    let d ← readField sh.d (hdOf p) (dBits w)
    let a ← readField sh.a (haOf p) (aBits w)
    let b ← readField sh.b (hbOf p) (bBits w)
    let (c, k) ← readPm sh.mask p.pm
    return ⟨d, a, b, c, k⟩
  else none

/-- An immediate of a base field of `n` bits holding `v`, widened by the PX payloads and sign-extended (R36). -/
def widenImm (n v : Nat) (px : List (BitVec 9)) : Int :=
  let raw := px.foldl (fun acc x => acc * 512 + x.toNat) 0 * 2 ^ n + v
  let m := n + 9 * px.length
  if raw < 2 ^ (m - 1) then raw else (raw : Int) - 2 ^ m

/-- An FI word: d, a and the immediate (R34, R36). -/
def readFI (p : Prefixes) (w : Half) : Option (GReg × GReg × Int) :=
  if p.pm = none ∧ prZero p ∧ hbOf p = 0 then
    some (hdOf p ++ dBits w, haOf p ++ aBits w, widenImm 5 (fld w 0 5) p.px)
  else none

/-- An FW word: d and the immediate (R34, R36). -/
def readFW (p : Prefixes) (w : Half) : Option (GReg × Int) :=
  if p.pm = none ∧ prZero p ∧ haOf p = 0 ∧ hbOf p = 0 then
    some (hdOf p ++ dBits w, widenImm 8 (fld w 0 8) p.px)
  else none

/-- An FM word: d, a, the size code and the offset in units (R34 to R36). -/
def readFM (p : Prefixes) (w : Half) : Option (GReg × GReg × Nat × Int) :=
  if p.pm = none ∧ prZero p ∧ hbOf p = 0 then
    some (hdOf p ++ dBits w, haOf p ++ aBits w, fld w 2 3, widenImm 2 (fld w 0 2) p.px)
  else none

/-- An FS word: d, a, scope and size (R34, R35). -/
def readFS (p : Prefixes) (w : Half) : Option (GReg × GReg × Scope × Size) :=
  if p.pm = none ∧ p.px = [] ∧ prZero p ∧ hbOf p = 0 then
    (Scope.ofCode (bBits w)).map fun s => (hdOf p ++ dBits w, haOf p ++ aBits w, s, Size.ofCode (minorOf w))
  else none

/-- A fence: its scope and its kind code; d and a are zero (R44, R46). -/
def readFence (p : Prefixes) (w : Half) : Option (Scope × Nat) :=
  (readFS p w).bind fun (d, a, s, _) => if d = 0 ∧ a = 0 then some (s, fld w 0 2) else none

/-- An FB word: a, b and the displacement in halfwords (R34, R37). -/
def readFB (p : Prefixes) (w : Half) : Option (GReg × GReg × Int) :=
  if p.pm = none ∧ prZero p ∧ hdOf p = 0 then
    some (haOf p ++ dBits w, hbOf p ++ aBits w, widenImm 5 (fld w 0 5) p.px)
  else none

/-- An FJ word: the displacement in halfwords; PR is not accepted (R37, R40). -/
def readFJ (p : Prefixes) (w : Half) : Option Int :=
  if p.pm = none ∧ p.pr = none then some (widenImm 11 (fld w 0 11) p.px) else none

/-- mfk and mtk: g register and control-space index; PX is not accepted (R36). -/
def readFK (p : Prefixes) (w : Half) : Option (GReg × BitVec 8) :=
  if p.pm = none ∧ p.px = [] ∧ prZero p ∧ haOf p = 0 ∧ hbOf p = 0 then
    some (hdOf p ++ dBits w, w.setWidth 8)
  else none

/-- sys: its function and imm8 (R36, R47). -/
def readSys (p : Prefixes) (w : Half) : Option (Nat × BitVec 8) :=
  if p.pm = none ∧ p.px = [] ∧ p.pr = none then some (fld w 8 3, w.setWidth 8) else none

/-- wait: exactly one PX, fn = 0 and immediate bit 16 clear (R44, R47). -/
def readWait (p : Prefixes) (w : Half) : Option Instr :=
  match p.px with
  | [x] =>
    if p.pm = none ∧ p.pr = none ∧ fld w 8 3 = 0 ∧ bitOf x 8 = false then
      some (.wait (x.extractLsb' 4 4) (x.extractLsb' 0 4) (w.extractLsb' 4 4) (w.extractLsb' 0 4))
    else none
  | _ => none

/-- Fields of R40 and R42: NNN. -/
def f3NNN : F3Shape := ⟨.narrow, .narrow, .narrow, .no⟩
/-- Fields of R40 and R42: NNZ. -/
def f3NNZ : F3Shape := ⟨.narrow, .narrow, .zero, .no⟩
/-- Fields of R40 and R42: NNZ. -/
def f3NNZOpt : F3Shape := ⟨.narrow, .narrow, .zero, .opt⟩
/-- Fields of R40 and R42: NWW. -/
def f3NWW : F3Shape := ⟨.narrow, .wide, .wide, .no⟩
/-- Fields of R40 and R42: NWW. -/
def f3NWWFourth : F3Shape := ⟨.narrow, .wide, .wide, .fourth⟩
/-- Fields of R40 and R42: NWW. -/
def f3NWWOpt : F3Shape := ⟨.narrow, .wide, .wide, .opt⟩
/-- Fields of R40 and R42: NWZ. -/
def f3NWZ : F3Shape := ⟨.narrow, .wide, .zero, .no⟩
/-- Fields of R40 and R42: NWZ. -/
def f3NWZOpt : F3Shape := ⟨.narrow, .wide, .zero, .opt⟩
/-- Fields of R40 and R42: NZZ. -/
def f3NZZ : F3Shape := ⟨.narrow, .zero, .zero, .no⟩
/-- Fields of R40 and R42: WNZ. -/
def f3WNZOpt : F3Shape := ⟨.wide, .narrow, .zero, .opt⟩
/-- Fields of R40 and R42: WWN. -/
def f3WWNOpt : F3Shape := ⟨.wide, .wide, .narrow, .opt⟩
/-- Fields of R40, R42 and R180: two registers and the code of a source width. -/
def f3WWWidth : F3Shape := ⟨.wide, .wide, .width, .opt⟩
/-- Fields of R40 and R42: WWW. -/
def f3WWW : F3Shape := ⟨.wide, .wide, .wide, .no⟩
/-- Fields of R40 and R42: WWW. -/
def f3WWWFourth : F3Shape := ⟨.wide, .wide, .wide, .fourth⟩
/-- Fields of R40 and R42: WWW. -/
def f3WWWOpt : F3Shape := ⟨.wide, .wide, .wide, .opt⟩
/-- Fields of R40 and R42: WWW. -/
def f3WWWReq : F3Shape := ⟨.wide, .wide, .wide, .req⟩
/-- Fields of R40 and R42: WWZ. -/
def f3WWZ : F3Shape := ⟨.wide, .wide, .zero, .no⟩
/-- Fields of R40 and R42: WWZ. -/
def f3WWZOpt : F3Shape := ⟨.wide, .wide, .zero, .opt⟩
/-- Fields of R40 and R42: WWZ. -/
def f3WWZReq : F3Shape := ⟨.wide, .wide, .zero, .req⟩
/-- Fields of R40 and R42: WZZ. -/
def f3WZZOpt : F3Shape := ⟨.wide, .zero, .zero, .opt⟩
/-- Fields of R40 and R42: XWW. -/
def f3XWW : F3Shape := ⟨.ignored, .wide, .wide, .no⟩
/-- Fields of R40 and R42: XXW. -/
def f3XXW : F3Shape := ⟨.ignored, .ignored, .wide, .no⟩
/-- Fields of R40 and R42: XXX. -/
def f3XXX : F3Shape := ⟨.ignored, .ignored, .ignored, .no⟩
/-- Fields of R40 and R42: ZWW. -/
def f3ZWW : F3Shape := ⟨.zero, .wide, .wide, .no⟩
/-- Fields of R40 and R42: ZWZ. -/
def f3ZWZ : F3Shape := ⟨.zero, .wide, .zero, .no⟩
/-- Fields of R40 and R42: ZZZ. -/
def f3ZZZ : F3Shape := ⟨.zero, .zero, .zero, .no⟩

/-- The row of a vector-queue instruction in the page tables: page, major, minor (R48 to R51). -/
def vopRow : VOp → Nat × Nat × Nat
  | .vadd => (2, 1, 0)
  | .vsub => (2, 1, 1)
  | .vand => (2, 1, 2)
  | .vor => (2, 1, 3)
  | .vxor => (2, 2, 0)
  | .vandn => (2, 2, 1)
  | .vmin => (2, 2, 2)
  | .vmax => (2, 2, 3)
  | .vminu => (2, 3, 0)
  | .vmaxu => (2, 3, 1)
  | .vmul => (2, 3, 2)
  | .vmulh => (2, 3, 3)
  | .vsll => (2, 4, 0)
  | .vsrl => (2, 4, 1)
  | .vsra => (2, 4, 2)
  | .vmulhu => (2, 4, 3)
  | .vsadd => (2, 5, 0)
  | .vssub => (2, 5, 1)
  | .vsaddu => (2, 5, 2)
  | .vssubu => (2, 5, 3)
  | .vmacc => (2, 6, 0)
  | .vnmsac => (2, 6, 1)
  | .vaddS => (2, 7, 0)
  | .vsubS => (2, 7, 1)
  | .vrsubS => (2, 7, 2)
  | .vandS => (2, 7, 3)
  | .vorS => (2, 8, 0)
  | .vxorS => (2, 8, 1)
  | .vminS => (2, 8, 2)
  | .vmaxS => (2, 8, 3)
  | .vsllS => (2, 9, 0)
  | .vsrlS => (2, 9, 1)
  | .vsraS => (2, 9, 2)
  | .vmulS => (2, 9, 3)
  | .vmv => (2, 10, 0)
  | .vmvS => (2, 10, 1)
  | .vid => (2, 10, 2)
  | .vsel => (2, 10, 3)
  | .vneg => (2, 11, 0)
  | .vabs => (2, 11, 1)
  | .vnot => (2, 11, 2)
  | .vpopc => (2, 11, 3)
  | .vclz => (2, 12, 0)
  | .vctz => (2, 12, 1)
  | .vsext => (2, 12, 2)
  | .vzext => (2, 12, 3)
  | .vceq => (2, 13, 0)
  | .vcne => (2, 13, 1)
  | .vclt => (2, 13, 2)
  | .vcltu => (2, 13, 3)
  | .vcle => (2, 14, 0)
  | .vcleu => (2, 14, 1)
  | .vceqS => (2, 14, 2)
  | .vcltS => (2, 14, 3)
  | .mand => (2, 15, 0)
  | .mor => (2, 15, 1)
  | .mxor => (2, 15, 2)
  | .mandn => (2, 15, 3)
  | .mnot => (2, 16, 0)
  | .mmv => (2, 16, 1)
  | .mset => (2, 16, 2)
  | .mclr => (2, 16, 3)
  | .mpopc => (2, 17, 0)
  | .mfirst => (2, 17, 1)
  | .msbf => (2, 17, 2)
  | .msif => (2, 17, 3)
  | .vslideup => (2, 18, 0)
  | .vslidedn => (2, 18, 1)
  | .vslideupS => (2, 18, 2)
  | .vslidednS => (2, 18, 3)
  | .vxchg => (2, 19, 0)
  | .vcompress => (2, 19, 1)
  | .vexpand => (2, 19, 2)
  | .vperm => (2, 20, 0)
  | .vgath8 => (2, 20, 1)
  | .vconflict => (2, 20, 2)
  | .vmatch => (2, 20, 3)
  | .vprobe => (2, 21, 0)
  | .vredsum => (2, 22, 0)
  | .vredmax => (2, 22, 1)
  | .vredmin => (2, 22, 2)
  | .vredmaxu => (2, 22, 3)
  | .vredand => (2, 23, 0)
  | .vredor => (2, 23, 1)
  | .vredxor => (2, 23, 2)
  | .vredminu => (2, 23, 3)
  | .vfadd => (3, 0, 0)
  | .vfsub => (3, 0, 1)
  | .vfmul => (3, 0, 2)
  | .vfdiv => (3, 0, 3)
  | .vfmin => (3, 1, 0)
  | .vfmax => (3, 1, 1)
  | .vfsgnj => (3, 1, 2)
  | .vfsqrt => (3, 1, 3)
  | .vfma => (3, 2, 0)
  | .vfms => (3, 2, 1)
  | .vfnma => (3, 2, 2)
  | .vfnms => (3, 2, 3)
  | .vfaddS => (3, 3, 0)
  | .vfsubS => (3, 3, 1)
  | .vfmulS => (3, 3, 2)
  | .vfrsubS => (3, 3, 3)
  | .vfabs => (3, 4, 0)
  | .vfneg => (3, 4, 1)
  | .vfclass => (3, 4, 2)
  | .vfround => (3, 4, 3)
  | .vfceq => (3, 5, 0)
  | .vfclt => (3, 5, 1)
  | .vfcle => (3, 5, 2)
  | .vfcun => (3, 5, 3)
  | .vfcvt => (3, 6, 0)
  | .vf2i => (3, 6, 1)
  | .vi2f => (3, 6, 2)
  | .vf2iT => (3, 6, 3)
  | .vqamax => (3, 7, 0)
  | .vqscale => (3, 7, 1)
  | .vqpack => (3, 7, 2)
  | .vqunpack => (3, 7, 3)
  | .vfwht => (3, 8, 0)
  | .vsfu => (3, 8, 1)
  | .vfredsumO => (3, 8, 2)
  | .vfredsumT => (3, 9, 0)
  | .vfredmax => (3, 9, 1)
  | .vfredmin => (3, 9, 2)
  | .vfdotO => (3, 9, 3)
  | .vhktest => (3, 10, 0)
  | .vhksel => (3, 10, 1)
  | .vhkcnt => (3, 10, 2)
  | .vtopk => (3, 10, 3)
  | .vld => (4, 0, 0)
  | .vst => (4, 0, 1)
  | .vlds => (4, 0, 2)
  | .vsts => (4, 0, 3)
  | .vldx => (4, 1, 0)
  | .vstx => (4, 1, 1)
  | .vldff => (4, 1, 2)
  | .vstxa => (4, 1, 3)
  | .vldw => (4, 2, 0)
  | .vldrow => (4, 2, 1)
  | .vstrow => (4, 2, 2)
  | .vamorow => (4, 2, 3)
  | .vldsync => (4, 3, 0)
  | .pload => (5, 0, 0)
  | .prow => (5, 0, 1)
  | .mma => (5, 0, 2)
  | .mmav => (5, 0, 3)
  | .pgang => (5, 1, 0)
  | .vdcfg => (5, 1, 1)
  | .pbnd => (5, 1, 2)
  | .ptree => (5, 1, 3)
  | .tmma => (5, 2, 0)
  | .tzero => (5, 2, 1)
  | .tld => (5, 2, 2)
  | .tst => (5, 2, 3)
  | .tacc => (5, 3, 0)
  | .trow => (5, 3, 1)

/-- The vector-queue instruction of a row (R48 to R51). -/
def vopAt (page major minor : Nat) : Option VOp :=
  match page, major, minor with
  | 2, 1, 0 => some .vadd
  | 2, 1, 1 => some .vsub
  | 2, 1, 2 => some .vand
  | 2, 1, 3 => some .vor
  | 2, 2, 0 => some .vxor
  | 2, 2, 1 => some .vandn
  | 2, 2, 2 => some .vmin
  | 2, 2, 3 => some .vmax
  | 2, 3, 0 => some .vminu
  | 2, 3, 1 => some .vmaxu
  | 2, 3, 2 => some .vmul
  | 2, 3, 3 => some .vmulh
  | 2, 4, 0 => some .vsll
  | 2, 4, 1 => some .vsrl
  | 2, 4, 2 => some .vsra
  | 2, 4, 3 => some .vmulhu
  | 2, 5, 0 => some .vsadd
  | 2, 5, 1 => some .vssub
  | 2, 5, 2 => some .vsaddu
  | 2, 5, 3 => some .vssubu
  | 2, 6, 0 => some .vmacc
  | 2, 6, 1 => some .vnmsac
  | 2, 7, 0 => some .vaddS
  | 2, 7, 1 => some .vsubS
  | 2, 7, 2 => some .vrsubS
  | 2, 7, 3 => some .vandS
  | 2, 8, 0 => some .vorS
  | 2, 8, 1 => some .vxorS
  | 2, 8, 2 => some .vminS
  | 2, 8, 3 => some .vmaxS
  | 2, 9, 0 => some .vsllS
  | 2, 9, 1 => some .vsrlS
  | 2, 9, 2 => some .vsraS
  | 2, 9, 3 => some .vmulS
  | 2, 10, 0 => some .vmv
  | 2, 10, 1 => some .vmvS
  | 2, 10, 2 => some .vid
  | 2, 10, 3 => some .vsel
  | 2, 11, 0 => some .vneg
  | 2, 11, 1 => some .vabs
  | 2, 11, 2 => some .vnot
  | 2, 11, 3 => some .vpopc
  | 2, 12, 0 => some .vclz
  | 2, 12, 1 => some .vctz
  | 2, 12, 2 => some .vsext
  | 2, 12, 3 => some .vzext
  | 2, 13, 0 => some .vceq
  | 2, 13, 1 => some .vcne
  | 2, 13, 2 => some .vclt
  | 2, 13, 3 => some .vcltu
  | 2, 14, 0 => some .vcle
  | 2, 14, 1 => some .vcleu
  | 2, 14, 2 => some .vceqS
  | 2, 14, 3 => some .vcltS
  | 2, 15, 0 => some .mand
  | 2, 15, 1 => some .mor
  | 2, 15, 2 => some .mxor
  | 2, 15, 3 => some .mandn
  | 2, 16, 0 => some .mnot
  | 2, 16, 1 => some .mmv
  | 2, 16, 2 => some .mset
  | 2, 16, 3 => some .mclr
  | 2, 17, 0 => some .mpopc
  | 2, 17, 1 => some .mfirst
  | 2, 17, 2 => some .msbf
  | 2, 17, 3 => some .msif
  | 2, 18, 0 => some .vslideup
  | 2, 18, 1 => some .vslidedn
  | 2, 18, 2 => some .vslideupS
  | 2, 18, 3 => some .vslidednS
  | 2, 19, 0 => some .vxchg
  | 2, 19, 1 => some .vcompress
  | 2, 19, 2 => some .vexpand
  | 2, 20, 0 => some .vperm
  | 2, 20, 1 => some .vgath8
  | 2, 20, 2 => some .vconflict
  | 2, 20, 3 => some .vmatch
  | 2, 21, 0 => some .vprobe
  | 2, 22, 0 => some .vredsum
  | 2, 22, 1 => some .vredmax
  | 2, 22, 2 => some .vredmin
  | 2, 22, 3 => some .vredmaxu
  | 2, 23, 0 => some .vredand
  | 2, 23, 1 => some .vredor
  | 2, 23, 2 => some .vredxor
  | 2, 23, 3 => some .vredminu
  | 3, 0, 0 => some .vfadd
  | 3, 0, 1 => some .vfsub
  | 3, 0, 2 => some .vfmul
  | 3, 0, 3 => some .vfdiv
  | 3, 1, 0 => some .vfmin
  | 3, 1, 1 => some .vfmax
  | 3, 1, 2 => some .vfsgnj
  | 3, 1, 3 => some .vfsqrt
  | 3, 2, 0 => some .vfma
  | 3, 2, 1 => some .vfms
  | 3, 2, 2 => some .vfnma
  | 3, 2, 3 => some .vfnms
  | 3, 3, 0 => some .vfaddS
  | 3, 3, 1 => some .vfsubS
  | 3, 3, 2 => some .vfmulS
  | 3, 3, 3 => some .vfrsubS
  | 3, 4, 0 => some .vfabs
  | 3, 4, 1 => some .vfneg
  | 3, 4, 2 => some .vfclass
  | 3, 4, 3 => some .vfround
  | 3, 5, 0 => some .vfceq
  | 3, 5, 1 => some .vfclt
  | 3, 5, 2 => some .vfcle
  | 3, 5, 3 => some .vfcun
  | 3, 6, 0 => some .vfcvt
  | 3, 6, 1 => some .vf2i
  | 3, 6, 2 => some .vi2f
  | 3, 6, 3 => some .vf2iT
  | 3, 7, 0 => some .vqamax
  | 3, 7, 1 => some .vqscale
  | 3, 7, 2 => some .vqpack
  | 3, 7, 3 => some .vqunpack
  | 3, 8, 0 => some .vfwht
  | 3, 8, 1 => some .vsfu
  | 3, 8, 2 => some .vfredsumO
  | 3, 9, 0 => some .vfredsumT
  | 3, 9, 1 => some .vfredmax
  | 3, 9, 2 => some .vfredmin
  | 3, 9, 3 => some .vfdotO
  | 3, 10, 0 => some .vhktest
  | 3, 10, 1 => some .vhksel
  | 3, 10, 2 => some .vhkcnt
  | 3, 10, 3 => some .vtopk
  | 4, 0, 0 => some .vld
  | 4, 0, 1 => some .vst
  | 4, 0, 2 => some .vlds
  | 4, 0, 3 => some .vsts
  | 4, 1, 0 => some .vldx
  | 4, 1, 1 => some .vstx
  | 4, 1, 2 => some .vldff
  | 4, 1, 3 => some .vstxa
  | 4, 2, 0 => some .vldw
  | 4, 2, 1 => some .vldrow
  | 4, 2, 2 => some .vstrow
  | 4, 2, 3 => some .vamorow
  | 4, 3, 0 => some .vldsync
  | 5, 0, 0 => some .pload
  | 5, 0, 1 => some .prow
  | 5, 0, 2 => some .mma
  | 5, 0, 3 => some .mmav
  | 5, 1, 0 => some .pgang
  | 5, 1, 1 => some .vdcfg
  | 5, 1, 2 => some .pbnd
  | 5, 1, 3 => some .ptree
  | 5, 2, 0 => some .tmma
  | 5, 2, 1 => some .tzero
  | 5, 2, 2 => some .tld
  | 5, 2, 3 => some .tst
  | 5, 3, 0 => some .tacc
  | 5, 3, 1 => some .trow
  | _, _, _ => none

/-- The fields of a vector-queue instruction (R180, R211, R348; 10, 11). -/
def vopShape : VOp → F3Shape
  | .vadd => f3WWWOpt
  | .vsub => f3WWWOpt
  | .vand => f3WWWOpt
  | .vor => f3WWWOpt
  | .vxor => f3WWWOpt
  | .vandn => f3WWWOpt
  | .vmin => f3WWWOpt
  | .vmax => f3WWWOpt
  | .vminu => f3WWWOpt
  | .vmaxu => f3WWWOpt
  | .vmul => f3WWWOpt
  | .vmulh => f3WWWOpt
  | .vsll => f3WWWOpt
  | .vsrl => f3WWWOpt
  | .vsra => f3WWWOpt
  | .vmulhu => f3WWWOpt
  | .vsadd => f3WWWOpt
  | .vssub => f3WWWOpt
  | .vsaddu => f3WWWOpt
  | .vssubu => f3WWWOpt
  | .vmacc => f3WWWOpt
  | .vnmsac => f3WWWOpt
  | .vaddS => f3WWWOpt
  | .vsubS => f3WWWOpt
  | .vrsubS => f3WWWOpt
  | .vandS => f3WWWOpt
  | .vorS => f3WWWOpt
  | .vxorS => f3WWWOpt
  | .vminS => f3WWWOpt
  | .vmaxS => f3WWWOpt
  | .vsllS => f3WWWOpt
  | .vsrlS => f3WWWOpt
  | .vsraS => f3WWWOpt
  | .vmulS => f3WWWOpt
  | .vmv => f3WWZOpt
  | .vmvS => f3WWZOpt
  | .vid => f3WZZOpt
  | .vsel => f3WWWReq
  | .vneg => f3WWZOpt
  | .vabs => f3WWZOpt
  | .vnot => f3WWZOpt
  | .vpopc => f3WWZOpt
  | .vclz => f3WWZOpt
  | .vctz => f3WWZOpt
  | .vsext => f3WWWidth
  | .vzext => f3WWWidth
  | .vceq => f3NWWOpt
  | .vcne => f3NWWOpt
  | .vclt => f3NWWOpt
  | .vcltu => f3NWWOpt
  | .vcle => f3NWWOpt
  | .vcleu => f3NWWOpt
  | .vceqS => f3NWWOpt
  | .vcltS => f3NWWOpt
  | .mand => f3NNN
  | .mor => f3NNN
  | .mxor => f3NNN
  | .mandn => f3NNN
  | .mnot => f3NNZ
  | .mmv => f3NNZ
  | .mset => f3NZZ
  | .mclr => f3NZZ
  | .mpopc => f3WNZOpt
  | .mfirst => f3WNZOpt
  | .msbf => f3NNZOpt
  | .msif => f3NNZOpt
  | .vslideup => f3WWNOpt
  | .vslidedn => f3WWNOpt
  | .vslideupS => f3WWWOpt
  | .vslidednS => f3WWWOpt
  | .vxchg => f3WWWOpt
  | .vcompress => f3WWZReq
  | .vexpand => f3WWZReq
  | .vperm => f3WWWOpt
  | .vgath8 => f3WWWOpt
  | .vconflict => f3WWZOpt
  | .vmatch => f3NWWFourth
  | .vprobe => f3WWWOpt
  | .vredsum => f3WWWOpt
  | .vredmax => f3WWWOpt
  | .vredmin => f3WWWOpt
  | .vredmaxu => f3WWWOpt
  | .vredand => f3WWWOpt
  | .vredor => f3WWWOpt
  | .vredxor => f3WWWOpt
  | .vredminu => f3WWWOpt
  | .vfadd => f3WWWOpt
  | .vfsub => f3WWWOpt
  | .vfmul => f3WWWOpt
  | .vfdiv => f3WWWOpt
  | .vfmin => f3WWWOpt
  | .vfmax => f3WWWOpt
  | .vfsgnj => f3WWWOpt
  | .vfsqrt => f3WWZOpt
  | .vfma => f3WWWFourth
  | .vfms => f3WWWFourth
  | .vfnma => f3WWWFourth
  | .vfnms => f3WWWFourth
  | .vfaddS => f3WWWOpt
  | .vfsubS => f3WWWOpt
  | .vfmulS => f3WWWOpt
  | .vfrsubS => f3WWWOpt
  | .vfabs => f3WWZOpt
  | .vfneg => f3WWZOpt
  | .vfclass => f3WWZOpt
  | .vfround => f3WWZOpt
  | .vfceq => f3NWWOpt
  | .vfclt => f3NWWOpt
  | .vfcle => f3NWWOpt
  | .vfcun => f3NWWOpt
  | .vfcvt => f3WWWOpt
  | .vf2i => f3WWWOpt
  | .vi2f => f3WWWOpt
  | .vf2iT => f3WWWOpt
  | .vqamax => f3WWWOpt
  | .vqscale => f3WWW
  | .vqpack => f3WWW
  | .vqunpack => f3WWWOpt
  | .vfwht => f3WWW
  | .vsfu => f3WWWOpt
  | .vfredsumO => f3WWWOpt
  | .vfredsumT => f3WWWOpt
  | .vfredmax => f3WWWOpt
  | .vfredmin => f3WWWOpt
  | .vfdotO => f3WWWFourth
  | .vhktest => f3NWZOpt
  | .vhksel => f3WWWOpt
  | .vhkcnt => f3WWWOpt
  | .vtopk => f3WWWOpt
  | .vld => f3WWWOpt
  | .vst => f3WWWOpt
  | .vlds => f3WWWOpt
  | .vsts => f3WWWOpt
  | .vldx => f3WWWOpt
  | .vstx => f3WWWOpt
  | .vldff => f3WWZOpt
  | .vstxa => f3WWWFourth
  | .vldw => f3WWWFourth
  | .vldrow => f3WWWOpt
  | .vstrow => f3WWWOpt
  | .vamorow => f3WWWFourth
  | .vldsync => f3WWWFourth
  | .pload => f3WWW
  | .prow => f3ZWW
  | .mma => f3WWZOpt
  | .mmav => f3WWZOpt
  | .pgang => f3ZWZ
  | .vdcfg => f3ZWZ
  | .pbnd => f3ZWW
  | .ptree => f3WWZ
  | .tmma => f3NWW
  | .tzero => f3NZZ
  | .tld => f3NWZ
  | .tst => f3NWZ
  | .tacc => f3NWW
  | .trow => f3NWW

/-- The row of the table an operation and its operands stand for. -/
noncomputable def vInstr (o : VOp) (f : F3Fields) : Instr :=
  match o with
  | .vadd => .vadd f.d f.a f.b f.k
  | .vsub => .vsub f.d f.a f.b f.k
  | .vand => .vand f.d f.a f.b f.k
  | .vor => .vor f.d f.a f.b f.k
  | .vxor => .vxor f.d f.a f.b f.k
  | .vandn => .vandn f.d f.a f.b f.k
  | .vmin => .vmin f.d f.a f.b f.k
  | .vmax => .vmax f.d f.a f.b f.k
  | .vminu => .vminu f.d f.a f.b f.k
  | .vmaxu => .vmaxu f.d f.a f.b f.k
  | .vmul => .vmul f.d f.a f.b f.k
  | .vmulh => .vmulh f.d f.a f.b f.k
  | .vsll => .vsll f.d f.a f.b f.k
  | .vsrl => .vsrl f.d f.a f.b f.k
  | .vsra => .vsra f.d f.a f.b f.k
  | .vmulhu => .vmulhu f.d f.a f.b f.k
  | .vsadd => .vsadd f.d f.a f.b f.k
  | .vssub => .vssub f.d f.a f.b f.k
  | .vsaddu => .vsaddu f.d f.a f.b f.k
  | .vssubu => .vssubu f.d f.a f.b f.k
  | .vmacc => .vmacc f.d f.a f.b f.k
  | .vnmsac => .vnmsac f.d f.a f.b f.k
  | .vaddS => .vaddS f.d f.a f.b f.k
  | .vsubS => .vsubS f.d f.a f.b f.k
  | .vrsubS => .vrsubS f.d f.a f.b f.k
  | .vandS => .vandS f.d f.a f.b f.k
  | .vorS => .vorS f.d f.a f.b f.k
  | .vxorS => .vxorS f.d f.a f.b f.k
  | .vminS => .vminS f.d f.a f.b f.k
  | .vmaxS => .vmaxS f.d f.a f.b f.k
  | .vsllS => .vsllS f.d f.a f.b f.k
  | .vsrlS => .vsrlS f.d f.a f.b f.k
  | .vsraS => .vsraS f.d f.a f.b f.k
  | .vmulS => .vmulS f.d f.a f.b f.k
  | .vmv => .vmv f.d f.a f.k
  | .vmvS => .vmvS f.d f.a f.k
  | .vid => .vid f.d f.k
  | .vsel => .vsel f.d f.a f.b f.k
  | .vneg => .vneg f.d f.a f.k
  | .vabs => .vabs f.d f.a f.k
  | .vnot => .vnot f.d f.a f.k
  | .vpopc => .vpopc f.d f.a f.k
  | .vclz => .vclz f.d f.a f.k
  | .vctz => .vctz f.d f.a f.k
  | .vsext => .vsext f.d f.a (f.b.setWidth 3) f.k
  | .vzext => .vzext f.d f.a (f.b.setWidth 3) f.k
  | .vceq => .vceq (f.d.setWidth 3) f.a f.b f.k
  | .vcne => .vcne (f.d.setWidth 3) f.a f.b f.k
  | .vclt => .vclt (f.d.setWidth 3) f.a f.b f.k
  | .vcltu => .vcltu (f.d.setWidth 3) f.a f.b f.k
  | .vcle => .vcle (f.d.setWidth 3) f.a f.b f.k
  | .vcleu => .vcleu (f.d.setWidth 3) f.a f.b f.k
  | .vceqS => .vceqS (f.d.setWidth 3) f.a f.b f.k
  | .vcltS => .vcltS (f.d.setWidth 3) f.a f.b f.k
  | .mand => .mand (f.d.setWidth 3) (f.a.setWidth 3) (f.b.setWidth 3)
  | .mor => .mor (f.d.setWidth 3) (f.a.setWidth 3) (f.b.setWidth 3)
  | .mxor => .mxor (f.d.setWidth 3) (f.a.setWidth 3) (f.b.setWidth 3)
  | .mandn => .mandn (f.d.setWidth 3) (f.a.setWidth 3) (f.b.setWidth 3)
  | .mnot => .mnot (f.d.setWidth 3) (f.a.setWidth 3)
  | .mmv => .mmv (f.d.setWidth 3) (f.a.setWidth 3)
  | .mset => .mset (f.d.setWidth 3)
  | .mclr => .mclr (f.d.setWidth 3)
  | .mpopc => .mpopc f.d (f.a.setWidth 3) f.k
  | .mfirst => .mfirst f.d (f.a.setWidth 3) f.k
  | .msbf => .msbf (f.d.setWidth 3) (f.a.setWidth 3) f.k
  | .msif => .msif (f.d.setWidth 3) (f.a.setWidth 3) f.k
  | .vslideup => .vslideup f.d f.a (f.b.setWidth 3) f.k
  | .vslidedn => .vslidedn f.d f.a (f.b.setWidth 3) f.k
  | .vslideupS => .vslideupS f.d f.a f.b f.k
  | .vslidednS => .vslidednS f.d f.a f.b f.k
  | .vxchg => .vxchg f.d f.a f.b f.k
  | .vcompress => .vcompress f.d f.a f.k
  | .vexpand => .vexpand f.d f.a f.k
  | .vperm => .vperm f.d f.a f.b f.k
  | .vgath8 => .vgath8 f.d f.a f.b f.k
  | .vconflict => .vconflict f.d f.a f.k
  | .vmatch => .vmatch (f.d.setWidth 3) f.a f.b f.c f.k
  | .vprobe => .vprobe f.d f.a f.b f.k
  | .vredsum => .vredsum f.d f.a f.b f.k
  | .vredmax => .vredmax f.d f.a f.b f.k
  | .vredmin => .vredmin f.d f.a f.b f.k
  | .vredmaxu => .vredmaxu f.d f.a f.b f.k
  | .vredand => .vredand f.d f.a f.b f.k
  | .vredor => .vredor f.d f.a f.b f.k
  | .vredxor => .vredxor f.d f.a f.b f.k
  | .vredminu => .vredminu f.d f.a f.b f.k
  | .vfadd => .vfadd f.d f.a f.b f.k
  | .vfsub => .vfsub f.d f.a f.b f.k
  | .vfmul => .vfmul f.d f.a f.b f.k
  | .vfdiv => .vfdiv f.d f.a f.b f.k
  | .vfmin => .vfmin f.d f.a f.b f.k
  | .vfmax => .vfmax f.d f.a f.b f.k
  | .vfsgnj => .vfsgnj f.d f.a f.b f.k
  | .vfsqrt => .vfsqrt f.d f.a f.k
  | .vfma => .vfma f.d f.a f.b f.c f.k
  | .vfms => .vfms f.d f.a f.b f.c f.k
  | .vfnma => .vfnma f.d f.a f.b f.c f.k
  | .vfnms => .vfnms f.d f.a f.b f.c f.k
  | .vfaddS => .vfaddS f.d f.a f.b f.k
  | .vfsubS => .vfsubS f.d f.a f.b f.k
  | .vfmulS => .vfmulS f.d f.a f.b f.k
  | .vfrsubS => .vfrsubS f.d f.a f.b f.k
  | .vfabs => .vfabs f.d f.a f.k
  | .vfneg => .vfneg f.d f.a f.k
  | .vfclass => .vfclass f.d f.a f.k
  | .vfround => .vfround f.d f.a f.k
  | .vfceq => .vfceq (f.d.setWidth 3) f.a f.b f.k
  | .vfclt => .vfclt (f.d.setWidth 3) f.a f.b f.k
  | .vfcle => .vfcle (f.d.setWidth 3) f.a f.b f.k
  | .vfcun => .vfcun (f.d.setWidth 3) f.a f.b f.k
  | .vfcvt => .vfcvt f.d f.a f.b f.k
  | .vf2i => .vf2i f.d f.a f.b f.k
  | .vi2f => .vi2f f.d f.a f.b f.k
  | .vf2iT => .vf2iT f.d f.a f.b f.k
  | .vqamax => .vqamax f.d f.a f.b f.k
  | .vqscale => .vqscale f.d f.a f.b
  | .vqpack => .vqpack f.d f.a f.b
  | .vqunpack => .vqunpack f.d f.a f.b f.k
  | .vfwht => .vfwht f.d f.a f.b
  | .vsfu => .vsfu f.d f.a f.b f.k
  | .vfredsumO => .vfredsumO f.d f.a f.b f.k
  | .vfredsumT => .vfredsumT f.d f.a f.b f.k
  | .vfredmax => .vfredmax f.d f.a f.b f.k
  | .vfredmin => .vfredmin f.d f.a f.b f.k
  | .vfdotO => .vfdotO f.d f.a f.b f.c f.k
  | .vhktest => .vhktest (f.d.setWidth 3) f.a f.k
  | .vhksel => .vhksel f.d f.a f.b f.k
  | .vhkcnt => .vhkcnt f.d f.a f.b f.k
  | .vtopk => .vtopk f.d f.a f.b f.k
  | .vld => .vld f.d f.a f.b f.k
  | .vst => .vst f.d f.a f.b f.k
  | .vlds => .vlds f.d f.a f.b f.k
  | .vsts => .vsts f.d f.a f.b f.k
  | .vldx => .vldx f.d f.a f.b f.k
  | .vstx => .vstx f.d f.a f.b f.k
  | .vldff => .vldff f.d f.a f.k
  | .vstxa => .vstxa f.d f.a f.b f.c f.k
  | .vldw => .vldw f.d f.a f.b f.c f.k
  | .vldrow => .vldrow f.d f.a f.b f.k
  | .vstrow => .vstrow f.d f.a f.b f.k
  | .vamorow => .vamorow f.d f.a f.b f.c f.k
  | .vldsync => .vldsync f.d f.a f.b f.c f.k
  | .pload => .pload f.d f.a f.b
  | .prow => .prow f.a f.b
  | .mma => .mma f.d f.a f.k
  | .mmav => .mmav f.d f.a f.k
  | .pgang => .pgang f.a
  | .vdcfg => .vdcfg f.a
  | .pbnd => .pbnd f.a f.b
  | .ptree => .ptree f.d f.a
  | .tmma => .tmma (f.d.setWidth 3) f.a f.b
  | .tzero => .tzero (f.d.setWidth 3)
  | .tld => .tld (f.d.setWidth 3) f.a
  | .tst => .tst (f.d.setWidth 3) f.a
  | .tacc => .tacc (f.d.setWidth 3) f.a f.b
  | .trow => .trow (f.d.setWidth 3) f.a f.b

/-- The operation and operands of a word of pages 2 to 5 that is a vector-queue instruction. -/
def readVop (page : Nat) (p : Prefixes) (w : Half) : Option (VOp × F3Fields) :=
  (vopAt page (fld w 11 5) (fld w 0 2)).bind fun o => (readF3 (vopShape o) p w).map fun f => (o, f)

/-- A word of pages 2 to 5 that is a vector-queue instruction. -/
noncomputable def readV (page : Nat) (p : Prefixes) (w : Half) : Option Instr :=
  (readVop page p w).map fun x => vInstr x.1 x.2

/-- The vector-queue instruction of saved instruction words (R449). -/
def vopOfWords (p : Prefixes) : List Half → Option (VOp × F3Fields)
  | [] => none
  | w :: ws =>
    if isPrefixWord w then (addPrefix p w).bind fun q => vopOfWords q ws
    else readVop (p.pp.getD 0).toNat p w

/-- Page 0 (R46). -/
def page0 (p : Prefixes) (w : Half) : Option Instr :=
  match fld w 11 5 with
  | 0 => match fld w 0 2 with
    | 0 => (readF3 f3WWW p w).map fun f => .add f.d f.a f.b
    | 1 => (readF3 f3WWW p w).map fun f => .sub f.d f.a f.b
    | 2 => (readF3 f3WWW p w).map fun f => .and f.d f.a f.b
    | 3 => (readF3 f3WWW p w).map fun f => .or f.d f.a f.b
    | _ => none
  | 1 => match fld w 0 2 with
    | 0 => (readF3 f3WWW p w).map fun f => .xor f.d f.a f.b
    | 1 => (readF3 f3WWW p w).map fun f => .andn f.d f.a f.b
    | 2 => (readF3 f3WWW p w).map fun f => .sll f.d f.a f.b
    | 3 => (readF3 f3WWW p w).map fun f => .srl f.d f.a f.b
    | _ => none
  | 2 => match fld w 0 2 with
    | 0 => (readF3 f3WWW p w).map fun f => .sra f.d f.a f.b
    | 1 => (readF3 f3WWW p w).map fun f => .rol f.d f.a f.b
    | 2 => (readF3 f3WWW p w).map fun f => .slt f.d f.a f.b
    | 3 => (readF3 f3WWW p w).map fun f => .sltu f.d f.a f.b
    | _ => none
  | 3 => match fld w 0 2 with
    | 0 => (readF3 f3WWW p w).map fun f => .min f.d f.a f.b
    | 1 => (readF3 f3WWW p w).map fun f => .max f.d f.a f.b
    | 2 => (readF3 f3WWW p w).map fun f => .minu f.d f.a f.b
    | 3 => (readF3 f3WWW p w).map fun f => .maxu f.d f.a f.b
    | _ => none
  | 4 => match fld w 0 2 with
    | 0 => (readF3 f3WWW p w).map fun f => .mul f.d f.a f.b
    | 1 => (readF3 f3WWW p w).map fun f => .mulh f.d f.a f.b
    | 2 => (readF3 f3WWW p w).map fun f => .mulhu f.d f.a f.b
    | 3 => (readF3 f3WWW p w).map fun f => .cmov f.d f.a f.b
    | _ => none
  | 5 => match fld w 0 2 with
    | 0 => (readF3 f3WWW p w).map fun f => .div f.d f.a f.b
    | 1 => (readF3 f3WWW p w).map fun f => .divu f.d f.a f.b
    | 2 => (readF3 f3WWW p w).map fun f => .rem f.d f.a f.b
    | 3 => (readF3 f3WWW p w).map fun f => .remu f.d f.a f.b
    | _ => none
  | 6 => match fld w 0 2 with
    | 0 => (readF3 f3WWZ p w).map fun f => .clz f.d f.a
    | 1 => (readF3 f3WWZ p w).map fun f => .ctz f.d f.a
    | 2 => (readF3 f3WWZ p w).map fun f => .popc f.d f.a
    | 3 => (readF3 f3WWZ p w).map fun f => .bswap f.d f.a
    | _ => none
  | 7 => match fld w 0 2 with
    | 0 => (readF3 f3WWZ p w).map fun f => .sextb f.d f.a
    | 1 => (readF3 f3WWZ p w).map fun f => .sexth f.d f.a
    | 2 => (readF3 f3WWZ p w).map fun f => .sextw f.d f.a
    | 3 => (readF3 f3WWZ p w).map fun f => .jalr f.d f.a
    | _ => none
  | 8 => (readFI p w).map fun (d, a, imm) => .addi d a imm
  | 9 => (readFI p w).map fun (d, a, imm) => .andi d a imm
  | 10 => (readFI p w).map fun (d, a, imm) => .ori d a imm
  | 11 => (readFI p w).map fun (d, a, imm) => .xori d a imm
  | 12 => (readFI p w).bind fun (d, a, imm) => if 0 ≤ imm ∧ imm < 64 then some (.slli d a (BitVec.ofInt 6 imm)) else none
  | 13 => (readFI p w).bind fun (d, a, imm) => if 0 ≤ imm ∧ imm < 64 then some (.srli d a (BitVec.ofInt 6 imm)) else none
  | 14 => (readFI p w).bind fun (d, a, imm) => if 0 ≤ imm ∧ imm < 64 then some (.srai d a (BitVec.ofInt 6 imm)) else none
  | 15 => (readF3 f3WWW p w).map fun f => .lea f.d f.a f.b (minorOf w)
  | 16 => (readFW p w).map fun (d, imm) => .li d imm
  | 17 => (readFW p w).map fun (d, imm) => .lih d imm
  | 18 => (readFM p w).bind fun (d, a, z, off) => match z with
    | 0 => some (.ldb d a off)
    | 1 => some (.ldbu d a off)
    | 2 => some (.ldh d a off)
    | 3 => some (.ldhu d a off)
    | 4 => some (.ldw d a off)
    | 5 => some (.ldwu d a off)
    | 6 => some (.ldd d a off)
    | _ => none
  | 19 => (readFM p w).bind fun (d, a, z, off) => match z with
    | 0 => some (.stb d a off)
    | 2 => some (.sth d a off)
    | 4 => some (.stw d a off)
    | 6 => some (.std d a off)
    | _ => none
  | 20 => (readFS p w).map fun (d, a, s, z) => .lacq d a s z
  | 21 => (readFS p w).map fun (d, a, s, z) => .srel d a s z
  | 22 => (readFence p w).bind fun (s, z) => match z with
    | 0 => some (.fenceFull s)
    | 1 => some (.fenceAcq s)
    | 2 => some (.fenceRel s)
    | 3 => some (.fenceFlush s)
    | _ => none
  | 23 => (readFB p w).map fun (a, b, disp) => .beq a b disp
  | 24 => (readFB p w).map fun (a, b, disp) => .bne a b disp
  | 25 => (readFB p w).map fun (a, b, disp) => .blt a b disp
  | 26 => (readFB p w).map fun (a, b, disp) => .bge a b disp
  | 27 => (readFB p w).map fun (a, b, disp) => .bltu a b disp
  | 28 => (readFB p w).map fun (a, b, disp) => .bgeu a b disp
  | 29 => (readFJ p w).map fun disp => .j disp
  | 30 => (readFJ p w).map fun disp => .jal disp
  | _ => none

/-- Page 1 (R47). -/
def page1 (p : Prefixes) (w : Half) : Option Instr :=
  match fld w 11 5 with
  | 0 => (readFK p w).map fun (d, x) => .mfk d x
  | 1 => (readFK p w).map fun (d, x) => .mtk d x
  | 2 => (readSys p w).bind fun (fn, n) => match fn with
    | 0 => some (.sysNop n)
    | 1 => some (.trap n)
    | 2 => some (.brk n)
    | 3 => some (.rett n)
    | 4 => some (.yield n)
    | 5 => some (.idle n)
    | _ => none
  | 3 => readWait p w
  | 4 => match fld w 0 2 with
    | 0 => (readF3 f3WWW p w).map fun f => .cwb f.d f.a f.b
    | 1 => (readF3 f3WWW p w).map fun f => .cinv f.d f.a f.b
    | 2 => (readF3 f3WWW p w).map fun f => .cflush f.d f.a f.b
    | 3 => (readF3 f3WWW p w).map fun f => .cprefetch f.d f.a f.b
    | _ => none
  | 5 => match fld w 0 2 with
    | 0 => (readF3 f3XWW p w).map fun f => .tlbi f.a f.b
    | 1 => (readF3 f3XXW p w).map fun f => .tlbia f.b
    | 2 => (readF3 f3XXX p w).map fun _ => .tlbsync
    | _ => none
  | _ => none

/-- Page 2 (R48). -/
noncomputable def page2 (p : Prefixes) (w : Half) : Option Instr :=
  match fld w 11 5 with
  | 0 => match fld w 0 2 with
    | 0 => (readF3 f3WWW p w).map fun f => .vset f.d f.a f.b
    | 1 => (readF3 f3WWZ p w).map fun f => .vsetk f.d f.a
    | _ => none
  | _ => readV 2 p w

/-- Page 3 (R49). -/
noncomputable def page3 (p : Prefixes) (w : Half) : Option Instr :=
  match fld w 11 5 with
  | 11 => match fld w 0 2 with
    | 0 => (readF3 f3WWW p w).map fun f => .fadd f.d f.a f.b
    | 1 => (readF3 f3WWW p w).map fun f => .fsub f.d f.a f.b
    | 2 => (readF3 f3WWW p w).map fun f => .fmul f.d f.a f.b
    | 3 => (readF3 f3WWW p w).map fun f => .fdiv f.d f.a f.b
    | _ => none
  | 12 => match fld w 0 2 with
    | 0 => (readF3 f3WWW p w).map fun f => .fma f.d f.a f.b
    | 1 => (readF3 f3WWW p w).map fun f => .fmin f.d f.a f.b
    | 2 => (readF3 f3WWW p w).map fun f => .fmax f.d f.a f.b
    | 3 => (readF3 f3WWZ p w).map fun f => .fsqrt f.d f.a
    | _ => none
  | 13 => match fld w 0 2 with
    | 0 => (readF3 f3WWW p w).map fun f => .fceq f.d f.a f.b
    | 1 => (readF3 f3WWW p w).map fun f => .fclt f.d f.a f.b
    | 2 => (readF3 f3WWW p w).map fun f => .fcle f.d f.a f.b
    | 3 => (readF3 f3WWW p w).map fun f => .fcvt f.d f.a f.b
    | _ => none
  | 14 => match fld w 0 2 with
    | 0 => (readF3 f3WWZ p w).map fun f => .f2i f.d f.a
    | 1 => (readF3 f3WWZ p w).map fun f => .i2f f.d f.a
    | 2 => (readF3 f3WWZ p w).map fun f => .fclass f.d f.a
    | 3 => (readF3 f3WWZ p w).map fun f => .fabs f.d f.a
    | _ => none
  | 15 => match fld w 0 2 with
    | 0 => (readF3 f3WWZ p w).map fun f => .fcadapt f.d f.a
    | _ => none
  | _ => readV 3 p w

/-- Page 4 (R50). -/
noncomputable def page4 (p : Prefixes) (w : Half) : Option Instr :=
  readV 4 p w

/-- Page 5 (R51). -/
noncomputable def page5 (p : Prefixes) (w : Half) : Option Instr :=
  readV 5 p w

/-- Page 6 (R52). -/
noncomputable def page6 (p : Prefixes) (w : Half) : Option Instr :=
  match fld w 11 5 with
  | 0 => match fld w 0 2 with
    | 0 => (readF3 f3WWW p w).map fun f => .fork f.d f.a f.b
    | 1 => (readF3 f3ZWZ p w).map fun f => .join f.a
    | 2 => (readF3 f3ZZZ p w).map fun _ => .retire
    | 3 => (readF3 f3WWZ p w).map fun f => .launch f.d f.a
    | _ => none
  | 1 => match fld w 0 2 with
    | 0 => (readF3 f3ZWW p w).map fun f => .curtain f.a f.b
    | 1 => (readF3 f3WWW p w).map fun f => .curtainx f.d f.a f.b
    | 2 => (readF3 f3WWW p w).map fun f => .prodctlQuery f.d f.a f.b
    | 3 => (readF3 f3WWW p w).map fun f => .qbind f.d f.a f.b
    | _ => none
  | 2 => match fld w 0 2 with
    | 0 => (readF3 f3WWZ p w).map fun f => .vacq f.d f.a
    | 1 => (readF3 f3ZZZ p w).map fun _ => .vrel
    | 2 => (readF3 f3WWZ p w).map fun f => .boost f.d f.a
    | _ => none
  | 3 => match fld w 0 2 with
    | 0 => (readF3 f3WWZ p w).map fun f => .lde f.d f.a
    | 1 => (readF3 f3WWZ p w).map fun f => .ldf f.d f.a
    | 2 => (readF3 f3WWZ p w).map fun f => .stf f.d f.a
    | 3 => (readF3 f3WWZ p w).map fun f => .ste f.d f.a
    | _ => none
  | 4 => match fld w 0 2 with
    | 0 => (readF3 f3WWZ p w).map fun f => .feq f.d f.a
    | 1 => (readF3 f3ZWZ p w).map fun f => .fefill f.a
    | 2 => (readF3 f3ZWZ p w).map fun f => .feclr f.a
    | _ => none
  | 5 => (readFS p w).map fun (d, a, s, z) => .amoadd d a s z
  | 6 => (readFS p w).map fun (d, a, s, z) => .amoswap d a s z
  | 7 => (readFS p w).map fun (d, a, s, z) => .amomax d a s z
  | 8 => (readFS p w).map fun (d, a, s, z) => .amomin d a s z
  | 9 => (readFS p w).map fun (d, a, s, z) => .amoand d a s z
  | 10 => (readFS p w).map fun (d, a, s, z) => .amoor d a s z
  | 11 => (readFS p w).bind fun (d, a, s, z) => if bitOf d 0 then none else some (.amocas d a s z)
  | 12 => match fld w 0 2 with
    | 0 => (readF3 f3WWW p w).map fun f => .cpy f.d f.a f.b
    | 1 => (readF3 f3WWW p w).map fun f => .cpy2d f.d f.a f.b
    | 2 => (readF3 f3WWW p w).map fun f => .cpyg f.d f.a f.b
    | 3 => (readF3 f3WWW p w).map fun f => .nmr f.d f.a f.b
    | _ => none
  | 13 => match fld w 0 2 with
    | 0 => (readF3 f3WWW p w).map fun f => .coll f.d f.a f.b
    | 1 => (readF3 f3WWW p w).map fun f => .sfu f.d f.a f.b
    | 2 => (readF3 f3WWW p w).map fun f => .msgs f.d f.a f.b
    | _ => none
  | _ => none

/-- A base word on the page its prefixes select (R41, R44). -/
noncomputable def decodeBase (p : Prefixes) (w : Half) : Option Instr :=
  match (p.pp.getD 0).toNat with
  | 0 => page0 p w
  | 1 => page1 p w
  | 2 => page2 p w
  | 3 => page3 p w
  | 4 => page4 p w
  | 5 => page5 p w
  | 6 => page6 p w
  | _ => none

/-- Decoding from word `k` with the prefixes read before it (R43). -/
noncomputable def decodeFrom (p : Prefixes) (k : Nat) : List Half → Decoded
  | [] => .short
  | w :: ws =>
    if isPrefixWord w then
      match addPrefix p w with
      | some p' => decodeFrom p' (k + 1) ws
      | none => .illegalFormat k
    else
      match decodeBase p w with
      | some i => .ok i (k + 1)
      | none => .illegalInstruction k

/-- The instruction at the head of a list of words in fetch order (R29, R30, R43). -/
noncomputable def decode (ws : List Half) : Decoded := decodeFrom noPrefixes 0 ws

/-- Bits [10:8] of a register number's low part (R35). -/
def d3 (r : BitVec 5) : BitVec 3 := r.setWidth 3
/-- Bits [7:5] of a register number's low part (R35). -/
def a3 (r : BitVec 5) : BitVec 3 := r.setWidth 3

/-- A base word: the major opcode over its eleven low bits (R34). -/
def baseWord (maj : Nat) (low : BitVec 11) : Half := BitVec.ofNat 5 maj ++ low

/-- Words in the order PP, PR, PM, PX, base, each prefix only where it is needed (R55). -/
def wordsOf (page : Nat) (pr : BitVec 9) (pm : Option (BitVec 9)) (px : List (BitVec 9)) (base : Half) : List Half :=
  (if page = 0 then [] else [(0b1111110 : BitVec 7) ++ BitVec.ofNat 9 page]) ++
  (if pr = 0 then [] else [(0b1111101 : BitVec 7) ++ pr]) ++
  (pm.toList.map fun x => (0b1111111 : BitVec 7) ++ x) ++
  (px.map fun x => (0b1111100 : BitVec 7) ++ x) ++ [base]

/-- The PM payload of a mask and a fourth operand (R38). -/
def pmBits (c : BitVec 4) (k : VMask) : BitVec 9 :=
  k.reg ++ BitVec.ofBool k.en ++ BitVec.ofBool k.inv ++ c

/-- The PM word an instruction needs: always with c, otherwise with a mask that is not the whole vector (R55). -/
def pmFor (m : MaskKind) (c : BitVec 4) (k : VMask) : Option (BitVec 9) :=
  match m with
  | .no => none
  | .opt => if k = VMask.all then none else some (pmBits 0 k)
  | .req => some (pmBits 0 k)
  | .fourth => some (pmBits c k)

/-- The words of an F3 or FV instruction (R34). -/
def encodeF3 (page maj minor : Nat) (sh : F3Shape) (f : F3Fields) : List Half :=
  wordsOf page (prBits f.d f.a f.b) (pmFor sh.mask f.c f.k) []
    (baseWord maj (d3 f.d ++ a3 f.a ++ a3 f.b ++ BitVec.ofNat 2 minor))

/-- The words of a vector-queue instruction. -/
def encodeV (o : VOp) (f : F3Fields) : List Half :=
  encodeF3 (vopRow o).1 (vopRow o).2.1 (vopRow o).2.2 (vopShape o) f

/-- The least number of PX words for an immediate (R55), at most four. -/
def pxCount (n : Nat) (imm : Int) : Nat :=
  if fitsPx n 0 imm then 0 else if fitsPx n 1 imm then 1 else if fitsPx n 2 imm then 2 else if fitsPx n 3 imm then 3 else 4

/-- The `k` PX payloads of a widened immediate, most significant first (R36). -/
def pxDigits : Nat → Nat → List (BitVec 9)
  | 0, _ => []
  | k + 1, v => pxDigits k (v / 512) ++ [BitVec.ofNat 9 v]

/-- The words of an instruction with a widened immediate of base field `n`; `low` places the base field (R34, R36). -/
def encodeImm (page maj : Nat) (pr : BitVec 9) (n : Nat) (imm : Int) (low : BitVec n → BitVec 11) : List Half :=
  let k := pxCount n imm
  let raw := (imm % 2 ^ (n + 9 * k)).toNat
  wordsOf page pr none (pxDigits k (raw / 2 ^ n)) (baseWord maj (low (BitVec.ofNat n raw)))

/-- The words of an FS instruction (R34, R35). -/
def encodeFS (page maj : Nat) (d a : GReg) (p : Scope) (z : Size) : List Half :=
  wordsOf page (prBits d a 0) none [] (baseWord maj (d3 d ++ a3 a ++ p.code ++ z.code))

/-- The words of a well-formed instruction in fetch order, as R55 chooses them; no words for an event. -/
def encode : Instr → List Half
  | .add d a b => encodeF3 0 0 0 f3WWW ⟨d, a, b, 0, VMask.all⟩
  | .sub d a b => encodeF3 0 0 1 f3WWW ⟨d, a, b, 0, VMask.all⟩
  | .and d a b => encodeF3 0 0 2 f3WWW ⟨d, a, b, 0, VMask.all⟩
  | .or d a b => encodeF3 0 0 3 f3WWW ⟨d, a, b, 0, VMask.all⟩
  | .xor d a b => encodeF3 0 1 0 f3WWW ⟨d, a, b, 0, VMask.all⟩
  | .andn d a b => encodeF3 0 1 1 f3WWW ⟨d, a, b, 0, VMask.all⟩
  | .sll d a b => encodeF3 0 1 2 f3WWW ⟨d, a, b, 0, VMask.all⟩
  | .srl d a b => encodeF3 0 1 3 f3WWW ⟨d, a, b, 0, VMask.all⟩
  | .sra d a b => encodeF3 0 2 0 f3WWW ⟨d, a, b, 0, VMask.all⟩
  | .rol d a b => encodeF3 0 2 1 f3WWW ⟨d, a, b, 0, VMask.all⟩
  | .slt d a b => encodeF3 0 2 2 f3WWW ⟨d, a, b, 0, VMask.all⟩
  | .sltu d a b => encodeF3 0 2 3 f3WWW ⟨d, a, b, 0, VMask.all⟩
  | .min d a b => encodeF3 0 3 0 f3WWW ⟨d, a, b, 0, VMask.all⟩
  | .max d a b => encodeF3 0 3 1 f3WWW ⟨d, a, b, 0, VMask.all⟩
  | .minu d a b => encodeF3 0 3 2 f3WWW ⟨d, a, b, 0, VMask.all⟩
  | .maxu d a b => encodeF3 0 3 3 f3WWW ⟨d, a, b, 0, VMask.all⟩
  | .mul d a b => encodeF3 0 4 0 f3WWW ⟨d, a, b, 0, VMask.all⟩
  | .mulh d a b => encodeF3 0 4 1 f3WWW ⟨d, a, b, 0, VMask.all⟩
  | .mulhu d a b => encodeF3 0 4 2 f3WWW ⟨d, a, b, 0, VMask.all⟩
  | .cmov d a b => encodeF3 0 4 3 f3WWW ⟨d, a, b, 0, VMask.all⟩
  | .div d a b => encodeF3 0 5 0 f3WWW ⟨d, a, b, 0, VMask.all⟩
  | .divu d a b => encodeF3 0 5 1 f3WWW ⟨d, a, b, 0, VMask.all⟩
  | .rem d a b => encodeF3 0 5 2 f3WWW ⟨d, a, b, 0, VMask.all⟩
  | .remu d a b => encodeF3 0 5 3 f3WWW ⟨d, a, b, 0, VMask.all⟩
  | .clz d a => encodeF3 0 6 0 f3WWZ ⟨d, a, 0, 0, VMask.all⟩
  | .ctz d a => encodeF3 0 6 1 f3WWZ ⟨d, a, 0, 0, VMask.all⟩
  | .popc d a => encodeF3 0 6 2 f3WWZ ⟨d, a, 0, 0, VMask.all⟩
  | .bswap d a => encodeF3 0 6 3 f3WWZ ⟨d, a, 0, 0, VMask.all⟩
  | .sextb d a => encodeF3 0 7 0 f3WWZ ⟨d, a, 0, 0, VMask.all⟩
  | .sexth d a => encodeF3 0 7 1 f3WWZ ⟨d, a, 0, 0, VMask.all⟩
  | .sextw d a => encodeF3 0 7 2 f3WWZ ⟨d, a, 0, 0, VMask.all⟩
  | .jalr d a => encodeF3 0 7 3 f3WWZ ⟨d, a, 0, 0, VMask.all⟩
  | .addi d a imm => encodeImm 0 8 (prBits d a 0) 5 imm fun n => d3 d ++ a3 a ++ n
  | .andi d a imm => encodeImm 0 9 (prBits d a 0) 5 imm fun n => d3 d ++ a3 a ++ n
  | .ori d a imm => encodeImm 0 10 (prBits d a 0) 5 imm fun n => d3 d ++ a3 a ++ n
  | .xori d a imm => encodeImm 0 11 (prBits d a 0) 5 imm fun n => d3 d ++ a3 a ++ n
  | .slli d a sh => encodeImm 0 12 (prBits d a 0) 5 sh.toNat fun n => d3 d ++ a3 a ++ n
  | .srli d a sh => encodeImm 0 13 (prBits d a 0) 5 sh.toNat fun n => d3 d ++ a3 a ++ n
  | .srai d a sh => encodeImm 0 14 (prBits d a 0) 5 sh.toNat fun n => d3 d ++ a3 a ++ n
  | .lea d a b sh => encodeF3 0 15 sh.toNat f3WWW ⟨d, a, b, 0, VMask.all⟩
  | .li d imm => encodeImm 0 16 (prBits d 0 0) 8 imm fun n => d3 d ++ n
  | .lih d imm => encodeImm 0 17 (prBits d 0 0) 8 imm fun n => d3 d ++ n
  | .ldb d a off => encodeImm 0 18 (prBits d a 0) 2 off fun n => d3 d ++ a3 a ++ (0 : BitVec 3) ++ n
  | .ldbu d a off => encodeImm 0 18 (prBits d a 0) 2 off fun n => d3 d ++ a3 a ++ (1 : BitVec 3) ++ n
  | .ldh d a off => encodeImm 0 18 (prBits d a 0) 2 off fun n => d3 d ++ a3 a ++ (2 : BitVec 3) ++ n
  | .ldhu d a off => encodeImm 0 18 (prBits d a 0) 2 off fun n => d3 d ++ a3 a ++ (3 : BitVec 3) ++ n
  | .ldw d a off => encodeImm 0 18 (prBits d a 0) 2 off fun n => d3 d ++ a3 a ++ (4 : BitVec 3) ++ n
  | .ldwu d a off => encodeImm 0 18 (prBits d a 0) 2 off fun n => d3 d ++ a3 a ++ (5 : BitVec 3) ++ n
  | .ldd d a off => encodeImm 0 18 (prBits d a 0) 2 off fun n => d3 d ++ a3 a ++ (6 : BitVec 3) ++ n
  | .stb d a off => encodeImm 0 19 (prBits d a 0) 2 off fun n => d3 d ++ a3 a ++ (0 : BitVec 3) ++ n
  | .sth d a off => encodeImm 0 19 (prBits d a 0) 2 off fun n => d3 d ++ a3 a ++ (2 : BitVec 3) ++ n
  | .stw d a off => encodeImm 0 19 (prBits d a 0) 2 off fun n => d3 d ++ a3 a ++ (4 : BitVec 3) ++ n
  | .std d a off => encodeImm 0 19 (prBits d a 0) 2 off fun n => d3 d ++ a3 a ++ (6 : BitVec 3) ++ n
  | .lacq d a p z => encodeFS 0 20 d a p z
  | .srel d a p z => encodeFS 0 21 d a p z
  | .fenceFull p => encodeFS 0 22 0 0 p (Size.ofCode 0)
  | .fenceAcq p => encodeFS 0 22 0 0 p (Size.ofCode 1)
  | .fenceRel p => encodeFS 0 22 0 0 p (Size.ofCode 2)
  | .fenceFlush p => encodeFS 0 22 0 0 p (Size.ofCode 3)
  | .beq a b disp => encodeImm 0 23 (prBits 0 a b) 5 disp fun n => d3 a ++ a3 b ++ n
  | .bne a b disp => encodeImm 0 24 (prBits 0 a b) 5 disp fun n => d3 a ++ a3 b ++ n
  | .blt a b disp => encodeImm 0 25 (prBits 0 a b) 5 disp fun n => d3 a ++ a3 b ++ n
  | .bge a b disp => encodeImm 0 26 (prBits 0 a b) 5 disp fun n => d3 a ++ a3 b ++ n
  | .bltu a b disp => encodeImm 0 27 (prBits 0 a b) 5 disp fun n => d3 a ++ a3 b ++ n
  | .bgeu a b disp => encodeImm 0 28 (prBits 0 a b) 5 disp fun n => d3 a ++ a3 b ++ n
  | .j disp => encodeImm 0 29 0 11 disp fun n => n
  | .jal disp => encodeImm 0 30 0 11 disp fun n => n
  | .mfk d x => wordsOf 1 (prBits d 0 0) none [] (baseWord 0 (d3 d ++ x))
  | .mtk d x => wordsOf 1 (prBits d 0 0) none [] (baseWord 1 (d3 d ++ x))
  | .sysNop n => wordsOf 1 0 none [] (baseWord 2 ((0 : BitVec 3) ++ n))
  | .trap n => wordsOf 1 0 none [] (baseWord 2 ((1 : BitVec 3) ++ n))
  | .brk n => wordsOf 1 0 none [] (baseWord 2 ((2 : BitVec 3) ++ n))
  | .rett n => wordsOf 1 0 none [] (baseWord 2 ((3 : BitVec 3) ++ n))
  | .yield n => wordsOf 1 0 none [] (baseWord 2 ((4 : BitVec 3) ++ n))
  | .idle n => wordsOf 1 0 none [] (baseWord 2 ((5 : BitVec 3) ++ n))
  | .wait l st c t => wordsOf 1 0 none [(0 : BitVec 1) ++ l ++ st] (baseWord 3 ((0 : BitVec 3) ++ c ++ t))
  | .cwb d a b => encodeF3 1 4 0 f3WWW ⟨d, a, b, 0, VMask.all⟩
  | .cinv d a b => encodeF3 1 4 1 f3WWW ⟨d, a, b, 0, VMask.all⟩
  | .cflush d a b => encodeF3 1 4 2 f3WWW ⟨d, a, b, 0, VMask.all⟩
  | .cprefetch d a b => encodeF3 1 4 3 f3WWW ⟨d, a, b, 0, VMask.all⟩
  | .tlbi a b => encodeF3 1 5 0 f3XWW ⟨0, a, b, 0, VMask.all⟩
  | .tlbia b => encodeF3 1 5 1 f3XXW ⟨0, 0, b, 0, VMask.all⟩
  | .tlbsync => encodeF3 1 5 2 f3XXX ⟨0, 0, 0, 0, VMask.all⟩
  | .vset d a b => encodeF3 2 0 0 f3WWW ⟨d, a, b, 0, VMask.all⟩
  | .vsetk d a => encodeF3 2 0 1 f3WWZ ⟨d, a, 0, 0, VMask.all⟩
  | .vadd d a b k => encodeV .vadd ⟨d, a, b, 0, k⟩
  | .vsub d a b k => encodeV .vsub ⟨d, a, b, 0, k⟩
  | .vand d a b k => encodeV .vand ⟨d, a, b, 0, k⟩
  | .vor d a b k => encodeV .vor ⟨d, a, b, 0, k⟩
  | .vxor d a b k => encodeV .vxor ⟨d, a, b, 0, k⟩
  | .vandn d a b k => encodeV .vandn ⟨d, a, b, 0, k⟩
  | .vmin d a b k => encodeV .vmin ⟨d, a, b, 0, k⟩
  | .vmax d a b k => encodeV .vmax ⟨d, a, b, 0, k⟩
  | .vminu d a b k => encodeV .vminu ⟨d, a, b, 0, k⟩
  | .vmaxu d a b k => encodeV .vmaxu ⟨d, a, b, 0, k⟩
  | .vmul d a b k => encodeV .vmul ⟨d, a, b, 0, k⟩
  | .vmulh d a b k => encodeV .vmulh ⟨d, a, b, 0, k⟩
  | .vsll d a b k => encodeV .vsll ⟨d, a, b, 0, k⟩
  | .vsrl d a b k => encodeV .vsrl ⟨d, a, b, 0, k⟩
  | .vsra d a b k => encodeV .vsra ⟨d, a, b, 0, k⟩
  | .vmulhu d a b k => encodeV .vmulhu ⟨d, a, b, 0, k⟩
  | .vsadd d a b k => encodeV .vsadd ⟨d, a, b, 0, k⟩
  | .vssub d a b k => encodeV .vssub ⟨d, a, b, 0, k⟩
  | .vsaddu d a b k => encodeV .vsaddu ⟨d, a, b, 0, k⟩
  | .vssubu d a b k => encodeV .vssubu ⟨d, a, b, 0, k⟩
  | .vmacc d a b k => encodeV .vmacc ⟨d, a, b, 0, k⟩
  | .vnmsac d a b k => encodeV .vnmsac ⟨d, a, b, 0, k⟩
  | .vaddS d a b k => encodeV .vaddS ⟨d, a, b, 0, k⟩
  | .vsubS d a b k => encodeV .vsubS ⟨d, a, b, 0, k⟩
  | .vrsubS d a b k => encodeV .vrsubS ⟨d, a, b, 0, k⟩
  | .vandS d a b k => encodeV .vandS ⟨d, a, b, 0, k⟩
  | .vorS d a b k => encodeV .vorS ⟨d, a, b, 0, k⟩
  | .vxorS d a b k => encodeV .vxorS ⟨d, a, b, 0, k⟩
  | .vminS d a b k => encodeV .vminS ⟨d, a, b, 0, k⟩
  | .vmaxS d a b k => encodeV .vmaxS ⟨d, a, b, 0, k⟩
  | .vsllS d a b k => encodeV .vsllS ⟨d, a, b, 0, k⟩
  | .vsrlS d a b k => encodeV .vsrlS ⟨d, a, b, 0, k⟩
  | .vsraS d a b k => encodeV .vsraS ⟨d, a, b, 0, k⟩
  | .vmulS d a b k => encodeV .vmulS ⟨d, a, b, 0, k⟩
  | .vmv d a k => encodeV .vmv ⟨d, a, 0, 0, k⟩
  | .vmvS d a k => encodeV .vmvS ⟨d, a, 0, 0, k⟩
  | .vid d k => encodeV .vid ⟨d, 0, 0, 0, k⟩
  | .vsel d a b k => encodeV .vsel ⟨d, a, b, 0, k⟩
  | .vneg d a k => encodeV .vneg ⟨d, a, 0, 0, k⟩
  | .vabs d a k => encodeV .vabs ⟨d, a, 0, 0, k⟩
  | .vnot d a k => encodeV .vnot ⟨d, a, 0, 0, k⟩
  | .vpopc d a k => encodeV .vpopc ⟨d, a, 0, 0, k⟩
  | .vclz d a k => encodeV .vclz ⟨d, a, 0, 0, k⟩
  | .vctz d a k => encodeV .vctz ⟨d, a, 0, 0, k⟩
  | .vsext d a b k => encodeV .vsext ⟨d, a, (b.setWidth 5), 0, k⟩
  | .vzext d a b k => encodeV .vzext ⟨d, a, (b.setWidth 5), 0, k⟩
  | .vceq d a b k => encodeV .vceq ⟨(d.setWidth 5), a, b, 0, k⟩
  | .vcne d a b k => encodeV .vcne ⟨(d.setWidth 5), a, b, 0, k⟩
  | .vclt d a b k => encodeV .vclt ⟨(d.setWidth 5), a, b, 0, k⟩
  | .vcltu d a b k => encodeV .vcltu ⟨(d.setWidth 5), a, b, 0, k⟩
  | .vcle d a b k => encodeV .vcle ⟨(d.setWidth 5), a, b, 0, k⟩
  | .vcleu d a b k => encodeV .vcleu ⟨(d.setWidth 5), a, b, 0, k⟩
  | .vceqS d a b k => encodeV .vceqS ⟨(d.setWidth 5), a, b, 0, k⟩
  | .vcltS d a b k => encodeV .vcltS ⟨(d.setWidth 5), a, b, 0, k⟩
  | .mand d a b => encodeV .mand ⟨(d.setWidth 5), (a.setWidth 5), (b.setWidth 5), 0, VMask.all⟩
  | .mor d a b => encodeV .mor ⟨(d.setWidth 5), (a.setWidth 5), (b.setWidth 5), 0, VMask.all⟩
  | .mxor d a b => encodeV .mxor ⟨(d.setWidth 5), (a.setWidth 5), (b.setWidth 5), 0, VMask.all⟩
  | .mandn d a b => encodeV .mandn ⟨(d.setWidth 5), (a.setWidth 5), (b.setWidth 5), 0, VMask.all⟩
  | .mnot d a => encodeV .mnot ⟨(d.setWidth 5), (a.setWidth 5), 0, 0, VMask.all⟩
  | .mmv d a => encodeV .mmv ⟨(d.setWidth 5), (a.setWidth 5), 0, 0, VMask.all⟩
  | .mset d => encodeV .mset ⟨(d.setWidth 5), 0, 0, 0, VMask.all⟩
  | .mclr d => encodeV .mclr ⟨(d.setWidth 5), 0, 0, 0, VMask.all⟩
  | .mpopc d a k => encodeV .mpopc ⟨d, (a.setWidth 5), 0, 0, k⟩
  | .mfirst d a k => encodeV .mfirst ⟨d, (a.setWidth 5), 0, 0, k⟩
  | .msbf d a k => encodeV .msbf ⟨(d.setWidth 5), (a.setWidth 5), 0, 0, k⟩
  | .msif d a k => encodeV .msif ⟨(d.setWidth 5), (a.setWidth 5), 0, 0, k⟩
  | .vslideup d a b k => encodeV .vslideup ⟨d, a, (b.setWidth 5), 0, k⟩
  | .vslidedn d a b k => encodeV .vslidedn ⟨d, a, (b.setWidth 5), 0, k⟩
  | .vslideupS d a b k => encodeV .vslideupS ⟨d, a, b, 0, k⟩
  | .vslidednS d a b k => encodeV .vslidednS ⟨d, a, b, 0, k⟩
  | .vxchg d a b k => encodeV .vxchg ⟨d, a, b, 0, k⟩
  | .vcompress d a k => encodeV .vcompress ⟨d, a, 0, 0, k⟩
  | .vexpand d a k => encodeV .vexpand ⟨d, a, 0, 0, k⟩
  | .vperm d a b k => encodeV .vperm ⟨d, a, b, 0, k⟩
  | .vgath8 d a b k => encodeV .vgath8 ⟨d, a, b, 0, k⟩
  | .vconflict d a k => encodeV .vconflict ⟨d, a, 0, 0, k⟩
  | .vmatch d a b c k => encodeV .vmatch ⟨(d.setWidth 5), a, b, c, k⟩
  | .vprobe d a b k => encodeV .vprobe ⟨d, a, b, 0, k⟩
  | .vredsum d a b k => encodeV .vredsum ⟨d, a, b, 0, k⟩
  | .vredmax d a b k => encodeV .vredmax ⟨d, a, b, 0, k⟩
  | .vredmin d a b k => encodeV .vredmin ⟨d, a, b, 0, k⟩
  | .vredmaxu d a b k => encodeV .vredmaxu ⟨d, a, b, 0, k⟩
  | .vredand d a b k => encodeV .vredand ⟨d, a, b, 0, k⟩
  | .vredor d a b k => encodeV .vredor ⟨d, a, b, 0, k⟩
  | .vredxor d a b k => encodeV .vredxor ⟨d, a, b, 0, k⟩
  | .vredminu d a b k => encodeV .vredminu ⟨d, a, b, 0, k⟩
  | .vfadd d a b k => encodeV .vfadd ⟨d, a, b, 0, k⟩
  | .vfsub d a b k => encodeV .vfsub ⟨d, a, b, 0, k⟩
  | .vfmul d a b k => encodeV .vfmul ⟨d, a, b, 0, k⟩
  | .vfdiv d a b k => encodeV .vfdiv ⟨d, a, b, 0, k⟩
  | .vfmin d a b k => encodeV .vfmin ⟨d, a, b, 0, k⟩
  | .vfmax d a b k => encodeV .vfmax ⟨d, a, b, 0, k⟩
  | .vfsgnj d a b k => encodeV .vfsgnj ⟨d, a, b, 0, k⟩
  | .vfsqrt d a k => encodeV .vfsqrt ⟨d, a, 0, 0, k⟩
  | .vfma d a b c k => encodeV .vfma ⟨d, a, b, c, k⟩
  | .vfms d a b c k => encodeV .vfms ⟨d, a, b, c, k⟩
  | .vfnma d a b c k => encodeV .vfnma ⟨d, a, b, c, k⟩
  | .vfnms d a b c k => encodeV .vfnms ⟨d, a, b, c, k⟩
  | .vfaddS d a b k => encodeV .vfaddS ⟨d, a, b, 0, k⟩
  | .vfsubS d a b k => encodeV .vfsubS ⟨d, a, b, 0, k⟩
  | .vfmulS d a b k => encodeV .vfmulS ⟨d, a, b, 0, k⟩
  | .vfrsubS d a b k => encodeV .vfrsubS ⟨d, a, b, 0, k⟩
  | .vfabs d a k => encodeV .vfabs ⟨d, a, 0, 0, k⟩
  | .vfneg d a k => encodeV .vfneg ⟨d, a, 0, 0, k⟩
  | .vfclass d a k => encodeV .vfclass ⟨d, a, 0, 0, k⟩
  | .vfround d a k => encodeV .vfround ⟨d, a, 0, 0, k⟩
  | .vfceq d a b k => encodeV .vfceq ⟨(d.setWidth 5), a, b, 0, k⟩
  | .vfclt d a b k => encodeV .vfclt ⟨(d.setWidth 5), a, b, 0, k⟩
  | .vfcle d a b k => encodeV .vfcle ⟨(d.setWidth 5), a, b, 0, k⟩
  | .vfcun d a b k => encodeV .vfcun ⟨(d.setWidth 5), a, b, 0, k⟩
  | .vfcvt d a b k => encodeV .vfcvt ⟨d, a, b, 0, k⟩
  | .vf2i d a b k => encodeV .vf2i ⟨d, a, b, 0, k⟩
  | .vi2f d a b k => encodeV .vi2f ⟨d, a, b, 0, k⟩
  | .vf2iT d a b k => encodeV .vf2iT ⟨d, a, b, 0, k⟩
  | .vqamax d a b k => encodeV .vqamax ⟨d, a, b, 0, k⟩
  | .vqscale d a b => encodeV .vqscale ⟨d, a, b, 0, VMask.all⟩
  | .vqpack d a b => encodeV .vqpack ⟨d, a, b, 0, VMask.all⟩
  | .vqunpack d a b k => encodeV .vqunpack ⟨d, a, b, 0, k⟩
  | .vfwht d a b => encodeV .vfwht ⟨d, a, b, 0, VMask.all⟩
  | .vsfu d a b k => encodeV .vsfu ⟨d, a, b, 0, k⟩
  | .vfredsumO d a b k => encodeV .vfredsumO ⟨d, a, b, 0, k⟩
  | .vfredsumT d a b k => encodeV .vfredsumT ⟨d, a, b, 0, k⟩
  | .vfredmax d a b k => encodeV .vfredmax ⟨d, a, b, 0, k⟩
  | .vfredmin d a b k => encodeV .vfredmin ⟨d, a, b, 0, k⟩
  | .vfdotO d a b c k => encodeV .vfdotO ⟨d, a, b, c, k⟩
  | .vhktest d a k => encodeV .vhktest ⟨(d.setWidth 5), a, 0, 0, k⟩
  | .vhksel d a b k => encodeV .vhksel ⟨d, a, b, 0, k⟩
  | .vhkcnt d a b k => encodeV .vhkcnt ⟨d, a, b, 0, k⟩
  | .vtopk d a b k => encodeV .vtopk ⟨d, a, b, 0, k⟩
  | .fadd d a b => encodeF3 3 11 0 f3WWW ⟨d, a, b, 0, VMask.all⟩
  | .fsub d a b => encodeF3 3 11 1 f3WWW ⟨d, a, b, 0, VMask.all⟩
  | .fmul d a b => encodeF3 3 11 2 f3WWW ⟨d, a, b, 0, VMask.all⟩
  | .fdiv d a b => encodeF3 3 11 3 f3WWW ⟨d, a, b, 0, VMask.all⟩
  | .fma d a b => encodeF3 3 12 0 f3WWW ⟨d, a, b, 0, VMask.all⟩
  | .fmin d a b => encodeF3 3 12 1 f3WWW ⟨d, a, b, 0, VMask.all⟩
  | .fmax d a b => encodeF3 3 12 2 f3WWW ⟨d, a, b, 0, VMask.all⟩
  | .fsqrt d a => encodeF3 3 12 3 f3WWZ ⟨d, a, 0, 0, VMask.all⟩
  | .fceq d a b => encodeF3 3 13 0 f3WWW ⟨d, a, b, 0, VMask.all⟩
  | .fclt d a b => encodeF3 3 13 1 f3WWW ⟨d, a, b, 0, VMask.all⟩
  | .fcle d a b => encodeF3 3 13 2 f3WWW ⟨d, a, b, 0, VMask.all⟩
  | .fcvt d a b => encodeF3 3 13 3 f3WWW ⟨d, a, b, 0, VMask.all⟩
  | .f2i d a => encodeF3 3 14 0 f3WWZ ⟨d, a, 0, 0, VMask.all⟩
  | .i2f d a => encodeF3 3 14 1 f3WWZ ⟨d, a, 0, 0, VMask.all⟩
  | .fclass d a => encodeF3 3 14 2 f3WWZ ⟨d, a, 0, 0, VMask.all⟩
  | .fabs d a => encodeF3 3 14 3 f3WWZ ⟨d, a, 0, 0, VMask.all⟩
  | .fcadapt d a => encodeF3 3 15 0 f3WWZ ⟨d, a, 0, 0, VMask.all⟩
  | .vld d a b k => encodeV .vld ⟨d, a, b, 0, k⟩
  | .vst d a b k => encodeV .vst ⟨d, a, b, 0, k⟩
  | .vlds d a b k => encodeV .vlds ⟨d, a, b, 0, k⟩
  | .vsts d a b k => encodeV .vsts ⟨d, a, b, 0, k⟩
  | .vldx d a b k => encodeV .vldx ⟨d, a, b, 0, k⟩
  | .vstx d a b k => encodeV .vstx ⟨d, a, b, 0, k⟩
  | .vldff d a k => encodeV .vldff ⟨d, a, 0, 0, k⟩
  | .vstxa d a b c k => encodeV .vstxa ⟨d, a, b, c, k⟩
  | .vldw d a b c k => encodeV .vldw ⟨d, a, b, c, k⟩
  | .vldrow d a b k => encodeV .vldrow ⟨d, a, b, 0, k⟩
  | .vstrow d a b k => encodeV .vstrow ⟨d, a, b, 0, k⟩
  | .vamorow d a b c k => encodeV .vamorow ⟨d, a, b, c, k⟩
  | .vldsync d a b c k => encodeV .vldsync ⟨d, a, b, c, k⟩
  | .pload d a b => encodeV .pload ⟨d, a, b, 0, VMask.all⟩
  | .prow a b => encodeV .prow ⟨0, a, b, 0, VMask.all⟩
  | .mma d a k => encodeV .mma ⟨d, a, 0, 0, k⟩
  | .mmav d a k => encodeV .mmav ⟨d, a, 0, 0, k⟩
  | .pgang a => encodeV .pgang ⟨0, a, 0, 0, VMask.all⟩
  | .vdcfg a => encodeV .vdcfg ⟨0, a, 0, 0, VMask.all⟩
  | .pbnd a b => encodeV .pbnd ⟨0, a, b, 0, VMask.all⟩
  | .ptree d a => encodeV .ptree ⟨d, a, 0, 0, VMask.all⟩
  | .tmma d a b => encodeV .tmma ⟨(d.setWidth 5), a, b, 0, VMask.all⟩
  | .tzero d => encodeV .tzero ⟨(d.setWidth 5), 0, 0, 0, VMask.all⟩
  | .tld d a => encodeV .tld ⟨(d.setWidth 5), a, 0, 0, VMask.all⟩
  | .tst d a => encodeV .tst ⟨(d.setWidth 5), a, 0, 0, VMask.all⟩
  | .tacc d a b => encodeV .tacc ⟨(d.setWidth 5), a, b, 0, VMask.all⟩
  | .trow d a b => encodeV .trow ⟨(d.setWidth 5), a, b, 0, VMask.all⟩
  | .fork d a b => encodeF3 6 0 0 f3WWW ⟨d, a, b, 0, VMask.all⟩
  | .join a => encodeF3 6 0 1 f3ZWZ ⟨0, a, 0, 0, VMask.all⟩
  | .retire => encodeF3 6 0 2 f3ZZZ ⟨0, 0, 0, 0, VMask.all⟩
  | .launch d a => encodeF3 6 0 3 f3WWZ ⟨d, a, 0, 0, VMask.all⟩
  | .curtain a b => encodeF3 6 1 0 f3ZWW ⟨0, a, b, 0, VMask.all⟩
  | .curtainx d a b => encodeF3 6 1 1 f3WWW ⟨d, a, b, 0, VMask.all⟩
  | .prodctlQuery d a b => encodeF3 6 1 2 f3WWW ⟨d, a, b, 0, VMask.all⟩
  | .prodctlShare d a b => encodeF3 6 1 2 f3WWW ⟨d, a, b, 0, VMask.all⟩
  | .prodctlPause d a b => encodeF3 6 1 2 f3WWW ⟨d, a, b, 0, VMask.all⟩
  | .prodctlResume d a b => encodeF3 6 1 2 f3WWW ⟨d, a, b, 0, VMask.all⟩
  | .prodctlKill d a b => encodeF3 6 1 2 f3WWW ⟨d, a, b, 0, VMask.all⟩
  | .prodctlGrant d a b => encodeF3 6 1 2 f3WWW ⟨d, a, b, 0, VMask.all⟩
  | .prodctlPreempt d a b => encodeF3 6 1 2 f3WWW ⟨d, a, b, 0, VMask.all⟩
  | .qbind d a b => encodeF3 6 1 3 f3WWW ⟨d, a, b, 0, VMask.all⟩
  | .vacq d a => encodeF3 6 2 0 f3WWZ ⟨d, a, 0, 0, VMask.all⟩
  | .vrel => encodeF3 6 2 1 f3ZZZ ⟨0, 0, 0, 0, VMask.all⟩
  | .boost d a => encodeF3 6 2 2 f3WWZ ⟨d, a, 0, 0, VMask.all⟩
  | .lde d a => encodeF3 6 3 0 f3WWZ ⟨d, a, 0, 0, VMask.all⟩
  | .ldf d a => encodeF3 6 3 1 f3WWZ ⟨d, a, 0, 0, VMask.all⟩
  | .stf d a => encodeF3 6 3 2 f3WWZ ⟨d, a, 0, 0, VMask.all⟩
  | .ste d a => encodeF3 6 3 3 f3WWZ ⟨d, a, 0, 0, VMask.all⟩
  | .feq d a => encodeF3 6 4 0 f3WWZ ⟨d, a, 0, 0, VMask.all⟩
  | .fefill a => encodeF3 6 4 1 f3ZWZ ⟨0, a, 0, 0, VMask.all⟩
  | .feclr a => encodeF3 6 4 2 f3ZWZ ⟨0, a, 0, 0, VMask.all⟩
  | .amoadd d a p z => encodeFS 6 5 d a p z
  | .amoswap d a p z => encodeFS 6 6 d a p z
  | .amomax d a p z => encodeFS 6 7 d a p z
  | .amomin d a p z => encodeFS 6 8 d a p z
  | .amoand d a p z => encodeFS 6 9 d a p z
  | .amoor d a p z => encodeFS 6 10 d a p z
  | .amocas d a p z => encodeFS 6 11 d a p z
  | .cpy d a b => encodeF3 6 12 0 f3WWW ⟨d, a, b, 0, VMask.all⟩
  | .cpy2d d a b => encodeF3 6 12 1 f3WWW ⟨d, a, b, 0, VMask.all⟩
  | .cpyg d a b => encodeF3 6 12 2 f3WWW ⟨d, a, b, 0, VMask.all⟩
  | .nmr d a b => encodeF3 6 12 3 f3WWW ⟨d, a, b, 0, VMask.all⟩
  | .coll d a b => encodeF3 6 13 0 f3WWW ⟨d, a, b, 0, VMask.all⟩
  | .sfu d a b => encodeF3 6 13 1 f3WWW ⟨d, a, b, 0, VMask.all⟩
  | .msgs d a b => encodeF3 6 13 2 f3WWW ⟨d, a, b, 0, VMask.all⟩
  | .dispatch _ _ => []
  | .parkedRetest _ _ => []
  | .yieldEnd _ _ => []
  | .patienceTrap _ _ => []
  | .resultArrival _ _ _ => []
  | .storeDrain _ _ => []
  | .trapEntry _ _ => []
  | .stripStart _ => []
  | .stripEnd _ _ => []
  | .entryComplete _ _ => []
  | .treePass _ => []
  | .tileStart _ => []
  | .verdictReadReturn _ _ => []
  | .pinGrant _ => []
  | .migRewalk _ _ => []
  | .mergeClose _ => []
  | .writeNotice _ => []
  | .feRequest _ => []
  | .feRetry _ _ => []
  | .curtainHome _ => []
  | .stagehandCommand _ _ => []
  | .engineOperationDone _ _ => []
  | .sfuBatch _ => []
  | .sfuResult _ => []
  | .productionEnd _ => []
  | .preemption _ _ _ => []
  | .sealMismatch _ _ => []
  | .errorWindowExpiry _ => []
  | .retselMark _ _ => []
  | .stackLevelChange _ _ _ => []
  | .powerControlTick _ _ => []
  | .pllRelock _ _ => []
  | .boostCharge _ => []
  | .boostRefill _ => []
  | .slackWindow _ _ => []
  | .shelfFrame _ _ => []
  | .nextClassRestore _ => []
  | .shedDeadline _ _ => []
  | .dimmerBlind _ => []
  | .dimcurveWrite _ _ => []
  | .dimblindWrite _ => []
  | .resetRelease => []
  | .stageComplete _ => []
  | .stageTimeout => []
  | .mctlSvnup => []
  | .mctlReset => []
  | .attestation _ => []
  | .attestationReady => []
  | .mgmtRegisterWrite _ _ => []
  | .halt => []
  | .resume => []
  | .stepOne _ => []
  | .stageDoorWrite _ => []
  | .stageDoorRead _ => []
  | .stageDoorReadresp _ => []
  | .stageDoorAtomic _ => []
  | .stageDoorMsg _ => []
  | .stageDoorAck _ => []
  | .stageDoorNack _ => []
  | .stageDoorColl _ => []
  | .collComplete _ => []
  | .retransmit _ _ => []
  | .connectionLost _ _ => []
  | .msgsBusyRetry _ _ => []
  | .roceRdmaWrite _ => []
  | .roceRdmaRead _ => []
  | .roceSend _ => []
  | .roceUnsupported _ => []
  | .invalidFrame _ => []
  | .rowBufferGrant _ => []
  | .linkRetry _ => []
  | .dynamicAddressAssignment _ => []
  | .stageDoorKindDiscarded _ => []

/-- The one instruction that stands for its words: the seven PRODCTL rows share theirs (R112; log 4). -/
noncomputable def canonical : Instr → Instr
  | .prodctlShare d a b => .prodctlQuery d a b
  | .prodctlPause d a b => .prodctlQuery d a b
  | .prodctlResume d a b => .prodctlQuery d a b
  | .prodctlKill d a b => .prodctlQuery d a b
  | .prodctlGrant d a b => .prodctlQuery d a b
  | .prodctlPreempt d a b => .prodctlQuery d a b
  | i => i

/-- The words of a table row's `nbits` bits `w` in fetch order: the table writes the PP word in the upper half (log 3).
Words above are zero. -/
def tableWords (nbits w : Nat) : List Half :=
  (if nbits ≤ 16 then [BitVec.ofNat 16 w] else [BitVec.ofNat 16 (w >>> 16), BitVec.ofNat 16 w]) ++ [0, 0, 0]

/-- The instruction the decoder reads from a table row's bits. -/
noncomputable def decodeTableWord (nbits w : Nat) : Option Instr :=
  match decode (tableWords nbits w) with
  | .ok i _ => some i
  | _ => none

end Sys2Proof
end

