-- ==== Sys2Proof/Machine/FullEmpty.lean ====
section
/-! DEFINITION. Full/empty words with their wait lists, joins at a handle's home, and curtains (14 R388 to R396; 04 R97). -/

namespace Sys2Proof.Machine

/-! Overlap with the context's vector instructions (R351). -/

/-- The addresses and lengths of an instruction's accesses where they follow from its g operands: unit stride and strided forms;
none elsewhere (R350, R353). -/
def vecRanges (e : QEntry) : Option (List (Word × Nat)) :=
  let bits := vtSew e.vtype
  match e.op with
  | .vld | .vst | .vldff =>
    let n := roundUp e.vl (unitOf e)
    some ((e.ga, (n * bits + 7) / 8) :: match blockFmt (vtFmt e.vtype) with
      | some b => [(e.gb, n / unitOf e * if isMx b then 1 else 2)]
      | none => [])
  | .vlds | .vsts => some (tab e.vl 0 fun i => (e.ga + BitVec.ofNat 64 i * e.gb, max (bits / 8) 1))
  | .tld | .tst => some [(e.ga, 512)]
  | .mmav => some [(e.vdcfg &&& ~~~7, 8)]
  | .vqpack => some [(e.acc.headD 0, 80)]
  | _ => none

/-- A range cut at the pages it spans. -/
def pageChunks (a : Word) (len : Nat) : List (Word × Nat) :=
  let o := a.toNat % 65536
  if len = 0 then [] else
  tab ((o + len - 1) / 65536 + 1) 0 fun i =>
    if i = 0 then (a, min len (65536 - o))
    else (a + BitVec.ofNat 64 (65536 * i - o), min 65536 (o + len - 65536 * i))

/-- The place of an address of entry `e` of context `x`: under a pin it holds, else as it translates now. -/
def placeNow (s : State) (x : Nat) (e : QEntry) (a : Word) : Option Loc :=
  let c := ctxCore x
  let va := a.toNat % 2 ^ 56
  if isNear a then some (.scratch c (ctxProd x) (a.toNat - nearBase)) else
  match (coreAt s c).pins.find? fun p => p.ctx == x && p.seq == e.seq && tlbMatch p.tlb p.tlb.asid va with
  | some p => some (.phys (tlbPhys p.tlb va))
  | none =>
    match (translate s c va).1 with
    | .page t => some (.phys (tlbPhys t va))
    | _ => none

/-- Whether an incomplete instruction of context `x` may reach a place for which `test` holds, of so many bytes: every place counts
where its own are not known (R351). -/
def vecReaches (s : State) (x : Nat) (e : QEntry) (test : Loc → Nat → Bool) : Bool :=
  match vecRanges e with
  | none => true
  | some l => l.any fun (a, len) => (pageChunks a len).any fun (b, k) => (placeNow s x e b).any fun m => test m k

/-- Whether it may touch `n` bytes at a place. -/
def vecOverlaps (s : State) (x : Nat) (e : QEntry) (l : Loc) (n : Nat) : Bool := vecReaches s x e fun m k => locOverlap m k l n

/-- Whether an access of the acting slot waits for an earlier vector instruction of its context for which `test` holds. -/
def vecBefore (s : State) (test : Nat → QEntry → Bool) : Bool :=
  match myCtx s with
  | some x => vecAhead s (test x)
  | none => false

/-- Whether a scalar access waits for an earlier vector store of the slot's context (R351). -/
def storeAhead (s : State) (l : Loc) (n : Nat) : Bool := vecBefore s fun x e => writesMem e && vecOverlaps s x e l n

/-- Whether a scalar access to a place waits for the vector memory unit (R351, R378). -/
def unitAhead (s : State) (l : Loc) (n : Nat) : Bool := storeAhead s l n || engineOwns s l n

/-! Full/empty words (R319, R333, R388 to R391). -/

/-- Whether the word at a place is full (R319, R333, R388). -/
def isFull (s : State) (l : Loc) : Bool :=
  match l with
  | .scratch c p off => (scratchAt s c p).full.contains (off / 8)
  | .phys pa => s.full.contains (pa / 8)

/-- A number added to a rising list. -/
def addRising (l : List Nat) (k : Nat) : List Nat :=
  match l with
  | [] => [k]
  | j :: t => if j = k then j :: t else if k < j then k :: j :: t else j :: addRising t k

/-- A rising list of numbers with one added or taken out. -/
def toggle (l : List Nat) (k : Nat) (b : Bool) : List Nat := if b then addRising l k else l.filter (· != k)

/-- The word's full/empty bit set. -/
def setFull (s : State) (l : Loc) (b : Bool) : State :=
  match l with
  | .scratch c p off =>
    let x := scratchAt s c p
    setScratch s c p { x with full := toggle x.full (off / 8) b }
  | .phys pa => { s with full := toggle s.full (pa / 8) b }

/-- The bytes of a place at its home. -/
def homeBytes (s : State) (l : Loc) (n : Nat) : List Byte :=
  match l with
  | .scratch c p off => scratchBytes s c p off n
  | .phys pa => memBytes s.mem pa n

/-- Bytes written at the home of a place, within one line. -/
def homeStore (s : State) (l : Loc) (bs : List Byte) : State :=
  match l with
  | .scratch c p off => scratchWrite s c p off bs
  | .phys pa => homeWrite s 1024 pa bs

/-- Whether the home copy is poisoned. -/
def homePoisoned (s : State) (l : Loc) : Bool :=
  match l with
  | .scratch c p off => (scratchAt s c p).poison.contains (off / 32)
  | .phys pa => s.poisoned.contains (lineOf pa)

/-- The 64-bit word at a place's home. -/
def homeWord (s : State) (l : Loc) : Word := BitVec.ofNat 64 (leNat (homeBytes s l 8))

/-- Whether the word a join waits on reads zero at its production's scope D: at core scope as its core sees it, else at its
home. DESIGN CHOICE: a poisoned word never does (R97, R323, R436; log 32). -/
def joinZero (s : State) (q : FeReq) : Bool :=
  let core := match prodAt s (slotAt s q.slot).prodid with
    | some p => p.domain == 0
    | none => true
  let c := slotCore q.slot
  !(if core then locPoisoned s c q.loc else homePoisoned s q.loc) &&
    leNat (if core then locBytes s c q.loc 8 else homeBytes s q.loc 8) == 0

/-- cond of R390; a join waits for zero (R97). -/
def feCond (s : State) (q : FeReq) : Bool :=
  match q.kind with
  | .lde | .ldf => isFull s q.loc
  | .stf => !isFull s q.loc
  | .join => joinZero s q
  | .ste | .feq | .fefill | .feclr => true

/-- Scope F of R388. -/
def feScope (l : Loc) : Scope :=
  match l with
  | .scratch _ _ _ => .core
  | .phys _ => .system

/-- The directory's part in a full/empty access of a memory word: every copy on the home die is invalidated (R389). -/
def feRecall (s : State) (l : Loc) : State :=
  match l with
  | .scratch _ _ _ => s
  | .phys pa => dropLine s (lineOf pa) 1024

/-- The action at the home (R388, R389). -/
def feAct (s : State) (q : FeReq) : State :=
  match q.kind with
  | .join => s
  | .ldf | .feq => feRecall s q.loc
  | .lde | .feclr => setFull (feRecall s q.loc) q.loc false
  | .fefill => setFull (feRecall s q.loc) q.loc true
  | .stf => setFull (homeStore s q.loc (leBytes 8 q.data.toNat)) q.loc true
  | .ste => setFull (homeStore s q.loc (leBytes 8 q.data.toNat)) q.loc false

/-- A request is served: the action at the home, the register written at that moment, the acquire, and the slot goes on
(R388, R389, R437). -/
def feServe (s : State) (q : FeReq) : State :=
  let v := homeWord s q.loc
  let full := isFull s q.loc
  let bad := homePoisoned s q.loc
  let s := feAct s q
  let c := slotCore q.slot
  let s := match q.kind with
    | .lde | .ldf =>
      let s := if bad then setSlot s q.slot (poisonG (slotAt s q.slot) (greg q.reg) q.ea)
        else writeAt s q.slot (greg q.reg) v
      acquireAt s c (feScope q.loc)
    | .feq => writeAt s q.slot (greg q.reg) (if full then 1 else 0)
    | .join => acquireAt s c (match prodAt s (slotAt s q.slot).prodid with
        | some p => domainScope p.domain
        | none => .core)
    | .stf | .ste | .fefill | .feclr => s
  finishAt s q.slot

/-- The wait list of a place's home (R390, R391). -/
def feList (s : State) (l : Loc) : List FeReq :=
  match l with
  | .scratch c _ _ => (coreAt s c).feWait
  | .phys pa => (dieAt s (homeDie pa)).feWait

/-- The wait list of a place's home replaced. -/
def setFeList (s : State) (l : Loc) (q : List FeReq) : State :=
  match l with
  | .scratch c _ _ => setCore s c { coreAt s c with feWait := q }
  | .phys pa => setDie s (homeDie pa) { dieAt s (homeDie pa) with feWait := q }

/-- settle of R390: the oldest listed request on the word whose condition holds is served, until none is left. -/
def feSettle (s : State) (l : Loc) (fuel : Nat) : State :=
  match fuel with
  | 0 => s
  | fuel + 1 =>
    match (feList s l).find? fun q => q.loc == l && feCond s q with
    | none => s
    | some q => feSettle (feServe (setFeList s l ((feList s l).filter fun r => r.slot != q.slot)) q) l fuel

/-- Entries a home's wait list holds (R391). -/
def feCapacity (l : Loc) : Nat :=
  match l with
  | .scratch _ _ _ => 16
  | .phys _ => 4096

/-- Arrival of a request at its word's home (R390, R391). -/
def feArrive (s : State) (q : FeReq) : State :=
  if feCond s q then
    let s := feServe s q
    feSettle s q.loc ((feList s q.loc).length + 1)
  else if (feList s q.loc).length < feCapacity q.loc then
    setFeList s q.loc (feList s q.loc ++ [q])
  else
    setSlot s q.slot { slotAt s q.slot with waiting := .refused q (cycleOf s (slotCore q.slot) + 256) }

/-- The n-th of a list taken out. -/
def dropAt {α : Type} (l : List α) (n : Nat) : List α := l.take n ++ l.drop (n + 1)

/-- FE_REQUEST: a request on its way reaches its home, once no vector instruction owns the line (R378, R388 to R390). -/
def execFeRequest (n : Nat) (s : State) : Result :=
  match s.feReqs[n]? with
  | none => .next s
  | some q => if engineOwns s q.loc 8 then .next s else .next (feArrive { s with feReqs := dropAt s.feReqs n } q)

/-- FE_RETRY: a refused request is sent again after 256 local cycles (R391). -/
def execFeRetry (c i : Nat) (s : State) : Result :=
  let n := 16 * c + i
  match (slotAt s n).waiting with
  | .refused q t =>
    if t ≤ cycleOf s c then
      .next { setSlot s n { slotAt s n with waiting := .request q.ea } with feReqs := s.feReqs ++ [q] }
    else .next s
  | _ => .next s

/-- The request of the acting slot leaves it; the slot parks until its home has performed it (R389). -/
def feIssue (s : State) (why : ParkWhy) (q : FeReq) : State :=
  let s := park s why
  { setMe s { me s with waiting := .request q.ea } with feReqs := s.feReqs ++ [q] }

/-- Whether the slot already waits for the answer of the instruction it is on. -/
def alreadySent (s : State) : Bool := (me s).waiting != .none

/-- Checks 1 to 3 of R389: those of R142, translation alone among them; the page's FE attribute; then R, W and U. -/
def feCheck (s : State) (ea : Word) : Access × State :=
  if ea.toNat % 8 ≠ 0 then (.trap 6, s) else
  match checkAddr s (myCore s) (me s).prodid (me s).sup false needNone ea with
  | (.ok l leaf, s) =>
    match l with
    | .scratch _ _ _ => (.ok l leaf, s)
    | .phys pa =>
      if !bitOf leaf 9 || isAperture pa then (.trap 18, s)
      else if !permits leaf needRW (isUser (me s)) then (.trap 8, s)
      else (.ok l leaf, s)
  | r => r

/-- The translation an access of the acting slot was made under (R344). -/
def underPage (s : State) (l : Loc) (ea : Word) : Option Tlb :=
  match l, (translate s (myCore s) (ea.toNat % 2 ^ 56)).1 with
  | .phys _, .page t => some t
  | _, _ => none

/-- A full/empty instruction: its checks, of which the queue ports' comes last, the release of those that release, then its
request; the core's own written bytes of the word are at home by then, and the vector stores before it that overlap the word are made
(R351, R388, R389). -/
def fullEmpty (kind : FeKind) (a : GReg) (data dst : List GReg) (s : State) : Result :=
  if alreadySent s then .next s else
  withOps s [a] [] [] fun vs s' =>
    let ea := opnd vs 0
    match feCheck s' ea with
    | (.trap cause, _) => .next (accessTrap s cause ea)
    | (.migrating, _) => .next (park s (.migrating ea (cycleOf s (myCore s) + 256)))
    | (.ok l _, s') =>
      if acqWaits s' s'.cur then .next (park s (.entry ea)) else
      withOps s [a] data dst fun vs s' =>
        let rel : Bool := kind == .stf || kind == .ste || kind == .fefill || kind == .feclr
        if !(me s).sbuf.isEmpty || (rel && !releaseReady s) || loadsAhead s || storeAhead s l 8 then .next (park s (.entry ea)) else
        let s' := if rel then releaseAt s' (myCore s') (feScope l) else s'
        let s' := match l with
          | .phys pa => writeBackLine s' (myCore s') (lineOf pa)
          | .scratch _ _ _ => s'
        .next (feIssue s' (.fullEmpty ea) ⟨kind, ((data ++ dst).headD 0).toNat, s'.cur, l, ea, opnd vs 1, underPage s' l ea⟩)

/-- LDE (R388). -/
def execLde (d a : GReg) (s : State) : Result := fullEmpty .lde a [] [d] s
/-- LDF (R388). -/
def execLdf (d a : GReg) (s : State) : Result := fullEmpty .ldf a [] [d] s
/-- STF (R388). -/
def execStf (d a : GReg) (s : State) : Result := fullEmpty .stf a [d] [] s
/-- STE (R388). -/
def execSte (d a : GReg) (s : State) : Result := fullEmpty .ste a [d] [] s
/-- FEQ (R388). -/
def execFeq (d a : GReg) (s : State) : Result := fullEmpty .feq a [] [d] s
/-- FEFILL (R388). -/
def execFefill (a : GReg) (s : State) : Result := fullEmpty .fefill a [] [] s
/-- FECLR (R388). -/
def execFeclr (a : GReg) (s : State) : Result := fullEmpty .feclr a [] [] s

/-! Curtains (R392 to R395). -/

/-- The curtain at a home, zero before its first arrival (R392). -/
def curtainAt (s : State) (home prod index : Nat) : Curtain :=
  match s.curtains.find? fun t => t.home == home && t.prod == prod && t.index == index with
  | some t => t
  | none => ⟨home, prod, index, 0, 0, 0⟩

/-- A curtain replaced. -/
def setCurtain (s : State) (t : Curtain) : State :=
  { s with curtains := t :: s.curtains.filter fun u => !(u.home == t.home && u.prod == t.prod && u.index == t.index) }

/-- Scope C: die for a die's table, package for the door die's, home 16 (R392). -/
def curtainScope (home : Nat) : Scope := if home = 16 then .package else .die

/-- Every slot that waits on a generation of a curtain departs (R393, R394). -/
def openCurtain (s : State) (home prod index : Nat) (ag : BitVec 32) : State :=
  let is := (s.slots.filter fun x => x.2.prodid == prod && x.2.waiting == .arrived home index ag).map (·.1)
  is.eraseDups.foldl (fun s i => finishAt (acquireAt s (slotCore i) (curtainScope home)) i) s

/-- A task of a shed production stops at a curtain arrival, to be saved (R418). -/
def shedArrival (s : State) (i : Nat) : State :=
  let x := slotAt s i
  match prodAt s x.prodid with
  | some p =>
    if p.shed then
      match x.st with
      | .ready => setSlot s i { x with st := .stopped (.preempting .curtain) none }
      | .parked w => setSlot s i { x with st := .stopped (.preempting .curtain) (some w) }
      | _ => s
    else s
  | none => s

/-- What an arrival with count `n` makes of its curtain, and whether it opens it (R393). -/
def countArrival (t : Curtain) (n : Nat) : Curtain × Bool :=
  if t.count + 1 = n then ({ t with gen := t.gen + 1, count := 0, n := 0 }, true)
  else ({ t with count := t.count + 1, n := n }, false)

/-- Whether an arrival with count `n` is a curtain fault at the home (R393). -/
def wrongCount (t : Curtain) (n : Nat) : Bool := t.count != 0 && n != t.n

/-- An arrival counted at its curtain's home: the slots of the generation depart if it opens (R393). -/
def arriveAt (s : State) (t : Curtain) (n : Nat) : State :=
  let (u, opens) := countArrival t n
  let s := setCurtain s u
  if opens then openCurtain s t.home t.prod t.index t.gen else s

/-- A `curtain` reaches its home: it is counted and waits for the generation, or is at fault (R393). -/
def curtainArrive (s : State) (q : CurtainReq) : State :=
  let t := curtainAt s q.home q.prod q.index
  if wrongCount t q.n then
    let addr := match (slotAt s q.slot).waiting with
      | .arriving n => n
      | _ => 0
    takeTrapAt (setSlot s q.slot { slotAt s q.slot with waiting := .none }) q.slot 19 addr 0
  else
    let s := setSlot s q.slot { slotAt s q.slot with waiting := .arrived q.home q.index t.gen }
    arriveAt (shedArrival s q.slot) t q.n

/-- A home's answer reaches the register that waits for it (R90, R393). -/
def curtainAnswer (s : State) (q : CurtainReq) (r : Nat × Word) : State :=
  deliver s q.slot ⟨r.1, r.2, false, 0, .none, none, none⟩

/-- CURTAIN_HOME: an arrival on its way reaches its curtain's home, or an answer its register (R393). -/
def execCurtainHome (n : Nat) (s : State) : Result :=
  match s.curtainReqs[n]? with
  | none => .next s
  | some q =>
    let s := { s with curtainReqs := dropAt s.curtainReqs n }
    match q.answer with
    | some r => .next (curtainAnswer s q r)
    | none => .next (curtainArrive s q)

/-- The check of the curtain instructions: reserved fields, the allotment, and N of `curtain` (R392, R393). -/
def curtainBad (s : State) (x n : Word) (query : Bool) : Bool :=
  let allotted := match prodAt s (me s).prodid with
    | some p => if bitOf x 15 then p.pcurtains else p.curtains
    | none => 0
  fld x 16 48 != 0 || fld x 8 7 != 0 || fld n 16 48 != 0 || decide (allotted ≤ fld x 0 8) || (me s).sup || (!query && n == 0)

/-- The home of the curtain that g[a] names (R392). -/
def curtainHomeOf (s : State) (x : Word) : Nat := if bitOf x 15 then 16 else coreDie (myCore s)

/-- CURTAIN: its check, the release at C, and the arrival sent; the privilege trap in the handler state (R393, R427). -/
def execCurtain (a b : GReg) (s : State) : Result :=
  if (me s).handler then privTrap s
  else if alreadySent s then .next s
  else withOps s [a, b] [] [] fun vs s' =>
    let x := opnd vs 0
    if curtainBad s x (opnd vs 1) false then .next (takeTrap s 19 x)
    else if !releaseReady s then .next (park s (.entry 0))
    else
      let home := curtainHomeOf s x
      let s' := park (releaseAt s' (myCore s') (curtainScope home)) (.curtain x)
      .next { setMe s' { me s' with waiting := .arriving x } with
        curtainReqs := s'.curtainReqs ++ [⟨s'.cur, home, (me s').prodid, fld x 0 8, (opnd vs 1).toNat, none⟩] }

/-- The answer to a `curtainx` leaves its home: g[d] is pending, and the slot goes on (R90, R393). -/
def sendAnswer (s : State) (d : GReg) (home index : Nat) (n v : Word) : State :=
  let s := setMe s (pendG (me s) d 0)
  advance { s with curtainReqs := s.curtainReqs ++ [⟨s.cur, home, (me s).prodid, index, n.toNat, some (d.toNat, v)⟩] }

/-- CURTAINX: a query's acquire, or an arrival, at the home as it issues, which keeps the curtain fault precise; the answer
follows (R393; log 26). -/
def execCurtainx (d a b : GReg) (s : State) : Result :=
  withOps s [a, b] [] [d] fun vs s' =>
    let x := opnd vs 0
    let n := opnd vs 1
    let home := curtainHomeOf s x
    let t := curtainAt s home (me s).prodid (fld x 0 8)
    if curtainBad s x n true then .next (takeTrap s 19 x)
    else if n = 0 then
      .next (acquireAt (sendAnswer s' d home (fld x 0 8) n (t.gen.setWidth 64)) (myCore s') (curtainScope home))
    else if !releaseReady s then .next (park s (.entry 0))
    else if wrongCount t n.toNat then .next (takeTrap s 19 x)
    else
      let s' := sendAnswer (releaseAt s' (myCore s') (curtainScope home)) d home (fld x 0 8) n (t.gen.setWidth 64)
      .next (arriveAt (shedArrival s' s'.cur) t n.toNat)

end Sys2Proof.Machine
end

