-- ==== Sys2Proof/Machine/Ports.lean ====
section
/-! DEFINITION. The door die's ports: connection and window tables, the stage-door transport both ways, RoCE, mailboxes and
the events of chapter 18 (R453 to R463). Collectives are in Machine/Collectives.lean. -/

namespace Sys2Proof.Machine

/-! The mailbox region and its tables (R454, R455). -/

/-- The port core: the lowest-numbered core whose MBOXBASE is non-zero (R454). -/
def portCore (s : State) : Option Nat := (s.cores.find? fun (_, x) => x.mbox != 0).map (·.1)

/-- The physical address of a byte of core `c`'s mailbox region, read at its home as the walker reads (R340, R454). -/
def regionPhys (s : State) (c off : Nat) : Option Nat :=
  let va := (coreAt s c).mbox.toNat % 2 ^ 56 + off
  match walk s c va with
  | .page t => if isHbm (tlbPhys t va) && !s.poisoned.contains (lineOf (tlbPhys t va)) then some (tlbPhys t va) else none
  | _ => none

/-- Whether a byte of core `c`'s mailbox region lies in a page that migrates: what reads it waits and walks again (R346, R454). -/
def regionWaits (s : State) (c off : Nat) : Bool :=
  match walk s c ((coreAt s c).mbox.toNat % 2 ^ 56 + off) with
  | .migrating _ => true
  | _ => false

/-- Whether the connection and window tables wait for a migration (R346, R454). -/
def tableWaits (s : State) : Bool := (portCore s).any fun c => regionWaits s c 0x8000

/-- A word of the port core's mailbox region; none with no port core (R454). -/
def regionWord (s : State) (off : Nat) : Option Word := do
  let c ← portCore s
  let pa ← regionPhys s c off
  return BitVec.ofNat 64 (leNat (memBytes s.mem pa 8))

/-- A connection entry (R455). -/
structure ConnEntry where
  kind   : Nat
  port   : Nat
  rwin   : Nat
  dcore  : Nat
  dmbox  : Nat
  remote : Nat
  deriving DecidableEq, Repr

/-- Connection entry `n`, where it is valid (R455). -/
def connEntry (s : State) (n : Nat) : Option ConnEntry := do
  if n ≥ 64 then none
  let w ← regionWord s (0x8000 + 32 * n)
  let d ← regionWord s (0x8018 + 32 * n)
  if bitOf w 63 && fld w 61 2 != 3 then
    return ⟨fld w 61 2, fld w 48 5, fld w 0 8, fld d 54 10, fld d 47 7, fld d 0 24⟩
  else none

/-- Connection entry `n` where it is valid and of the stage-door (R455). -/
def stageConn (s : State) (n : Nat) : Option ConnEntry := do
  let e ← connEntry s n
  if e.kind ≤ 1 then return e else none

/-- A window entry (R455). -/
structure WinEntry where
  rd     : Bool
  wr     : Bool
  at_    : Bool
  key    : Nat
  asnum  : BitVec 12
  base   : Word
  length : Word
  conns  : Word
  deriving DecidableEq, Repr

/-- Window entry `n`, where it is valid (R455). -/
def winEntry (s : State) (n : Nat) : Option WinEntry := do
  if n ≥ 64 then none
  let w ← regionWord s (0x8800 + 32 * n)
  let b ← regionWord s (0x8808 + 32 * n)
  let l ← regionWord s (0x8810 + 32 * n)
  let c ← regionWord s (0x8818 + 32 * n)
  if bitOf w 63 then
    return ⟨bitOf w 62, bitOf w 61, bitOf w 60, fld w 16 16, w.setWidth 12, b, l, c⟩
  else none

/-- What an inbound access is (R455). -/
inductive DoorNeed where
  | read | write | atomic
  deriving DecidableEq, Repr

/-- The walk of an address of a window, none where it is no virtual address of a page table (R334, R455). -/
def windowWalk (s : State) (w : WinEntry) (va : Word) : Option Walk := do
  let c ← portCore s
  if isNear va || (fld va 55 9 != 0 && fld va 55 9 != 511) then none
  else return walkLevel s w.asnum (va.toNat % 2 ^ 56) (fld (coreAt s c).ptroot 13 39 * 8192) 3

/-- The physical address of one byte of a window, as a production-state access; none where the translation fails (R455). -/
def windowPhys (s : State) (w : WinEntry) (n : Need) (va : Word) : Option Nat := do
  match ← windowWalk s w va with
  | .page t =>
    let pa := tlbPhys t (va.toNat % 2 ^ 56)
    if permits t.leaf n true && isHbm pa then some pa else none
  | _ => none

/-- The window an access may use, where nothing of R455 refuses it before its translation. -/
def windowFor (s : State) (conn win key off len : Nat) (n : DoorNeed) : Option WinEntry := do
  let w ← winEntry s win
  let may := match n with
    | .read => w.rd
    | .write => w.wr
    | .atomic => w.at_
  if may && w.key == key && decide (conn < 64) && bitOf w.conns conn && decide (off + len ≤ w.length.toNat) then return w
  else none

/-- The addresses of the lines that `len` bytes at `va` touch. -/
def lineAddrs (va : Word) (len : Nat) : List Nat :=
  tab (if len = 0 then 0 else (va.toNat % 32 + len - 1) / 32 + 1) (va.toNat / 32) fun l => l * 32

/-- The physical addresses of the lines that `len` bytes at `va` touch: each line's first virtual address with its
physical one; none where one fails (R455). -/
def windowLines (s : State) (w : WinEntry) (n : Need) (va : Word) (len : Nat) : Option (List (Nat × Nat)) :=
  (lineAddrs va len).mapM fun l => do
    let pa ← windowPhys s w n (BitVec.ofNat 64 l)
    return (l, pa)

/-- Whether a page that `len` bytes at `va` touch migrates: the access waits and walks again (R346, R455). -/
def windowWaits (s : State) (w : WinEntry) (va : Word) (len : Nat) : Bool :=
  (lineAddrs va len).any fun l => match windowWalk s w (BitVec.ofNat 64 l) with
    | some (.migrating _) => true
    | _ => false

/-! Line records (R456). -/

/-- Whether every record's seal checks (R456). -/
def recsOk (rs : List LineRec) : Bool := rs.all fun r => r.data.length == 32 && crc16 r.data == r.crc

/-- The records of bytes at an offset, lines aligned as the target's (R456). -/
def makeRecs (fuel off : Nat) (bs : List Byte) : List LineRec :=
  match fuel with
  | 0 => []
  | fuel + 1 =>
    if bs = [] then [] else
    let k := off % 32
    let n := min (32 - k) bs.length
    let data := List.replicate k 0 ++ bs.take n ++ List.replicate (32 - k - n) 0
    ⟨byteMask k n, data, crc16 data⟩ :: makeRecs fuel (off + n) (bs.drop n)

/-- The `len` bytes at an offset that records carry. -/
def recBytes (rs : List LineRec) (off len : Nat) : List Byte :=
  ((rs.map (·.data)).flatten.drop (off % 32)).take len

/-- The byte at `i` of the access at an offset that records carry, where its mask names it (R456). -/
def recByte (rs : List LineRec) (off i : Nat) : Option Byte :=
  (rs[(off % 32 + i) / 32]?).bind fun r => if bitOf r.mask ((off % 32 + i) % 32) then r.data[(off % 32 + i) % 32]? else none

/-- The bytes of one record written by the door die as an agent of the package and system scopes: those its mask names
that lie in the access (R456, R458). -/
def doorMerge (s : State) (pa lo hi va : Nat) (r : LineRec) : State :=
  let old := memBytes s.mem pa 32
  let new := (old.zip r.data).mapIdx fun i (o, d) =>
    if bitOf r.mask i && decide (lo ≤ va + i) && decide (va + i < hi) then d else o
  let whole := r.mask = BitVec.allOnes 32 ∧ lo ≤ va ∧ va + 32 ≤ hi
  if whole then homeWrite s 1024 pa new
  else homeWrite (homeWrite s 1024 pa (new.take 16)) 1024 (pa + 16) (new.drop 16)

/-- The lines of an access written, each with its record. -/
def doorWrites (s : State) (lo hi : Nat) (ls : List ((Nat × Nat) × LineRec)) : State :=
  match ls with
  | [] => s
  | ((va, pa), r) :: t => doorWrites (doorMerge s pa lo hi va r) lo hi t

/-! Sending (R456, R457, R459). -/

/-- A connection's state, fresh before its first packet. -/
def connAt (s : State) (n : Nat) : Conn := look s.door.conns n ⟨0, 0, [], [], 0, 0, 0, 0, [], []⟩

/-- A connection's state replaced. -/
def setConn (s : State) (n : Nat) (k : Conn) : State := { s with door := { s.door with conns := put s.door.conns n k } }

/-- Something leaves the package. -/
def emit (s : State) (x : Sent) : State := { s with door := { s.door with outbox := s.door.outbox ++ [x] } }

/-- A request leaves on connection `n`, with the next PSN, which is also its TAG, and waits for its answer (R456, R457). -/
def sendPacket (s : State) (n : Nat) (e : ConnEntry) (p : Packet) (w : Awaiting) : State :=
  let k := connAt s n
  let q := { p with conn := e.remote % 65536, psn := k.psnOut, ackpsn := k.psnIn, tag := k.psnOut }
  let s := setConn s n { k with
    psnOut := (k.psnOut + 1) % 2 ^ 32
    unacked := k.unacked ++ [q]
    waits := k.waits ++ [(q.tag, w)]
    progress := if k.unacked.isEmpty && k.waits.isEmpty then s.now else k.progress
    sentAt := if k.unacked.isEmpty then s.now else k.sentAt }
  emit s (.packet q)

/-- The answer to the request taken last on connection `n` leaves; it takes no PSN, and is kept for that request's duplicates
(R456, R457). -/
def answer (s : State) (n : Nat) (e : ConnEntry) (kind tag status off len : Nat) (rs : List LineRec) : State :=
  let k := connAt s n
  let p : Packet := ⟨kind, false, e.remote % 65536, k.psnOut, k.psnIn, 0, 0, off, len, tag, status, rs⟩
  emit (setConn s n { k with answers := put k.answers ((k.psnIn + 2 ^ 32 - 1) % 2 ^ 32) p }) (.packet p)

/-- A request that came before is not performed again: what it was answered leaves once more, an acknowledgement where that is not
known (R457). -/
def answerAgain (s : State) (q : Packet) (e : ConnEntry) : State :=
  let k := connAt s q.conn
  emit s (.packet (match k.answers.find? fun a => a.1 == q.psn with
    | some (_, p) => { p with ackpsn := k.psnIn }
    | none => ⟨5, false, e.remote % 65536, k.psnOut, k.psnIn, 0, 0, 0, 0, q.tag, 0, []⟩))

/-- The aperture of a physical address (R459). -/
def apertureNo (pa : Nat) : Nat := pa / 2 ^ 46 % 32
/-- The address of a place that lies in an aperture. -/
def apertureOf (l : Loc) : Option Nat :=
  match l with
  | .phys pa => if isAperture pa then some pa else none
  | .scratch _ _ _ => none

/-- The offset in its aperture. -/
def apertureOff (pa : Nat) : Nat := pa % 2 ^ 46

/-- The slot whose access waits, where it is a slot's. -/
def waitSlot (s : State) (w : Awaiting) : Option Nat :=
  match w with
  | .load o _ _ _ _ _ | .store o _ => some o.slot
  | .remote (.strip x _) _ _ => (ctxAt s x).bound
  | _ => none

/-- The slots that have stored through a connection since their last REL packet there, after one more packet (R459). -/
def wroteAfter (l : List Nat) (kind : Nat) (rel : Bool) (i : Option Nat) : List Nat :=
  match i with
  | none => l
  | some i => if rel then l.filter (· != i) else if kind = 0 ∧ !l.contains i then l ++ [i] else l

/-- A request leaves on a connection that is known; one of an aperture goes to its window RWIN (R455, R459). -/
def sendKnown (s : State) (n : Nat) (far : Bool) (e : ConnEntry) (p : Packet) (w : Awaiting) : State :=
  if !far then sendPacket s n e p w else
  let s := sendPacket s n e { p with win := e.rwin } w
  setConn s n { connAt s n with wrote := wroteAfter (connAt s n).wrote p.kind p.rel (waitSlot s w) }

/-- A request leaves on connection `n`, or waits while the table migrates or others wait to leave there; none where no connection
carries it (R346, R454). -/
def sendRequest (s : State) (n : Nat) (far : Bool) (p : Packet) (w : Awaiting) : Option State :=
  if tableWaits s || s.door.deferred.any fun d => d.conn == n then
    some { s with door := { s.door with deferred := s.door.deferred ++ [⟨n, far, p, w⟩] } }
  else (stageConn s n).map fun e => sendKnown s n far e p w

/-- A packet to the window an aperture's connection names; none where no connection carries it (R454, R459). The KEY an
outbound packet carries is zero (log 20). -/
def sendAperture (s : State) (pa kind len : Nat) (rel : Bool) (rs : List LineRec) (w : Awaiting) : Option State :=
  sendRequest s (apertureNo pa) true ⟨kind, rel, 0, 0, 0, 0, 0, apertureOff pa, len, 0, 0, rs⟩ w

/-- The STATUS of a request that no connection carries: lost with no port core, else refused (R454, R459). -/
def noConn (s : State) : Nat := if (portCore s).isNone then 5 else 2

/-- The record of an aperture store refused or lost (R440, R459). -/
def storeRecord (s : State) (o : Owner) (pa status : Nat) : State :=
  faultRecord s (slotCore o.slot) ⟨8, 0, o.prod, BitVec.ofNat 64 pa, 0, 0, status⟩

/-- An aperture store of the owner's task is done: its place in OUTST.S is free (R131, R459). -/
def storeDone (s : State) (o : Owner) : State :=
  match holder s o with
  | some i => setSlot s i (lowerCtr (slotAt s i) .s)
  | none => s

/-- A scalar aperture store sent; with no connection to carry it, it is refused at once (R459). -/
def apertureStore (s : State) (o : Owner) (pa : Nat) (bs : List Byte) (rel : Bool) : State :=
  match sendAperture s pa 0 bs.length rel (makeRecs 2 (apertureOff pa) bs) (.store o pa) with
  | some s => s
  | none => storeDone (storeRecord s o pa (noConn s)) o

/-- A size in bytes and a sign rule applied to the bytes a load got (R143). -/
def loadValue (size : Nat) (signed : Bool) (bs : List Byte) : Word :=
  let x := leNat (bs.take size)
  if signed && decide (2 ^ (8 * size - 1) ≤ x) then BitVec.ofNat 64 (x + 2 ^ 64 - 2 ^ (8 * size)) else BitVec.ofNat 64 x

/-- A load or atomic through an aperture ends: its register written, or poisoned (R438, R459). -/
def loadDone (s : State) (o : Owner) (reg size : Nat) (signed : Bool) (ea : Word) (bs : Option (List Byte)) : State :=
  match holder s o with
  | some i => deliver s i ⟨reg, loadValue size signed (bs.getD []), bs.isNone, ea, .l, none, none⟩
  | none => s

/-- The first of some packets for which the test holds, with its answer. -/
def answerFirst (p : Remote → Bool) (status : Nat) (bs : List Byte) (l : List Remote) : List Remote :=
  match l with
  | [] => []
  | r :: t => if p r then { r with status := some status, data := bs } :: t else r :: answerFirst p status bs t

/-- The oldest packet of a vector entry or an engine operation to an address is answered (R459). -/
def remoteDone (s : State) (k : RKey) (pa : Nat) (write : Bool) (status : Nat) (bs : List Byte) : State :=
  let waits (r : Remote) : Bool := r.key == k && r.pa == pa && r.write == write && r.status.isNone
  { s with door := { s.door with remotes := answerFirst waits status bs s.door.remotes } }

/-- The packets of `key` to one place, in the order sent. -/
def remotesOf (s : State) (key : RKey) (pa n : Nat) (write : Bool) : List Remote :=
  s.door.remotes.filter fun r => r.key == key && r.pa == pa && r.n == n && r.write == write

/-- The packets of `key` sent once: those of `want` (address, length, data to write or none to read) not sent before, each repeated
access a packet of its own; `done` are those gone through. One fails at once where no connection carries it (R459). -/
def remoteSendFrom (done : List (Nat × Nat × Bool)) (s : State) (key : RKey) (want : List (Nat × Nat × Option (List Byte))) : State :=
  match want with
  | [] => s
  | (pa, n, bs) :: t =>
    let w := (pa, n, bs.isSome)
    if (done.filter (· == w)).length < (remotesOf s key pa n bs.isSome).length then remoteSendFrom (w :: done) s key t
    else
      let r : Remote := ⟨key, pa, n, bs.isSome, none, []⟩
      let s := { s with door := { s.door with remotes := s.door.remotes ++ [r] } }
      let sent := match bs with
        | some b => sendAperture s pa 0 n false (makeRecs (n / 32 + 2) (apertureOff pa) b) (.remote key pa true)
        | none => sendAperture s pa 1 n false [] (.remote key pa false)
      remoteSendFrom (w :: done) (match sent with
        | some s => s
        | none => remoteDone s key pa bs.isSome (noConn s) []) key t

/-- The packets of `key` that `want` asks for, each sent once (R459). -/
def remoteSend (s : State) (key : RKey) (want : List (Nat × Nat × Option (List Byte))) : State := remoteSendFrom [] s key want

/-- The answer to the `k`-th packet of `key` to a place, once it has come. -/
def remoteNth (s : State) (key : RKey) (pa n : Nat) (write : Bool) (k : Nat) : Option Remote :=
  (remotesOf s key pa n write)[k]?.filter fun r => r.status.isSome

/-- The answer to a packet of `key`, once it has come. -/
def remoteGot (s : State) (key : RKey) (pa n : Nat) (write : Bool) : Option Remote := remoteNth s key pa n write 0

/-- Whether every packet of `key` is answered. -/
def remoteAll (s : State) (key : RKey) : Bool := s.door.remotes.all fun r => r.key != key || r.status.isSome

/-- The packets of `key` forgotten. -/
def remoteClear (s : State) (key : RKey) : State :=
  { s with door := { s.door with remotes := s.door.remotes.filter fun r => r.key != key } }

/-! Answers (R457, R459, R463). -/

/-- The CAUSE of a token for a STATUS (R364, R459, R463). -/
def statusCause (status : Nat) : Nat := if status = 3 then 3 else if status = 5 then 5 else 7

/-- What a wait ends as: STATUS 0 with the bytes a READ brought, or another STATUS; a member that has not taken a packet is lost to
its collective (R456, R459, R463, R465; log 23). -/
def waitEnd (s : State) (conn : Nat) (w : Awaiting) (status : Nat) (bs : List Byte) : State :=
  match w with
  | .load o reg size signed ea acq =>
    let s := loadDone s o reg size signed ea (if status = 0 then some bs else none)
    if acq then invalidateRemote s (slotCore o.slot) else s
  | .store o pa => storeDone (if status = 0 then s else storeRecord s o pa status) o
  | .msg o reg offset data busy =>
    if status = 0 then deliverToken s o reg (tokenWord false 0 data.length)
    else if status = 1 then
      { s with door := { s.door with busy := s.door.busy ++ [⟨conn, .msg o reg offset data (some (busy.getD s.now)), s.now⟩] } }
    else deliverToken s o reg (tokenWord true (statusCause status) 0)
  | .remote k pa write => remoteDone s k pa write status bs
  | .done c n pa => if status = 0 then s else faultRecord s c ⟨8, 0, n, BitVec.ofNat 64 pa, 0, 0, status⟩
  | .coll gid k =>
    if status = 0 then s else
    { s with door := { s.door with colls := s.door.colls.map fun q => if q.gid = gid ∧ q.k = k then { q with lost := true } else q } }

/-- Whether PSN `x` lies below `a`, modulo 2^32 (R456). -/
def psnBelow (x a : Nat) : Bool := decide (0 < (a + 2 ^ 32 - x) % 2 ^ 32) && decide ((a + 2 ^ 32 - x) % 2 ^ 32 < 2 ^ 31)

/-- Whether an acknowledgement alone ends a wait: all but a READ's and an ATOMIC's, which wait for data (R459). -/
def endsOnAck (w : Awaiting) : Bool :=
  match w with
  | .load _ _ _ _ _ _ => false
  | .remote _ _ write => write
  | _ => true

/-- Every PSN below `ack` has been received: that is progress where it had not come before. What a packet asked for ends with its
own answer, until which it is sent again (R456, R457; log 20). -/
def ackUpTo (s : State) (conn ack : Nat) : State :=
  let k := connAt s conn
  if psnBelow k.acked ack then setConn s conn { k with acked := ack, progress := s.now, sentAt := s.now } else s

/-- The answer to the request of one TAG (R456). -/
def answered (s : State) (conn tag status : Nat) (data : Awaiting → List Byte) : State :=
  let k := connAt s conn
  match k.waits.find? fun x => x.1 == tag with
  | none => s
  | some (_, w) =>
    let s := setConn s conn { k with
      unacked := k.unacked.filter fun p => p.tag != tag
      waits := k.waits.filter fun x => x.1 != tag
      progress := s.now
      sentAt := s.now }
    waitEnd s conn w status (data w)

/-! Receiving (R456 to R461). -/

/-- What the checks before a request's effect give: it is the next one, it came before, or nothing (R457). -/
inductive Arrived where
  | next (e : ConnEntry)
  | again (e : ConnEntry)
  | no
  deriving DecidableEq, Repr

/-- A request's connection, its seals and its PSN (R455 to R457). -/
def arrival (s : State) (p : Packet) : Arrived :=
  match stageConn s p.conn with
  | none => .no
  | some e =>
    if !recsOk p.recs || decide (4096 < p.len) then .no
    else if p.psn = (connAt s p.conn).psnIn then .next e
    else if psnBelow p.psn (connAt s p.conn).psnIn then .again e
    else .no

/-- A request taken: PSN counted, and the acknowledgement it carries (R457). -/
def taken (s : State) (p : Packet) : State :=
  let k := connAt s p.conn
  ackUpTo (setConn s p.conn { k with psnIn := (k.psnIn + 1) % 2 ^ 32 }) p.conn p.ackpsn

/-- An arrival waits; a second of it is the first (R346, R457). -/
def hold (s : State) (h : Held) : State :=
  if s.door.held.contains h then s else { s with door := { s.door with held := s.door.held ++ [h] } }

/-- Whether an access of `len` bytes at an offset of a window waits at a migrating page (R346, R455). -/
def accessWaits (s : State) (conn win key off len : Nat) (n : DoorNeed) : Bool :=
  (windowFor s conn win key off len n).any fun w => windowWaits s w (w.base + BitVec.ofNat 64 off) len

/-- Whether a request waits at a migrating page: of the tables, of its window, or of its mailbox (R346, R454, R455). -/
def requestWaits (s : State) (kind : Nat) (p : Packet) : Bool :=
  tableWaits s ||
  match arrival s p, kind with
  | .next _, 0 => accessWaits s p.conn p.win p.key p.offset p.len .write
  | .next _, 1 => accessWaits s p.conn p.win p.key p.offset p.len .read
  | .next _, 3 => accessWaits s p.conn p.win p.key p.offset 1 .atomic
  | .next _, 4 => regionWaits s (p.offset % 1024) (0x1000 + 256 * (p.offset / 65536 % 128))
  | _, _ => false

/-- A request under `arrival`: performed once by `f`, answered once more when it comes again (R457). -/
def receive (s : State) (kind : Nat) (p : Packet) (f : State → ConnEntry → State) : State :=
  if requestWaits s kind p then hold s (.stage kind p) else
  match arrival s p with
  | .next e => f (taken s p) e
  | .again e => answerAgain s p e
  | .no => s

/-- Whether a token that a wait brings has to wait (R346). -/
def awaitHeld (s : State) (w : Awaiting) : Bool :=
  match w with
  | .msg o _ _ _ _ => tokenWaits s o
  | _ => false

/-- Whether an answer on a connection has to wait: for the tables, or for the area of a saved task that it brings a token (R346). -/
def answerWaits (s : State) (conn : Nat) : Bool := tableWaits s || (connAt s conn).waits.any fun x => awaitHeld s x.2

/-- An answer that has come on a connection of the stage-door, taken by `f` once what it needs can be reached (R346, R455). -/
def receiveAnswer (s : State) (kind : Nat) (p : Packet) (f : State → State) : State :=
  if answerWaits s p.conn then hold s (.stage kind p) else if (stageConn s p.conn).isNone then s else f s

/-- An inbound write into a window: none where it is refused (R455, R458). -/
def windowWrite (s : State) (conn win key off len : Nat) (rs : List LineRec) : Option State := do
  let w ← windowFor s conn win key off len .write
  let va := w.base + BitVec.ofNat 64 off
  let ls ← windowLines s w needW va len
  return doorWrites s va.toNat (va.toNat + len) (ls.zip rs)

/-- An inbound read of a window: the bytes, none of them where a line is poisoned; or refused (R455, R458). -/
def windowRead (s : State) (conn win key off len : Nat) : Option (Option (List Byte)) := do
  let w ← windowFor s conn win key off len .read
  let va := w.base + BitVec.ofNat 64 off
  let ls ← windowLines s w needR va len
  if ls.any fun (_, pa) => s.poisoned.contains (lineOf pa) then return none
  return some ((((ls.map fun (_, pa) => memBytes s.mem pa 32).flatten).drop (va.toNat % 32)).take len)

/-- STAGE_DOOR_WRITE (R458). -/
def execStageDoorWrite (p : Packet) (s : State) : Result :=
  .next (receive s 0 p fun s e =>
    match windowWrite s p.conn p.win p.key p.offset p.len p.recs with
    | some s => answer s p.conn e 5 p.tag 0 0 0 []
    | none => answer s p.conn e 6 p.tag 2 0 0 [])

/-- STAGE_DOOR_READ (R458). -/
def execStageDoorRead (p : Packet) (s : State) : Result :=
  .next (receive s 1 p fun s e =>
    match windowRead s p.conn p.win p.key p.offset p.len with
    | some (some bs) => answer s p.conn e 2 p.tag 0 p.offset p.len (makeRecs (p.len / 32 + 2) p.offset bs)
    | some none => answer s p.conn e 6 p.tag 3 0 0 []
    | none => answer s p.conn e 6 p.tag 2 0 0 [])

/-- What an atomic stores, by its minor order: `old`, `v` and, for amocas, `x` are `n`-bit numbers (R385). -/
def atomicNew (minor n old v x : Nat) : Nat :=
  let sgn (y : Nat) : Int := if 2 ^ (n - 1) ≤ y then (y : Int) - 2 ^ n else y
  match minor with
  | 0 => (old + v) % 2 ^ n
  | 1 => v
  | 2 => if sgn old < sgn v then v else old
  | 3 => if sgn v < sgn old then v else old
  | 4 => old &&& v
  | 5 => old ||| v
  | _ => if old = v then x else old

/-- STAGE_DOOR_ATOMIC: an atomic at system scope at the home; the answer carries the old value (R387, R456, R458). -/
def execStageDoorAtomic (p : Packet) (s : State) : Result :=
  .next (receive s 3 p fun s e =>
    let refuse (s : State) (status : Nat) : State := answer s p.conn e 6 p.tag status 0 0 []
    match p.recs with
    | [r] =>
      let n := 2 ^ (r.data.getD 1 0).toNat
      if 6 < (r.data.getD 0 0).toNat || 3 < (r.data.getD 1 0).toNat || p.offset % n != 0 then refuse s 2 else
      match windowFor s p.conn p.win p.key p.offset n .atomic with
      | none => refuse s 2
      | some w =>
        match windowPhys s w needRW (w.base + BitVec.ofNat 64 p.offset) with
        | none => refuse s 2
        | some pa =>
          if pa % n != 0 then refuse s 2
          else if s.poisoned.contains (lineOf pa) then refuse s 3
          else
            let bs := memBytes s.mem pa n
            let v := leNat ((r.data.drop 8).take n)
            let x := leNat ((r.data.drop 16).take n)
            let s := homeWrite s 1024 pa (leBytes n (atomicNew (r.data.getD 0 0).toNat (8 * n) (leNat bs) v x))
            answer s p.conn e 2 p.tag 0 p.offset n (makeRecs 2 p.offset bs)
    | _ => refuse s 2)

/-- How a message's delivery ends. -/
inductive Delivery where
  | done (s : State)
  | busy
  | refused

/-- A message of `n` payload words delivered to mailbox `k` of core `c`: busy while its HEAD is full; else the payload, which `fill`
gives from what stood there, then HEAD with the effect of `stf` (R461). -/
def mailboxPut (s : State) (conn c k n : Nat) (fill : List Byte → List Byte) : Delivery :=
  if (coreAt s c).mbox = 0 ∨ 111 < k ∨ n = 0 ∨ 31 < n ∨ 1024 ≤ c then .refused else
  match regionPhys s c (0x1000 + 256 * k) with
  | none => .refused
  | some pa =>
    if s.full.contains (pa / 8) then .busy else
    let kn := connAt s conn
    let no := (kn.msgno + 1) % 2 ^ 32
    let s := setConn s conn { kn with msgno := no }
    let s := writeSpan (fun s a b => homeWrite s 1024 a b) 9 s (pa + 8) (fill (memBytes s.mem (pa + 8) (8 * n)))
    let head := conn % 256 * 2 ^ 48 + n * 2 ^ 40 + no
    let s := setFull (homeWrite s 1024 pa (leBytes 8 head)) (.phys pa) true
    .done (wakeIdle (feSettle s (.phys pa) ((feList s (.phys pa)).length + 1)) c)

/-- The payload that a MSG's records make of what stood in the mailbox: the bytes their masks name, aligned as the payload is, at
offset 8 of the mailbox; zero past LEN (R454, R456, R461). -/
def msgFill (p : Packet) (old : List Byte) : List Byte :=
  old.mapIdx fun i o => if i < p.len then (recByte p.recs 8 i).getD o else 0

/-- STAGE_DOOR_MSG: OFFSET names the core and the mailbox (R456, R461). -/
def execStageDoorMsg (p : Packet) (s : State) : Result :=
  .next (receive s 4 p fun s e =>
    match mailboxPut s p.conn (p.offset % 1024) (p.offset / 65536 % 128) ((p.len + 7) / 8) (msgFill p) with
    | .done s => answer s p.conn e 5 p.tag 0 0 0 []
    | .busy => answer s p.conn e 6 p.tag 1 0 0 []
    | .refused => answer s p.conn e 6 p.tag 2 0 0 [])

/-- STAGE_DOOR_READRESP (R459). -/
def execStageDoorReadresp (p : Packet) (s : State) : Result :=
  .next (receiveAnswer s 2 p fun s =>
    if !recsOk p.recs then s else answered (ackUpTo s p.conn p.ackpsn) p.conn p.tag 0 fun _ => recBytes p.recs p.offset p.len)

/-- STAGE_DOOR_ACK (R457). -/
def execStageDoorAck (p : Packet) (s : State) : Result :=
  .next (receiveAnswer s 5 p fun s =>
    let w := (connAt s p.conn).waits.find? fun x => x.1 == p.tag
    let s := ackUpTo s p.conn p.ackpsn
    if p.status = 0 ∧ !(w.any fun x => endsOnAck x.2) then s else answered s p.conn p.tag p.status fun _ => [])

/-- STAGE_DOOR_NACK (R459). -/
def execStageDoorNack (p : Packet) (s : State) : Result :=
  .next (receiveAnswer s 6 p fun s =>
    answered (ackUpTo s p.conn p.ackpsn) p.conn p.tag (if p.status = 0 then 2 else p.status) fun _ => [])

/-- STAGE_DOOR_KIND_DISCARDED: no effect (R456). -/
def execStageDoorKindDiscarded (_kind : BitVec 4) (s : State) : Result := .next s

/-- INVALID_FRAME: discarded without effect (R453). -/
def execInvalidFrame (_port : Nat) (s : State) : Result := .next s

/-! Time on a connection (R457, R463). -/

/-- Physical time moves on to `t` microseconds. -/
def atTime (s : State) (t : Nat) : State := { s with now := max s.now t }

/-- RETRANSMIT: from the oldest packet not acknowledged, when 50 µs pass with no progress (R457). -/
def execRetransmit (conn t : Nat) (s : State) : Result :=
  let k := connAt s conn
  if k.unacked = [] ∨ t < k.sentAt + 50 then .next s else
  let s := atTime s t
  let s := setConn s conn { k with sentAt := s.now }
  .next (k.unacked.foldl (fun s p => emit s (.packet { p with ackpsn := k.psnIn })) s)

/-- Waits failed as lost, in order. -/
def loseWaits (s : State) (conn : Nat) (ws : List (Nat × Awaiting)) : State :=
  match ws with
  | [] => s
  | (_, w) :: t => loseWaits (waitEnd s conn w 5 []) conn t

/-- CONNECTION_LOST: 100 ms without progress fail what is outstanding on it, not acknowledged or not answered; the connection starts
afresh (R457, R465). -/
def execConnectionLost (conn t : Nat) (s : State) : Result :=
  let k := connAt s conn
  if (k.unacked = [] ∧ k.waits = []) ∨ t < k.progress + 100000 ∨ answerWaits s conn then .next s else
  let s := atTime s t
  let s := setConn s conn ⟨0, 0, [], [], k.msgno, s.now, s.now, 0, [], []⟩
  let lost := s.door.busy.filter fun b => b.conn == conn
  let s := { s with door := { s.door with
    busy := s.door.busy.filter fun b => b.conn != conn
    colls := s.door.colls.map fun q => if q.conns.contains conn then { q with lost := true } else q } }
  .next (loseWaits s conn (k.waits ++ lost.map fun b => (0, b.wait)))

/-! msgs (R463). -/

/-- A message sent on connection `n` to the mailbox that `offset` names, its records aligned as the payload is there; none where no
connection carries it (R454, R456). -/
def sendMsg (s : State) (n offset : Nat) (o : Owner) (reg : Nat) (data : List Byte) (busy : Option Nat) : Option State :=
  sendRequest s n false ⟨4, false, 0, 0, 0, 0, 0, offset, data.length, 0, 0, makeRecs 9 8 data⟩ (.msg o reg offset data busy)

/-- What waited for its connection to be known leaves in order, or fails where no connection carries it (R346, R454). -/
def sendDeferred (s : State) : State :=
  match s.door.deferred with
  | [] => s
  | d :: t =>
    if tableWaits s || awaitHeld s d.wait then s else
    let s := { s with door := { s.door with deferred := t } }
    match stageConn s d.conn with
    | some e => sendKnown s d.conn d.far e d.packet d.wait
    | none => waitEnd s d.conn d.wait (noConn s) []

/-- MSGS_BUSY_RETRY: a busy message goes again after 50 µs; after 100 ms of busy answers it fails with CAUSE 6 (R454, R463). -/
def execMsgsBusyRetry (n t : Nat) (s : State) : Result :=
  match s.door.busy[n]? with
  | none => .next s
  | some b =>
    if decide (t < b.last + 50) || awaitHeld s b.wait then .next s else
    let s := atTime s t
    let s := { s with door := { s.door with busy := dropAt s.door.busy n } }
    match b.wait with
    | .msg o reg offset data busy =>
      if (busy.any fun t => decide (t + 100000 ≤ s.now)) = true then .next (deliverToken s o reg (tokenWord true 6 0)) else
      match sendMsg s b.conn offset o reg data busy with
      | some s => .next s
      | none => .next (waitEnd s b.conn b.wait (noConn s) [])
    | _ => .next s

/-! RoCE v2 on port H, as a responder (R460). -/

/-- What RoCE message leaves in answer: 0 ACK, 1 NAK PSN sequence error, 2 NAK Invalid Request, 3 NAK Remote Access
Error, 4 RNR NAK, 5 READ Response. -/
def roceAnswer (s : State) (r : RoceMsg) (kind : Nat) (bs : List Byte) : State := emit s (.roce r.conn kind r.psn bs)

/-- A RoCE connection, where the entry is one on port 0 (R455). -/
def roceConn (s : State) (n : Nat) : Option ConnEntry := do
  let e ← connEntry s n
  if e.kind == 2 && e.port == 0 then return e else none

/-- The window and key of an R_Key; none with bits above zero (R460). -/
def roceKey (k : Nat) : Option (Nat × Nat) := if k < 2 ^ 24 then some (k % 256, k / 256) else none

/-- The PMTU of a RoCE connection in bytes (R460). -/
def rocePmtu (conn : Nat) : Nat := 1024 * 2 ^ (Config.rocePmtuIndex conn).val

/-- The packets that carry `len` bytes of a WRITE or of a READ's response at the connection's PMTU, each with a PSN of its own (R460;
log 20). -/
def rocePackets (conn len : Nat) : Nat := max 1 ((len + rocePmtu conn - 1) / rocePmtu conn)

/-- Whether a RoCE message waits at a migrating page: of the tables, of its window, or of its mailbox (R346, R454, R455). -/
def roceWaits (s : State) (kind : Nat) (r : RoceMsg) : Bool :=
  tableWaits s ||
  match roceConn s r.conn, kind with
  | some _, 0 => (roceKey r.rkey).any fun (w, k) => accessWaits s r.conn w k r.offset r.data.length .write
  | some _, 1 => (roceKey r.rkey).any fun (w, k) => accessWaits s r.conn w k r.offset r.len .read
  | some e, 2 => regionWaits s e.dcore (0x1000 + 256 * e.dmbox)
  | _, _ => false

/-- A RoCE message in its place of the sequence, performed by `f`, which answers whether the sequence moves on, by `n` packets;
another that came before is answered by `again`, one that comes too early with a NAK of the PSN expected: go-back-N (R460). -/
def roceTake (s : State) (kind : Nat) (r : RoceMsg) (n : Nat) (f : State → ConnEntry → Bool × State) (again : State → State) : State :=
  if roceWaits s kind r then hold s (.roce kind r) else
  match roceConn s r.conn with
  | none => s
  | some e =>
    let k := connAt s r.conn
    if r.psn = k.psnIn then
      let (on, s) := f s e
      if on then setConn s r.conn { connAt s r.conn with psnIn := (k.psnIn + n) % 2 ^ 24 } else s
    else if (k.psnIn + 2 ^ 24 - r.psn) % 2 ^ 24 < 2 ^ 23 then again s
    else roceAnswer s { r with psn := k.psnIn } 1 []

/-- A WRITE's acknowledgement, with the PSN of the last of its packets (R460; log 20). -/
def roceWritten (s : State) (r : RoceMsg) : State :=
  roceAnswer s { r with psn := (r.psn + rocePackets r.conn r.data.length - 1) % 2 ^ 24 } 0 []

/-- ROCE_RDMA_WRITE: First, Middle and Last, or Only; the sequence moves on by its packets (R460). -/
def execRoceRdmaWrite (r : RoceMsg) (s : State) : Result :=
  .next (roceTake s 0 r (rocePackets r.conn r.data.length) (fun s _ =>
    match roceKey r.rkey with
    | none => (false, roceAnswer s r 3 [])
    | some (win, key) =>
      match winEntry s win with
      | none => (false, roceAnswer s r 3 [])
      | some w =>
        let va := (w.base + BitVec.ofNat 64 r.offset).toNat
        match windowWrite s r.conn win key r.offset r.data.length (makeRecs (r.data.length / 32 + 2) va r.data) with
        | some s => (true, roceWritten s r)
        | none => (false, roceAnswer s r 3 [])) fun s => roceWritten s r)

/-- A RoCE READ answered with its data, or with a NAK (R460). -/
def roceRead (s : State) (r : RoceMsg) : Bool × State :=
  match (roceKey r.rkey).bind fun (win, key) => windowRead s r.conn win key r.offset r.len with
  | some (some bs) => (true, roceAnswer s r 5 bs)
  | _ => (false, roceAnswer s r 3 [])

/-- ROCE_RDMA_READ: the sequence moves on by its response's packets; one that comes again is answered with its data (R460). -/
def execRoceRdmaRead (r : RoceMsg) (s : State) : Result :=
  .next (roceTake s 1 r (rocePackets r.conn r.len) (fun s _ => roceRead s r) fun s => (roceRead s r).2)

/-- ROCE_SEND: at most 248 bytes, into mailbox DMBOX of core DCORE; RNR NAK while it is full (R460, R461). -/
def execRoceSend (r : RoceMsg) (s : State) : Result :=
  .next (roceTake s 2 r 1 (fun s e =>
    if 248 < r.data.length then (false, roceAnswer s r 2 []) else
    let fill (old : List Byte) : List Byte := old.mapIdx fun i _ => r.data.getD i 0
    match mailboxPut s r.conn e.dcore e.dmbox (max 1 ((r.data.length + 7) / 8)) fill with
    | .done s => (true, roceAnswer s r 0 [])
    | .busy => (false, roceAnswer s r 4 [])
    | .refused => (false, roceAnswer s r 2 [])) fun s => roceAnswer s r 0 [])

/-- ROCE_UNSUPPORTED: NAK Invalid Request (R460). -/
def execRoceUnsupported (r : RoceMsg) (s : State) : Result :=
  .next (roceTake s 3 r 1 (fun s _ => (false, roceAnswer s r 2 [])) fun s => roceAnswer s r 2 [])

end Sys2Proof.Machine
end

