-- ==== Sys2Proof/Machine/ScalarMemory.lean ====
section
/-! DEFINITION. Scalar loads and stores with the store buffer, acquires, releases, fences, atomics, row scope, cache-line
operations and the events that finish them (05 R142 to R149, R153; 12; 14 R371 to R387). -/

namespace Sys2Proof.Machine

/-! Row scope (R381 to R383). -/

/-- A row's version at its home (R381). -/
def rowVersion (s : State) (row : Nat) : Nat := look (dieAt s (homeDie (row * 256))).rowVer row 0

/-- The eight lines of a row. -/
def rowLines (row : Nat) : List Nat := tab 8 (row * 8) id

/-- A core drops its copies of a row, the dirty ones written back first (R381, R382). -/
def dropRow (s : State) (c row : Nat) : State :=
  let s := writeBackLines s c ((dirtyList (coreAt s c)).filter fun l => l / 8 == row)
  setCore s c (forgetLines (coreAt s c) fun l => l / 8 == row)

/-- The eight lines of a row filled into the core's caches with the row's version (R382). -/
def fillRow (s : State) (c row : Nat) : State :=
  let v := rowVersion s row
  let s := (rowLines row).foldl (fun s l => copyLine (fillL1 (placeL2 s c l false) c l) c l) (dropRow s c row)
  let x := coreAt s c
  setCore s c { x with remote := x.remote.map fun r => if r.line / 8 = row then { r with stamp := some v } else r }

/-- A row-scope write has performed: the version rises and notices leave for the other dies (R381, R383). -/
def rowBump (s : State) (row : Nat) : State :=
  let h := homeDie (row * 256)
  let v := rowVersion s row + 1
  let d := dieAt s h
  let s := setDie s h { d with rowVer := put d.rowVer row v }
  { s with notices := s.notices ++ ((tab 8 0 id).filter fun k => k != h && (dieAt s k).present).map fun k => ⟨k, row, v⟩ }

/-- A row-scope write of bytes within a row, by core `c` (R381). -/
def rowWrite (s : State) (c pa : Nat) (bs : List Byte) : State :=
  let s := dropRow s c (rowOf pa)
  rowBump (writeSpan (fun s a b => homeWrite s 1024 a b) 9 s pa bs) (rowOf pa)

/-- A row-scope read by core `c`: the 256 bytes of one version, and whether they came from a superseded copy (R382, R383). -/
def rowRead (s : State) (c row : Nat) : List Byte × Bool × State :=
  let at_ := row * 256
  if homeDie at_ = coreDie c then (memBytes s.mem at_ 256, false, s) else
  let own := (rowLines row).filterMap fun l => findLine (coreAt s c) l
  let stamp := (own.head?.bind fun r => r.stamp)
  if own.length = 8 ∧ stamp.isSome ∧ (own.all fun r => r.dirty == 0 && r.stamp == stamp) = true then
    ((own.map (·.data)).flatten, own.any (·.superseded), s)
  else
    let s := fillRow s c row
    (memBytes s.mem at_ 256, false, s)

/-- Whether a line of a row is poisoned for a core's read. -/
def rowPoisoned (s : State) (c row : Nat) : Bool := (rowLines row).any fun l => coreLinePoisoned s c (l * 32)

/-- One row-scope read served stale counted in STALERD (R383, R471). -/
def countStale (x : Slot) (n : Nat) : Slot := { x with stalerd := BitVec.ofNat 32 (min (x.stalerd.toNat + n) 0xFFFFFFFF) }

/-- WRITE_NOTICE: a notice arrives and marks older copies superseded (R383). -/
def execWriteNotice (n : Nat) (s : State) : Result :=
  match s.notices[n]? with
  | none => .next s
  | some t =>
    .next { s with
      notices := dropAt s.notices n
      cores := s.cores.map fun (c, x) =>
        if coreDie c = t.die then
          (c, { x with remote := x.remote.map fun r =>
            if r.line / 8 = t.row ∧ (r.stamp.any fun v => decide (v < t.ver)) = true then { r with superseded := true } else r })
        else (c, x) }

/-- MERGE_CLOSE: the entries 64 local cycles old close, one that must follow a read after that read (R329, R330). -/
def execMergeClose (q : Nat) (s : State) : Result :=
  let x := clusterAt s q
  let l := x.merges.filter fun m => m.write || decide (x.cycle < m.opened + 64)
  .next (setCluster s q { x with merges := l.filter fun m => decide (x.cycle < m.opened + 64) || mergeWaits l m })

/-! Loads (R143). -/

/-- The result of a load served by the caches or beyond: available after an L1 hit, else under way; a poisoned line faults
at the load when the near store serves it (R90, R143, R437). An access that never joins the merge table has `merge` unset (R330). -/
def loadPhys (back s : State) (d : GReg) (ea : Word) (pa n : Nat) (signed merge : Bool) : Result :=
  let c := myCore s
  let bad := coreLinePoisoned s c pa
  let v := loadValue n signed (coreBytes s c pa n)
  if inL1 (coreAt s c) (lineOf pa) then
    if bad then .next (takeTrap back 9 ea) else retire1 (fillL1 s c (lineOf pa)) d v
  else if 63 ≤ (me s).outL then .next (park back (.entry ea))
  else .next (advance (sendMiss (readLine s c (lineOf pa) merge) d v bad ea (lineOf pa)))

/-- Whether earlier accesses of the acting slot through the aperture of `pa` have still to leave (R459). -/
def farBefore (s : State) (pa : Nat) : Bool :=
  (vecBefore s fun x e => vecReaches s x e fun m _ => (apertureOf m).any fun q => apertureNo q == apertureNo pa) ||
  (me s).sbuf.any fun e => (apertureOf e.loc).any fun q => apertureNo q == apertureNo pa

/-- A READ or ATOMIC leaves through an aperture after the slot's earlier accesses there; the register waits for it (R459). -/
def loadAperture (back s : State) (d : GReg) (ea : Word) (pa n : Nat) (signed acq : Bool) (kind : Nat) (recs : List LineRec) :
    Result :=
  if decide (63 ≤ (me s).outL) || farBefore back pa then .next (park back (.entry ea))
  else
    let o := ownerOf s
    let s := setMe s (raiseCtr (pendG (me s) d ea) .l)
    .next (advance (match sendAperture s pa kind n (kind == 3) recs (.load o d.toNat n signed ea acq) with
      | some s => s
      | none => loadDone s o d.toNat n signed ea none))

/-- Whether a load at a place is available to the next instruction: from scratch or from the L1 (R143). -/
def nearLoad (s : State) (l : Loc) : Bool :=
  match l with
  | .scratch _ _ _ => true
  | .phys pa => inL1 (coreAt s (myCore s)) (lineOf pa)

/-- A load at a place. Behind loads that it must follow, one that would be available to the next instruction parks, and another
performs when they are over; one through an aperture follows the slot's earlier packets to it (R143, R373, R459; log 14). -/
def loadFrom (back s : State) (d : GReg) (ea : Word) (l : Loc) (n : Nat) (signed : Bool) : Result :=
  match apertureOf l with
  | some pa => loadAperture back s d ea pa n signed false 1 []
  | none =>
    if loadsAhead back then
      if nearLoad s l || decide (63 ≤ (me back).outL) then .next (park back (.entry ea))
      else .next (advance (sendLoad s d ea ⟨l, n, signed, lastSeq s⟩))
    else
      match l with
      | .scratch _ _ _ =>
        if locPoisoned s (myCore s) l then .next (takeTrap back 9 ea)
        else retire1 s d (loadValue n signed (locBytes s (myCore s) l n))
      | .phys pa => loadPhys back s d ea pa n signed true

/-- The newest buffered store that overlaps `n` bytes at a place (R144). -/
def newestOverlap (x : Slot) (l : Loc) (n : Nat) : Option StoreEntry :=
  x.sbuf.reverse.find? fun e => locOverlap e.loc e.n l n

/-- The bytes of a place that lie within a buffered store (R144). -/
def forwardFrom (e : StoreEntry) (l : Loc) (n : Nat) : Option (List Byte) :=
  let off := match e.loc, l with
    | .scratch _ _ o, .scratch _ _ p => if o ≤ p then some (p - o) else none
    | .phys a, .phys b => if a ≤ b then some (b - a) else none
    | _, _ => none
  match off with
  | some k => if k + n ≤ e.n then some (((leBytes 8 e.data.toNat).drop k).take n) else none
  | none => none

/-- A load of `n` bytes at EA, sign-extended or not: by forwarding from the store buffer, from scratch, an L1 hit or beyond. DESIGN
CHOICE: one whose bytes are all forwarded is available to the next instruction and counts nowhere, wherever its line is (R90, R142 to
R145; log 14). -/
def loadAt (d a : GReg) (off : Int) (n : Nat) (signed : Bool) (s : State) : Result :=
  withOps s [a] [] [d] fun vs s' =>
    let ea := effAddr (opnd vs 0) off n
    withAccess s s' n needR ea fun l _ s' =>
      if unitAhead s l n then .next (park s (.entry ea)) else
      match newestOverlap (me s') l n with
      | some e =>
        match forwardFrom e l n with
        | some bs => retire1 s' d (loadValue n signed bs)
        | none => .next (park s (.entry ea))
      | none => loadFrom s s' d ea l n signed

/-- LDB (R143). -/
def execLdb (d a : GReg) (off : Int) (s : State) : Result := loadAt d a off 1 true s
/-- LDBU (R143). -/
def execLdbu (d a : GReg) (off : Int) (s : State) : Result := loadAt d a off 1 false s
/-- LDH (R143). -/
def execLdh (d a : GReg) (off : Int) (s : State) : Result := loadAt d a off 2 true s
/-- LDHU (R143). -/
def execLdhu (d a : GReg) (off : Int) (s : State) : Result := loadAt d a off 2 false s
/-- LDW (R143). -/
def execLdw (d a : GReg) (off : Int) (s : State) : Result := loadAt d a off 4 true s
/-- LDWU (R143). -/
def execLdwu (d a : GReg) (off : Int) (s : State) : Result := loadAt d a off 4 false s
/-- LDD (R143). -/
def execLdd (d a : GReg) (off : Int) (s : State) : Result := loadAt d a off 8 false s

/-! Stores (R144). -/

/-- A store enters the slot's buffer. -/
def bufferStore (s : State) (l : Loc) (n : Nat) (data ea : Word) : State :=
  let x := raiseCtr (me s) .s
  setMe s { x with sbuf := x.sbuf ++ [⟨l, n, data, ea, lastSeq s⟩] }

/-- A store of the low `n` bytes of g[d] (R142, R144). -/
def storeAt (d a : GReg) (off : Int) (n : Nat) (s : State) : Result :=
  withOps s [a] [d] [] fun vs s' =>
    let ea := effAddr (opnd vs 0) off n
    withAccess s s' n needW ea fun l _ s' =>
      if storeAhead s l n || decide (8 ≤ (me s).sbuf.length) || decide (63 ≤ (me s).outS) then .next (park s (.entry ea))
      else .next (advance (bufferStore s' l n (opnd vs 1) ea))

/-- STB (R144). -/
def execStb (d a : GReg) (off : Int) (s : State) : Result := storeAt d a off 1 s
/-- STH (R144). -/
def execSth (d a : GReg) (off : Int) (s : State) : Result := storeAt d a off 2 s
/-- STW (R144). -/
def execStw (d a : GReg) (off : Int) (s : State) : Result := storeAt d a off 4 s
/-- STD (R144). -/
def execStd (d a : GReg) (off : Int) (s : State) : Result := storeAt d a off 8 s

/-- Whether a slot is being pre-empted. -/
def preempting (x : Slot) : Bool :=
  match x.st with
  | .stopped (.preempting _) _ => true
  | _ => false

/-- Whether a context's entries stand still: it is frozen, or a trap of one has fallen due. -/
def standsStill (s : State) (i : Nat) : Bool :=
  match ctxOf s i with
  | some k => (ctxAt s k).frozen || (ctxAt s k).trap.isSome
  | none => false

/-- Whether a buffered store of slot `i` waits: for a vector instruction that owns its line; for every access queued before it, or,
where these stand still, for the vector loads that must not return it (R351, R373, R378; log 14). -/
def drainHeld (s : State) (i : Nat) (e : StoreEntry) : Bool :=
  engineOwns s e.loc e.n ||
  if standsStill s i then
    match ctxOf s i with
    | some k => !preempting (slotAt s i) && (ctxAt s k).queue.any fun q =>
      isVecLoad q.op && accessesMemory q && decide (q.seq ≤ e.after) && vecOverlaps s k q e.loc e.n
    | none => false
  else vecPending s i e.after (fun _ => true) || (slotAt s i).arrivals.any fun a => a.load.any fun q => decide (q.seq ≤ e.after)

/-- The lines of a core's write-through buffer that the L2 or their homes have not accepted: those that entered in this local
cycle (R321; log 7). -/
def throughNow (s : State) (c : Nat) : List (Nat × Nat) := (coreAt s c).through.filter fun t => t.2 == cycleOf s c

/-- A drained store's line enters the write-through buffer of 16 lines, or finds it full (R321). -/
def enterThrough (s : State) (c line : Nat) : Option State :=
  let l := throughNow s c
  if l.any fun t => t.1 == line then some s
  else if 16 ≤ l.length then none
  else some (setCore s c { coreAt s c with through := l ++ [(line, cycleOf s c)] })

/-- The oldest store `e` of slot `i` performs, in scratch, the caches or its home, or leaves through its aperture; `t` are those
behind it (R144, R318, R321, R459). -/
def performStore (s : State) (i : Nat) (e : StoreEntry) (t : List StoreEntry) : State :=
  let x := slotAt s i
  let bs := leBytes e.n e.data.toNat
  let s := setSlot s i { x with sbuf := t }
  let done (s : State) : State := setSlot s i (lowerCtr (slotAt s i) .s)
  match e.loc with
  | .phys pa =>
    if isAperture pa then apertureStore s ⟨i, x.prodid, x.taskid⟩ pa bs false else done (coreWrite s (slotCore i) pa bs)
  | .scratch c p off => done (scratchWrite s c p off bs)

/-- The oldest store of slot `i` drains, unless it waits or finds the write-through buffer full (R144, R321). -/
def drainOne (s : State) (i : Nat) : State :=
  match (slotAt s i).sbuf with
  | [] => s
  | e :: t =>
    if drainHeld s i e then s else
    match e.loc with
    | .phys pa =>
      if isAperture pa then performStore s i e t else
      match enterThrough s (slotCore i) (lineOf pa) with
      | none => s
      | some s => performStore s i e t
    | .scratch _ _ _ => performStore s i e t

/-- STORE_DRAIN (R144). -/
def execStoreDrain (c i : Nat) (s : State) : Result := .next (drainOne s (16 * c + i))

/-- A late load performs: its value, or poison, as its core then finds it; the vector loads before it are complete, or stand
still (R351, R373). -/
def performLoad (s : State) (i : Nat) (a : Arrival) : Option (Arrival × State) :=
  match a.load with
  | none => some (a, s)
  | some q =>
    if (!standsStill s i && vecPending s i q.seq readsMem) || engineOwns s q.loc q.n then none
    else
      let c := slotCore i
      let (line, s') := match q.loc with
        | .phys pa => (some (lineOf pa), readLine s c (lineOf pa) true)
        | .scratch _ _ _ => (none, s)
      some ({ a with val := loadValue q.n q.signed (locBytes s c q.loc q.n), poison := locPoisoned s c q.loc, load := none, line := line }, s')

/-- RESULT_ARRIVAL: the k-th result under way of a slot arrives (R90, R125). -/
def execResultArrival (c i k : Nat) (s : State) : Result :=
  let n := 16 * c + i
  let x := slotAt s n
  match x.arrivals[k]? with
  | none => .next s
  | some a =>
    if a.load.isSome && (x.arrivals.take k).any (fun b => b.load.isSome) then .next s else
    match performLoad s n a with
    | some (a, s) => .next (deliver (setSlot s n { x with arrivals := dropAt x.arrivals k }) n a)
    | none => .next s

/-! Acquire loads, release stores, fences (R146 to R148). -/

/-- LACQ: at thread scope an ordinary load; else the load, once the buffer has drained, then the acquire; at row scope from
one version of the row (R146, R147, R382). -/
def execLacq (d a : GReg) (p : Scope) (z : Size) (s : State) : Result :=
  if p = .thread then loadAt d a 0 z.bytes false s else
  withOps s [a] [] [d] fun vs s' =>
    let ea := opnd vs 0
    let n := z.bytes
    withAccess s s' n needR ea fun l _ s' =>
      if unitAhead s l n || loadsAhead s || !(me s).sbuf.isEmpty || decide (63 ≤ (me s).outL) then .next (park s (.entry ea)) else
      let c := myCore s'
      match l with
      | .scratch _ _ _ =>
        if locPoisoned s' c l then .next (takeTrap s 9 ea)
        else retire1 (acquireAt s' c p) d (loadValue n false (locBytes s' c l n))
      | .phys pa =>
        if isAperture pa then loadAperture s s' d ea pa n false (decide (2 ≤ p.rank)) 1 []
        else if p = .row then
          let bad := rowPoisoned s' c (rowOf pa)
          let (bs, old, s') := rowRead s' c (rowOf pa)
          let v := loadValue n false ((bs.drop (pa % 256)).take n)
          let s' := if old then setMe s' (countStale (me s') 1) else s'
          .next (advance (acquireAt (sendResult s' d v bad ea .l) c p))
        else if inL1 (coreAt s' c) (lineOf pa) && coreLinePoisoned s' c pa then .next (takeTrap s 9 ea)
        else
          match loadPhys s s' d ea pa n false false with
          | .next t => .next (acquireAt t c p)
          | r => r

/-- SREL: at thread scope an ordinary store; else the release, then the store: at cluster scope or wider at its home, at row
scope as a row-scope write, through an aperture with REL = 1 (R146, R147, R323, R381, R459). -/
def execSrel (d a : GReg) (p : Scope) (z : Size) (s : State) : Result :=
  if p = .thread then storeAt d a 0 z.bytes s else
  withOps s [a] [d] [] fun vs s' =>
    let ea := opnd vs 0
    let n := z.bytes
    withAccess s s' n needW ea fun l _ s' =>
      if !releaseReady s || engineOwns s l n || decide (63 ≤ (me s).outS) then .next (park s (.entry ea)) else
      let c := myCore s'
      let s' := releaseAt s' c p
      let bs := leBytes n (opnd vs 1).toNat
      match l with
      | .scratch k q off => .next (advance (scratchWrite s' k q off bs))
      | .phys pa =>
        if isAperture pa then
          .next (advance (apertureStore (setMe s' (raiseCtr (me s') .s)) (ownerOf s') pa bs true))
        else if p = .row then .next (advance (rowWrite s' c pa bs))
        else .next (advance (if 2 ≤ p.rank then scopedWrite s' c pa bs else coreWrite s' c pa bs))

/-- The release of a fence by the acting slot: at system scope an empty WRITE with REL = 1 leaves on every aperture that it has
stored through since its last (R148, R459; log 33). -/
def fenceRelease (s : State) (p : Scope) : State :=
  let s := releaseAt s (myCore s) p
  if p != .system then s else
  let far := (s.door.conns.filter fun (n, k) => decide (n < 32) && k.wrote.contains s.cur).map (·.1)
  far.foldl (fun s n => apertureStore (setMe s (raiseCtr (me s) .s)) (ownerOf s) (2 ^ 51 + n * 2 ^ 46) [] true) s

/-- FENCE full (R148). -/
def execFenceFull (p : Scope) (s : State) : Result :=
  if p = .thread then .next (advance s)
  else if !releaseReady s then .next (park s (.entry 0))
  else .next (advance (acquireAt (fenceRelease s p) (myCore s) p))

/-- Whether a fence at row scope waits for a row-scope write that the slot has queued (R148). -/
def rowWrites (s : State) (p : Scope) : Bool := p == .row && vecAhead s fun e => e.op == .vstrow || e.op == .vamorow

/-- FENCE acq (R148). -/
def execFenceAcq (p : Scope) (s : State) : Result :=
  if p = .thread then .next (advance s)
  else if !(me s).sbuf.isEmpty || portWaits s s.cur || loadsAhead s || rowWrites s p then .next (park s (.entry 0))
  else .next (advance (acquireAt s (myCore s) p))

/-- FENCE rel (R148). -/
def execFenceRel (p : Scope) (s : State) : Result :=
  if p = .thread then .next (advance s)
  else if !releaseReady s then .next (park s (.entry 0))
  else .next (advance (fenceRelease s p))

/-- FENCE flush: the whole core's lines written back and those not coherent at the scope invalidated (R148). -/
def execFenceFlush (p : Scope) (s : State) : Result :=
  if p = .thread then .next (advance s)
  else if !(me s).sbuf.isEmpty || rowWrites s p then .next (park s (.entry 0))
  else .next (advance (if 2 ≤ p.rank then invalidateRemote s (myCore s) else s))

/-! Atomics (R385 to R387). -/

/-- The write of an atomic where R387 has it perform. -/
def atomicWrite (s : State) (c : Nat) (p : Scope) (l : Loc) (bs : List Byte) : State :=
  match l with
  | .scratch k q off => scratchWrite s k q off bs
  | .phys pa =>
    if p = .row then rowWrite s c pa bs
    else if isRemote c pa && decide (2 ≤ p.rank) then scopedWrite s c pa bs
    else coreWrite s c pa bs

/-- The old word, where R387 has the atomic perform. -/
def atomicOld (s : State) (c : Nat) (p : Scope) (l : Loc) (n : Nat) : List Byte :=
  match l with
  | .phys pa => if 2 ≤ p.rank then memBytes (writeBackLine s c (lineOf pa)).mem pa n else coreBytes s c pa n
  | .scratch _ _ _ => locBytes s c l n

/-- An atomic of minor order `op`; amocas reads g[d + 1] too. A poisoned word is neither read nor written (R385 to R387,
R437). -/
def atomicAt (op : Nat) (d a : GReg) (p : Scope) (z : Size) (s : State) : Result :=
  withOps s [a] (if op = 6 then [d, d + 1] else [d]) [d] fun vs s' =>
    let ea := opnd vs 0
    let n := z.bytes
    withAccess s s' n needRW ea fun l _ s' =>
      let ap : Bool := match l with
        | .phys pa => isAperture pa
        | .scratch _ _ _ => false
      if ap && p != .system then .next (takeTrap s 7 ea)
      else if !(me s).sbuf.isEmpty || (p != .thread && !releaseReady s) || lateLoads s || (vecAhead s fun _ => true) ||
          engineOwns s l n || decide (63 ≤ (me s).outL) then
        .next (park s (.entry ea))
      else
        let c := myCore s'
        let s' := releaseAt s' c p
        let v := (opnd vs 1).toNat % 2 ^ (8 * n)
        let x := (opnd vs 2).toNat % 2 ^ (8 * n)
        match l with
        | .phys pa =>
          if isAperture pa then
            let data := [BitVec.ofNat 8 op, BitVec.ofNat 8 z.code.toNat] ++ List.replicate 6 0 ++ leBytes 8 v ++ leBytes 8 x ++
              List.replicate 8 0
            loadAperture s s' d ea pa n false true 3 [⟨BitVec.allOnes 32, data, crc16 data⟩]
          else if coreLinePoisoned s' c pa then .next (advance (acquireAt (sendResult s' d 0 true ea .l) c p))
          else
            let old := leNat (atomicOld s' c p l n)
            let s' := atomicWrite s' c p l (leBytes n (atomicNew op (8 * n) old v x))
            .next (advance (acquireAt (sendResult s' d (BitVec.ofNat 64 old) false ea .l) c p))
        | .scratch _ _ _ =>
          if locPoisoned s' c l then .next (takeTrap s 9 ea) else
          let old := leNat (atomicOld s' c p l n)
          let s' := atomicWrite s' c p l (leBytes n (atomicNew op (8 * n) old v x))
          .next (advance (acquireAt (sendResult s' d (BitVec.ofNat 64 old) false ea .l) c p))

/-- AMOADD (R385). -/
def execAmoadd (d a : GReg) (p : Scope) (z : Size) (s : State) : Result := atomicAt 0 d a p z s
/-- AMOSWAP (R385). -/
def execAmoswap (d a : GReg) (p : Scope) (z : Size) (s : State) : Result := atomicAt 1 d a p z s
/-- AMOMAX (R385). -/
def execAmomax (d a : GReg) (p : Scope) (z : Size) (s : State) : Result := atomicAt 2 d a p z s
/-- AMOMIN (R385). -/
def execAmomin (d a : GReg) (p : Scope) (z : Size) (s : State) : Result := atomicAt 3 d a p z s
/-- AMOAND (R385). -/
def execAmoand (d a : GReg) (p : Scope) (z : Size) (s : State) : Result := atomicAt 4 d a p z s
/-- AMOOR (R385). -/
def execAmoor (d a : GReg) (p : Scope) (z : Size) (s : State) : Result := atomicAt 5 d a p z s
/-- AMOCAS (R385). -/
def execAmocas (d a : GReg) (p : Scope) (z : Size) (s : State) : Result := atomicAt 6 d a p z s

/-! Cache-line operations (R153). -/

/-- The places of the lines over a range, each page translated as a load; a failing page stops it at the address where it
fails, or is skipped when `skip` is set; a page that migrates is waited for either way. DESIGN CHOICE: a page after the range's first
fails at the first byte of its first line, which TRAPADDR then is (R153, R346; log 13). -/
def rangeLines (s : State) (skip : Bool) (va : List Word) : Except (Access × Word) (List Loc × State) :=
  match va with
  | [] => .ok ([], s)
  | a :: t =>
    match checkAddr s (myCore s) (me s).prodid (me s).sup (isUser (me s)) needR a with
    | (.ok l _, s) =>
      match rangeLines s skip t with
      | .ok (ls, s) => .ok (l :: ls, s)
      | .error e => .error e
    | (.migrating, _) => .error (.migrating, a)
    | (x, s) => if skip then rangeLines s skip t else .error (x, a)

/-- The virtual addresses of the lines overlapping [a, a + max(len, 1)): each line's first byte, but the range's own first
byte in the first line (R153). -/
def lineStarts (a : Word) (len : Nat) : List Word :=
  let n := (a.toNat % 32 + max len 1 - 1) / 32 + 1
  tab n 0 fun i => if i = 0 then a else a - BitVec.ofNat 64 (a.toNat % 32) + BitVec.ofNat 64 (32 * i)

/-- What a cache-line operation does to one line: 0 cwb, 1 cinv, 2 cflush, 3 cprefetch (R153). -/
def lineOp (op c : Nat) (s : State) (l : Loc) : State :=
  match l with
  | .scratch _ _ _ => s
  | .phys pa =>
    if isAperture pa then s else
    let drop (s : State) : State :=
      let s := writeBackLine s c (lineOf pa)
      let x := coreAt s c
      setCore s c { forgetLines x (fun m => m == lineOf pa) with icache := x.icache }
    match op with
    | 0 => writeBackLine s c (lineOf pa)
    | 1 => if isRemote c pa then drop s else s
    | 2 => drop s
    | _ => if hasL2 (coreAt s c) then readLine s c (lineOf pa) true else s

/-- The first byte of the line or block that holds a place. -/
def lineStart (l : Loc) : Loc :=
  match l with
  | .scratch c p o => .scratch c p (o / 32 * 32)
  | .phys pa => .phys (pa / 32 * 32)

/-- Whether a line waits for an earlier store of the acting slot, in its buffer or of its context, or for a vector instruction that
owns it (R153, R378). -/
def lineHeld (s : State) (l : Loc) : Bool :=
  ((me s).sbuf.any fun e => locOverlap e.loc e.n (lineStart l) 32) || unitAhead s (lineStart l) 32

/-- A cache-line operation over its range. DESIGN CHOICE: the pending register of `cwb`, `cinv` or `cflush` has no one access: TRAPADDR
of a patience trap on it is 0 (R123, R153; log 5). -/
def lineRange (op : Nat) (d a b : GReg) (s : State) : Result :=
  withOps s [a, b] [] [d] fun vs s' =>
    let len := min (opnd vs 1).toNat 65536
    let starts := lineStarts (opnd vs 0) len
    match rangeLines s' (op == 3) starts with
    | .error (.trap k, at_) => .next (accessTrap s k at_)
    | .error (_, at_) => .next (park s (.migrating at_ (cycleOf s (myCore s) + 256)))
    | .ok (ls, s') =>
      if ls.any (lineHeld s) || (op != 3 && decide (63 ≤ (me s).outL)) then .next (park s (.entry (opnd vs 0)))
      else
        let s' := ls.foldl (lineOp op (myCore s)) s'
        let v := BitVec.ofNat 64 starts.length
        if op = 3 then retire1 s' d v else .next (advance (sendResult s' d v false 0 .l))

/-- CWB (R153). -/
def execCwb (d a b : GReg) (s : State) : Result := lineRange 0 d a b s
/-- CINV (R153). -/
def execCinv (d a b : GReg) (s : State) : Result := lineRange 1 d a b s
/-- CFLUSH (R153). -/
def execCflush (d a b : GReg) (s : State) : Result := lineRange 2 d a b s
/-- CPREFETCH (R153). -/
def execCprefetch (d a b : GReg) (s : State) : Result := lineRange 3 d a b s

end Sys2Proof.Machine
end

