-- ==== Sys2Proof/Machine/Errors.lean ====
section
/-! DEFINITION. Seals and poison, error windows, lasting faults, retirement marks and thermal levels (17 R436, R441 to R444;
06 R166, R168; 13 R369, R370). -/

namespace Sys2Proof.Machine

/-- ERRWIN of a class, at its reset value before any write (R442). -/
def errWin (s : State) (cls : Nat) : Word :=
  look s.errors.win cls (if cls ≤ 4 then 0x8003_0002_540B_E400#64 else 0x0003_0002_540B_E400#64)

/-- The core of a lane group's or near-store block's instance number: 64 groups or 10,240 blocks a core (R441). -/
def instCore (r : Resource) : Nat := if r.cls = 0 then r.inst / 64 else r.inst / 10240

/-- A record about a resource: to its core's ring, or to its die's (R439). -/
def resourceRecord (s : State) (r : Resource) (f : FaultRec) : State :=
  if r.cls = 0 ∨ r.cls = 4 then faultRecord s (instCore r) f else dieRecord s (r.cluster / 32) f

/-- A lane group marked for retirement (R168, R444). -/
def markGroup (s : State) (c grp : Nat) : State :=
  let x := coreAt s c
  setCore s c { x with marked := x.marked ||| BitVec.twoPow 64 grp }

/-- The stack of an HBM row's instance, whose number is that of its 256-byte block, PA ÷ 256 (R332, R443; log 16). -/
def rowStack (r : Resource) : Nat := r.inst / 2 ^ 28 % 4

/-- The lasting action of a class, taken once (R441, R443). -/
def lastingAction (s : State) (r : Resource) : State :=
  match r.cls with
  | 0 =>
    let s := markGroup s (instCore r) (r.inst % 64)
    { s with errors := { s.errors with marks := s.errors.marks ++ [(instCore r, r.inst % 64)] } }
  | 1 =>
    let d := r.cluster / 32
    let x := dieAt s d
    let n := look x.spares (rowStack r) 0 + 1
    let s := setDie s d { x with spares := put x.spares (rowStack r) n }
    let s := { s with errors := { s.errors with spared := s.errors.spared ++ [(1, r.inst)] } }
    if Config.hbmSpares ≤ n then dieRecord s d ⟨7, 1, 0, BitVec.ofNat 64 r.inst, 0, 0, 0⟩ else s
  | n => { s with errors := { s.errors with spared := s.errors.spared ++ [(n, r.inst)] } }

/-- An error charged to a resource instance; the one that brings the counter to THRESH is lasting (R441, R442). -/
def chargeError (s : State) (r : Resource) : State :=
  if 4 < r.cls then s else
  let now := (clusterAt s r.cluster).cycle
  let w := errWin s r.cls
  let (opened, n) := match s.errors.counts.find? fun x => x.1 == r with
    | some (_, o, n) => (o, n + 1)
    | none => (now, 1)
  let rest := s.errors.counts.filter fun x => x.1 != r
  if bitOf w 63 && decide (max (fld w 48 8) 1 ≤ n) then
    let s := { s with errors := { s.errors with counts := rest } }
    let s := lastingAction s r
    resourceRecord s r ⟨3, r.cls, 0, BitVec.ofNat 64 r.inst, 0, 0, n⟩
  else { s with errors := { s.errors with counts := rest ++ [(r, opened, n)] } }

/-- ERROR_WINDOW_EXPIRY: WINDOW local cycles after it opened, the counter returns to zero (R442). -/
def execErrorWindowExpiry (r : Resource) (s : State) : Result :=
  match s.errors.counts.find? fun x => x.1 == r with
  | some (_, o, _) =>
    if o + fld (errWin s r.cls) 0 40 ≤ (clusterAt s r.cluster).cycle then
      .next { s with errors := { s.errors with counts := s.errors.counts.filter fun x => x.1 != r } }
    else .next s
  | none => .next s

/-- LINK_RETRY: charged to its link lane (R441). -/
def execLinkRetry (r : Resource) (s : State) : Result :=
  if r.cls = 2 ∨ r.cls = 3 then .next (chargeError s r) else .next s

/-- A line poisoned at its home and in every copy; the first time writes a record of kind 2 (R436). -/
def poisonLine (s : State) (pa : Nat) : State :=
  let l := lineOf pa
  let first := !s.poisoned.contains l
  let s := { s with
    poisoned := if first then l :: s.poisoned else s.poisoned
    cores := s.cores.map fun (c, x) => (c, { x with remote := x.remote.map fun r => if r.line = l then { r with poison := true } else r }) }
  if first then dieRecord s (homeDie pa) ⟨2, 0, 0, BitVec.ofNat 64 (l * 32), 0, 0, 0⟩ else s

/-- A scratch block poisoned (R320, R436). -/
def poisonScratch (s : State) (c p off : Nat) : State :=
  let x := scratchAt s c p
  if x.poison.contains (off / 32) then s else
  let s := setScratch s c p { x with poison := off / 32 :: x.poison }
  sealRecord s c 2 p (.scratch c p off)

/-- Core `c`'s clean copy of a line is dropped and fetched once more from its source: its instruction-cache copy from its caches or
the line's home by a new fill, its L2 copy of a remote line from the home (R328, R436). -/
def refetch (s : State) (c pa : Nat) : State :=
  let l := lineOf pa
  let x := coreAt s c
  let x := { x with remote := x.remote.map fun r =>
    if r.line = l ∧ r.dirty = 0 then
      { r with data := memBytes s.mem (l * 32) 32, poison := s.poisoned.contains l, stamp := none, superseded := false }
    else r }
  let s := setCore s c x
  setCore s c { x with
    icache := x.icache.map fun r => if r.line = l then { r with data := coreBytes s c (l * 32) 32, stamp := x.fills } else r
    fills := x.fills + 1 }

/-- SEAL_MISMATCH: a clean copy is fetched once more; a refetched or dirty copy, a home copy or a scratch block is poisoned;
the error, or a zeroed row's readback, is charged (R436, R441). -/
def execSealMismatch (at_ : SealSite) (r : Resource) (s : State) : Result :=
  let s := match at_ with
    | .zeroed => s
    | .copy c pa again => if again then poisonLine s pa else refetch s c pa
    | .dirty _ pa => poisonLine s pa
    | .home pa => poisonLine s pa
    | .scratch c p off => poisonScratch s c p off
  .next (chargeError s r)

/-- Whether a package core number names a core (R16, R122). -/
def coreExists (s : State) (c : Nat) : Bool := decide (c < 1024) && (dieAt s (coreDie c)).present

/-- RETSEL_MARK: the supervisor marks a group of a core that exists (R444). -/
def execRetselMark (c grp : Nat) (s : State) : Result :=
  if coreExists s c && decide (grp < 64) then .next (markGroup s c grp) else .next s

/-- LANEMAP: groups in service (R166). -/
def laneMap (s : State) (c : Nat) : Word := ~~~(coreAt s c).outGroups

/-- RETMAP as RETSEL views it (R444). -/
def retMap (s : State) : Word :=
  let c := fld s.errors.retsel 32 10
  if !coreExists s c then 0
  else if bitOf s.errors.retsel 8 then (coreAt s c).marked &&& laneMap s c else (coreAt s c).outGroups

/-! Thermal levels (R369, R370): 0 Normal, 1 Hot, 2 Throttled. -/

/-- The level a first reading sets (R370). -/
def firstLevel (t : Nat) : Nat := if t < 85 then 0 else if t < 95 then 1 else 2

/-- The level after a reading, from the level before it (R370). -/
def nextLevel (l t : Nat) : Nat :=
  if 95 ≤ t then 2
  else if l = 2 ∧ 92 ≤ t then 2
  else if 85 ≤ t then 1
  else if 1 ≤ l ∧ 82 ≤ t then 1
  else 0

/-- The stack's thermal state. -/
def thermalAt (s : State) (d k : Nat) : Thermal := look (dieAt s d).thermal k ⟨0, 0⟩

/-- THERMAL_A to THERMAL_D (R369). -/
def thermalWord (s : State) (d k : Nat) : Word :=
  let t := thermalAt s d k
  BitVec.ofNat 64 (min t.temp 255 * 65536 + (if t.level = 0 then 0 else 256) +
    (if t.level = 0 then 64 else if t.level = 1 then 56 else 32))

/-- STACK_LEVEL_CHANGE: a reading of a stack's sensor (R370). -/
def execStackLevelChange (die stack temp : Nat) (s : State) : Result :=
  if 4 ≤ stack then .next s else
  let d := dieAt s die
  .next (setDie s die { d with thermal := put d.thermal stack ⟨temp, nextLevel (thermalAt s die stack).level temp⟩ })

end Sys2Proof.Machine
end

