-- ==== Sys2Proof/Machine/Preempt.lean ====
section
/-! DEFINITION. Pre-emption, save areas, restoring a task, and discarding vector entries (17 R427, R445 to R452). -/

namespace Sys2Proof.Machine

/-! Register rows of a context (R157). -/

/-- The rows of register `r` for element `i`. -/
def vRow (y : Ctx) (r i : Nat) : Row32 := (look y.v r []).getD i 0

/-- A list with position `i` set, extended as needed. -/
def setRow (l : List Row32) (i : Nat) (x : Row32) : List Row32 :=
  if i < l.length then l.set i x else l ++ List.replicate (i - l.length) 0 ++ [x]

/-- Bit `i` of mask register `r`. -/
def mBit (y : Ctx) (r i : Nat) : Bool := (look y.m r []).getD i false

/-! Discarding entries (R427, R451). -/

/-- The counters an entry holds (R131, R229). -/
def entryCtrs (e : QEntry) : List Ctr := if e.op = .vqpack ∧ e.acc ≠ [] then [vopCtr e.op, .s] else [entryCtr e]

/-- One entry removed as though it had never issued (R427). -/
def discardOne (x : Slot) (e : QEntry) : Slot :=
  let x := (entryCtrs e).foldl lowerCtr x
  if owesG e.op then unpend x e.f.d.toNat else x

/-- Every entry of context `k` discarded, with the strips, pins, packets and late reads that belong to them (R427). -/
def discardEntries (s : State) (i k : Nat) : State :=
  let y := ctxAt s k
  let x := y.queue.foldl discardOne (slotAt s i)
  let x := { x.late.foldl (fun x r => unpend x r.reg) x with late := [], flagWrites := [] }
  let s := setSlot s i x
  let c := coreAt s (ctxCore k)
  let s := setCore s (ctxCore k) { c with
    strips := c.strips.filter fun t => t.ctx != k
    sfuVec := c.sfuVec.filter fun v => v.ctx != k
    rowHold := c.rowHold.filter fun h => !isRelay k h
    pinWait := c.pinWait.filter fun p => p.ctx != k
    pins := c.pins.filter fun p => p.ctx != k }
  let s := forgetPackets s k
  setCtx s k { ctxAt s k with queue := [], trap := none, vfWrites := [], frozen := false, bandIssue := y.band, holdsIssue := y.holds }

/-- The context of slot `i` is freed: its buffers, its binding (R115, R264). DESIGN CHOICE: the items left in its operand and tree
queues go with it; a save has taken them first (R117; log 21). -/
def unbindCtx (s : State) (i : Nat) : State :=
  match ctxOf s i with
  | none => s
  | some k =>
    let s := freeHold (freeHold s k 0) k 1
    let s := setCtx s k { ctxAt s k with bound := none, frozen := false, holdsIssue := [], tileQ := [], treeQ := [] }
    setSlot s i { slotAt s i with vctx := none }

/-! The save area (R447 to R449). -/

/-- Bytes written at a virtual address as the device writes a save area, line by line (R447). -/
def areaWrite (fuel : Nat) (s : State) (c : Nat) (va : Word) (bs : List Byte) : State :=
  match fuel with
  | 0 => s
  | fuel + 1 =>
    if bs = [] then s else
    let n := 32 - va.toNat % 32
    let s := match supPhys s c va with
      | some pa => scopedWrite s c pa (bs.take n)
      | none => s
    areaWrite fuel s c (va + BitVec.ofNat 64 n) (bs.drop n)

/-- Bytes read from a save area. -/
def areaRead (fuel : Nat) (s : State) (c : Nat) (va : Word) (n : Nat) : List Byte :=
  match fuel with
  | 0 => []
  | fuel + 1 =>
    if n = 0 then [] else
    let k := min n (32 - va.toNat % 32)
    let bs := match supPhys s c va with
      | some pa => coreBytes s c pa k
      | none => List.replicate k 0
    bs ++ areaRead fuel s c (va + BitVec.ofNat 64 k) (n - k)

/-- Whether each 64 KiB of a range translates for the device (R447). -/
def areaMapped (s : State) (c : Nat) (va : Word) (n : Nat) : Bool :=
  (tab ((n + 65535) / 65536) 0 id).all fun i => (supPhys s c (va + BitVec.ofNat 64 (65536 * i))).isSome

/-- Whether a page of a range migrates (R346). -/
def areaMigrates (s : State) (c : Nat) (va : Word) (n : Nat) : Bool :=
  supMigrates s c (va + BitVec.ofNat 64 (n - 1)) ||
    (tab ((n + 65535) / 65536) 0 id).any fun i => supMigrates s c (va + BitVec.ofNat 64 (65536 * i))

/-- Whether a line of a range is poisoned. -/
def areaPoisoned (s : State) (c : Nat) (va : Word) (n : Nat) : Bool :=
  (tab ((n + 31) / 32) 0 id).any fun i =>
    match supPhys s c (va + BitVec.ofNat 64 (32 * i)) with
    | some pa => coreLinePoisoned s c pa
    | none => false

/-- OUTST (R131). -/
def outstWord (x : Slot) : Word := BitVec.ofNat 64 (x.outT * 2 ^ 18 + x.outC * 2 ^ 12 + x.outS * 2 ^ 6 + x.outL)

/-- QMAP (R118). -/
def qmapWord (x : Slot) : Word :=
  let codes := x.qcode.toList.map (·.toNat)
  BitVec.ofNat 64 ((codes.mapIdx fun n c => c * 2 ^ (8 + 3 * n) + if c = 0 then 0 else 2 ^ n).foldl (· + ·) 0)

/-- VCTX (R118). -/
def vctxWord (x : Slot) : Word := BitVec.ofNat 64 (x.vctx.getD 0xFF)

/-- HIWATER (R175). -/
def hiwaterWord (y : Ctx) : Word := BitVec.ofNat 64 (y.hiElems * 65536 + y.hiRegs)

/-- HMODE (R129). -/
def hmodeWord (x : Slot) : Word := BitVec.ofNat 64 ((if x.handler then 2 else 0) + if x.sup then 1 else 0)

/-- VSTART as a stopped context shows it: the restart point at the commit pointer (R240). -/
def vstartShown (y : Ctx) : Nat :=
  match y.queue with
  | e :: _ => e.restart
  | [] => y.vstart

/-- Bits of a mask register as bytes, bit i at byte ⌊i ÷ 8⌋ (R448). -/
def bitBytes (fuel : Nat) (l : List Bool) : List Byte :=
  match fuel with
  | 0 => []
  | fuel + 1 =>
    if l = [] then [] else
    BitVec.ofNat 8 ((l.take 8).mapIdx (fun i b => if b then 2 ^ i else 0) |>.foldl (· + ·) 0) :: bitBytes fuel (l.drop 8)

/-- A queue entry's 64 bytes (R449). -/
def entryBytes (e : QEntry) (settled : Bool) : List Byte :=
  leBytes 8 e.addr.toNat ++ (tab 5 0 fun i => leBytes 2 (e.words.getD i 0).toNat).flatten ++ [BitVec.ofNat 8 e.words.length] ++
  List.replicate 5 0 ++ leBytes 8 e.ga.toNat ++ leBytes 8 e.gb.toNat ++ leBytes 8 e.gc.toNat ++
  leBytes 8 (e.vl + e.restart * 2 ^ 16 + e.vtype.toNat * 2 ^ 32 + e.logG * 2 ^ 52 + if settled then 2 ^ 56 else 0) ++
  leBytes 8 e.vdcfg.toNat

/-- A hold's word of the product state header (R449). -/
def holdWord (h : Hold) : Nat :=
  (if h.held then 1 else 0) + h.ft * 2 + h.m * 2 ^ 8 + h.k * 2 ^ 13 + h.l * 2 ^ 29

/-- A band's word of the product state header (R449). -/
def bandWord (b : BandDesc) (logG : Nat) : Nat :=
  b.band + b.regs * 2 ^ 5 + b.ft * 2 ^ 11 + b.kc * 2 ^ 18 + b.l * 2 ^ 27 + (if b.bnd then 2 ^ 34 else 0) + logG * 2 ^ 35

/-- The parts of a save area that hold the task's scalar state (R448). -/
def scalarArea (s : State) (i : Nat) (why : PreWhy) : List (Nat × List Byte) :=
  let x := slotAt s i
  let y := match ctxOf s i with
    | some k => ctxAt s k
    | none => ctx0
  let w (v : Word) : List Byte := leBytes 8 v.toNat
  let wait := match x.waiting with
    | .arrived home index ag =>
      ag.toNat * 2 ^ 32 + 2 ^ 31 + (if home = 16 then 2 ^ 15 else 0) + index
    | _ => 0
  [ (0x0008, leBytes 8 (2 ^ 63 + (match why with
      | .curtain => 0
      | .deadline => 1
      | .prodctl => 2) * 2 ^ 60 + x.prodid * 2 ^ 32 + x.taskid.toNat)),
    (0x0010, w x.pc ++ w x.handle ++ w x.fmtp ++ w x.sclp),
    (0x0030, leBytes 8 (x.pend.toNat + x.poison.toNat * 2 ^ 32)),
    (0x0038, leBytes 8 wait),
    (0x0040, (x.g.toList.map w).flatten),
    (0x0140, (([x.fflags.setWidth 64, x.frm.setWidth 64, qmapWord x, x.patience.setWidth 64, x.stalerd.setWidth 64,
      outstWord x, vctxWord x, BitVec.ofNat 64 y.vl, y.vtype.setWidth 64, BitVec.ofNat 64 (vstartShown y), hiwaterWord y,
      y.vfault, y.vdcfg, hmodeWord x, x.trappc, x.trapvc, x.trapcause, x.trapaddr, x.hscratch0, x.hscratch1] :
        List Word).map w).flatten),
    (0x01E0, tab 8 0 fun n => BitVec.ofNat 8 (queueItems s i (x.qcode.toList.getD n 0).toNat).length),
    (0x0200, (tab 8 0 fun n =>
      let bs := ((queueItems s i (x.qcode.toList.getD n 0).toNat).map w).flatten
      bs ++ List.replicate (512 - bs.length) 0).flatten) ]

/-- The logic arrays of a context, in ascending number: those of its ways, retired ones among them (R169, R448). -/
def ctxArrays (y : Ctx) : List Nat :=
  (tab 16 0 id).filter y.ways.contains |>.map (fun w => tab 4 (4 * w) id) |>.flatten

/-- The parts that hold the context, written when VCTX ≠ 0xFF (R448, R449). -/
def contextArea (y : Ctx) : List (Nat × List Byte) :=
  let pad (n : Nat) (bs : List Byte) : List Byte := bs.take n ++ List.replicate (n - bs.length) 0
  [ (0x1200, pad 1024 (y.queue.map fun e => entryBytes e (settled y e)).flatten),
    (0x1600, leBytes 8 (bandWord y.band y.logG) ++ leBytes 8 (holdWord (look y.holds 0 hold0)) ++
      List.replicate 8 0 ++ leBytes 8 (holdWord (look y.holds 1 hold0)) ++ List.replicate 16 0 ++ leBytes 8 y.queue.length ++
      List.replicate 8 0),
    (0x1640, (tab 512 0 fun n => leBytes 8 (look y.accs n 0).toNat).flatten),
    (0x2640, pad 8192 (look y.holds 0 hold0).data ++ pad 256 (look y.holds 0 hold0).bound),
    (0x4740, pad 8192 (look y.holds 1 hold0).data ++ pad 256 (look y.holds 1 hold0).bound),
    (0x6840, pad 16384 ((ctxArrays y).map fun a => tab 256 0 fun p => BitVec.ofNat 8 (look y.blockMap (256 * a + p) p)).flatten),
    (0xA840, List.replicate 0x57C0 0) ] ++
  (tab 8 0 fun k => (0x10000 + 4096 * k, pad 4096 (bitBytes 4096 (look y.m k [])))) ++
  (tab y.hiRegs 0 fun r => (0x18000 + 4 * r * y.hiElems, (tab y.hiElems 0 fun i => leBytes 4 (vRow y r i).toNat).flatten))

/-- Bytes of a save area (R448). -/
def areaSize (y : Ctx) : Nat := 0x18000 + 4 * y.hiRegs * y.hiElems

/-- Parts of a save area written. -/
def writeParts (s : State) (c : Nat) (area : Word) (ps : List (Nat × List Byte)) : State :=
  match ps with
  | [] => s
  | (o, bs) :: t => writeParts (areaWrite (bs.length / 32 + 2) s c (area + BitVec.ofNat 64 o) bs) c area t

/-- The core's own written bytes of a pool's word are at its home, where the device's compare-and-swap acts (R323, R447). -/
def poolRecall (s : State) (c : Nat) (va : Word) : State :=
  match supPhys s c va with
  | some pa => writeBackLine s c (lineOf pa)
  | none => s

/-- A word of a pool at its home (R447). -/
def poolWord (s : State) (c : Nat) (va : Word) : Word :=
  match supPhys s c va with
  | some pa => homeWord s (.phys pa)
  | none => 0

/-- Whether a pool's header is poisoned at its home. -/
def poolPoisoned (s : State) (c : Nat) (va : Word) : Bool :=
  match supPhys s c va with
  | some pa => homePoisoned s (.phys pa)
  | none => true

/-- The block a pool gives, where the device can use the pool and the task fits; FREE changes at package scope. DESIGN CHOICE: it
cannot use a pool whose free block's link is poisoned (R436, R447; log 27). -/
def poolTake (s : State) (c : Nat) (pool : Word) (need : Nat) : Option (Word × State) :=
  let s := poolRecall s c pool
  let free := poolWord s c pool
  if pool = 0 || (supPhys s c pool).isNone || poolPoisoned s c pool || free = 0 || (supPhys s c free).isNone ||
      decide ((poolWord s c (pool + 8)).toNat < need) || !areaMapped s c free need || poolPoisoned s c free then none else
  let s := poolRecall s c free
  some (free, areaPut s c pool (poolWord s c free))

/-- Whether a page that a save needs migrates: of the pool, of its free block, or of the area saved last for the production (R346,
R447, R450). -/
def poolWaits (s : State) (c prod : Nat) (pool : Word) (need : Nat) : Bool :=
  pool != 0 && (supMigrates s c pool || areaMigrates s c (poolWord (poolRecall s c pool) c pool) need ||
    ((coreAt s c).saved.any fun q => q.prod == prod && supMigrates s c q.area))

/-- A block goes back to its pool (R450). -/
def poolGive (s : State) (c : Nat) (pool area : Word) : State :=
  let s := poolRecall s c pool
  areaPut (areaPut s c area (poolWord s c pool)) c pool area

/-- The slot an emptied one becomes: the trap entries, SAVEPTR, the handler's scratch words and the debug registers, which no
task change touches, are kept (R94, R129, R426, R447). -/
def emptied (x : Slot) : Slot := { slot0 with
  trappc := x.trappc
  trapvc := x.trapvc
  trapcause := x.trapcause
  trapaddr := x.trapaddr
  trapvec := x.trapvec
  hscratch0 := x.hscratch0
  hscratch1 := x.hscratch1
  saveptr := x.saveptr
  dbg := { x.dbg with
    stepVec := false, skipPc := false, vcHit := false
    lost := (match x.st with
      | .stopped (.debug _) _ => true
      | _ => x.dbg.lost) } }

/-- The slot of a task that is pre-empted or killed: a STEP of it that is under way is lost (R475; log 28). -/
def abandoned (x : Slot) : Slot :=
  let y := emptied x
  if y.dbg.stepping then { y with dbg := { y.dbg with stepping := false, stepReq := false, lost := true } } else y

/-- Bytes that a save of slot `i`'s task needs (R447, R448). -/
def saveNeed (s : State) (i : Nat) : Nat :=
  match ctxOf s i with
  | some k => areaSize (ctxAt s k)
  | none => 0x18000

/-- Step 5 and 6 of R446: the task saved and the slot freed, or held in place (R447). -/
def saveTask (s : State) (i : Nat) (why : PreWhy) : State :=
  let c := slotCore i
  let x := slotAt s i
  let y := match ctxOf s i with
    | some k => ctxAt s k
    | none => ctx0
  match poolTake s c x.saveptr (saveNeed s i) with
  | none =>
    let s := setSlot s i { x with st := .stopped (.held why) none, since := none }
    faultRecord s c ⟨6, 0, x.prodid, 0, 0, 0, 0⟩
  | some (area, s) =>
    let s := writeParts s c area ((0, List.replicate 8 0) :: scalarArea s i why ++ if x.vctx.isSome then contextArea y else [])
    let s := match (coreAt s c).saved.reverse.find? fun q => q.prod == x.prodid with
      | some q => areaPut s c q.area area
      | none => s
    let writes := y.vfWrites.map fun (n, v) => ((y.queue.filter fun e => decide (e.seq ≤ n)).length, v)
    let s := match ctxOf s i with
      | some k =>
        let s := setCtx s k { ctxAt s k with queue := [], vfWrites := [] }
        let d := coreAt s c
        unbindCtx (setCore s c { d with pins := d.pins.filter fun p => p.ctx != k }) i
      | none => s
    let d := coreAt s c
    let rest (b : Nat) : List Byte := (look y.holds b hold0).bound.drop 256
    let s := setCore s c { d with saved := d.saved ++ [⟨area, x.prodid, x.taskid, x.cls, x.saveptr, x, y.queue, writes,
      y.vstart, y.tileQ, y.treeQ, [rest 0, rest 1]⟩] }
    setSlot s i (abandoned x)

/-- A pre-emption begins: the slot stops issuing, and a debug stop that awaited the context's strips is lost; a slot that only
waits to restore a saved task holds no task (R446, R475). -/
def markPreempt (s : State) (i : Nat) (why : PreWhy) : State :=
  let y := slotAt s i
  let x := match y.freezing with
    | some (.debug _) => { y with freezing := none, dbg := { y.dbg with lost := true } }
    | _ => y
  if x.saved then s else
  match x.st with
  | .free => s
  | .ready => setSlot s i { x with st := .stopped (.preempting why) none }
  | .parked w => setSlot s i { x with st := .stopped (.preempting why) (some w) }
  | .stopped (.debug _) w => setSlot s i { x with st := .stopped (.preempting why) w, dbg := { x.dbg with lost := true } }
  | .stopped _ _ => s

/-- Whether step 2 of R446 is over: no result but tokens is awaited, requests have returned, tile instructions are complete
and the store buffer is empty. What a frozen context owes a handler waits with its entries. DESIGN CHOICE: an `sfu` behind request items
that cannot leave, their result queue being full, is awaited for as long as they stand there, as `retire` awaits it (R402 to R404;
log 21). -/
def preemptReady (s : State) (i : Nat) : Bool :=
  let x := slotAt s i
  let k := coreAt s (slotCore i)
  let entries := match ctxOf s i with
    | some n => (ctxAt s n).queue
    | none => []
  let arriving := match x.waiting with
    | .arriving _ => true
    | _ => false
  !arriving && x.sbuf.isEmpty && x.arrivals.isEmpty && !portWaits s i && (s.curtainReqs.all fun q => q.slot != i) &&
  ((k.sfuReqs ++ sfuSent k).all fun q => q.slot != i) &&
  (x.handler || (x.late.isEmpty && x.outT == 0 && entries.all fun e => !owesG e.op))

/-- Steps 4 to 6 of R446 for slot `i`. -/
def preemptSave (s : State) (i : Nat) (why : PreWhy) : State :=
  let s := withdrawRequest s i
  let x := slotAt s i
  let w := match x.waiting with
    | .arrived h n g => Waiting.arrived h n g
    | _ => .none
  saveTask (setSlot s i { x with waiting := w, since := none }) i why

/-- Steps 3 to 6 of R446 for slot `i`, whose context `k` runs no strip; a trap that falls due as the context freezes is taken
first (R452). -/
def preemptNow (s : State) (i k : Nat) (why : PreWhy) : State :=
  let s := freeze s k
  preemptSave (match trapDue (ctxAt s k) with
    | some t => enterVector s i k t
    | none => s) i why

/-- PREEMPTION: the pre-emption under way of a slot goes on once step 2 is over; the context's running strips end first, and
a trap that has begun a freeze is taken first. A handler's context is frozen already. A page of the area that migrates is waited for
(R346, R446, R452). -/
def execPreemption (c i : Nat) (why : PreWhy) (s : State) : Result :=
  let n := 16 * c + i
  let x := slotAt s n
  match x.st with
  | .stopped (.preempting w) _ =>
    if w ≠ why ∨ preemptReady s n = false ∨ x.freezing.isSome = true ∨ poolWaits s c x.prodid x.saveptr (saveNeed s n) = true then .next s
    else
    match ctxOf s n with
    | none => .next (preemptSave s n why)
    | some k =>
      if x.handler then .next (preemptSave s n why)
      else if stripsRun s k then .next (setCtx s k { ctxAt s k with frozen := true })
      else .next (preemptNow s n k why)
  | _ => .next s

/-! Restoring (R450). -/

/-- Whether core `c` lies in a production's set (R108). -/
def inSet (p : Prod) (c : Nat) : Bool := p.cores.any fun (a, b) => decide (a ≤ c) && decide (c ≤ b)

/-- Whether a production is eligible on core `c` (R105). -/
def eligible (p : Prod) (c : Nat) : Bool := inSet p c && !p.paused && !p.shed && p.ending.isNone

/-- A queue entry rebuilt from its 64 bytes and what the device kept of it (R449). -/
def entryOf (bs : List Byte) (e : QEntry) (seq : Nat) : QEntry :=
  let w (o : Nat) : Word := BitVec.ofNat 64 (leNat ((bs.drop o).take 8))
  let words := tab (bs.getD 0x12 0).toNat 0 fun i => BitVec.ofNat 16 (leNat ((bs.drop (8 + 2 * i)).take 2))
  let (op, f) := (vopOfWords noPrefixes words).getD (e.op, e.f)
  { e with
    seq := seq
    addr := w 0
    words := words
    op := op
    f := f
    ga := w 0x18
    gb := w 0x20
    gc := w 0x28
    vl := fld (w 0x30) 0 16
    start := if opKind op = .tree then e.start else fld (w 0x30) 16 16
    restart := fld (w 0x30) 16 16
    pinned := 0
    owned := []
    seen := []
    vtype := (w 0x30 >>> 32).setWidth 20
    logG := fld (w 0x30) 52 4
    vdcfg := w 0x38
    st := match e.st with
      | .done => .done
      | _ => .queued }

/-- A hold rebuilt from its header word and its bytes (R449). -/
def holdOf (w : Word) (data bound : List Byte) : Hold :=
  ⟨bitOf w 0, fld w 1 7, fld w 8 5, fld w 13 16, fld w 29 7, data, bound⟩

/-- A band rebuilt from its header word (R449). -/
def bandOf (w : Word) : BandDesc := ⟨fld w 0 5, fld w 5 6, fld w 11 7, fld w 18 9, fld w 27 7, bitOf w 34⟩

/-- The context of a restored task, loaded from its area (R448 to R450). -/
def restoreCtx (s : State) (c k i : Nat) (q : Saved) : State :=
  let rd (o n : Nat) : List Byte := areaRead (n / 32 + 2) s c (q.area + BitVec.ofNat 64 o) n
  let wd (o : Nat) : Word := areaWord s c (q.area + BitVec.ofNat 64 o)
  let y := ctxAt s k
  let hw := wd 0x190
  let elems := fld hw 16 16
  let regs := fld hw 0 6
  let n := fld (wd 0x1630) 0 5
  let entries := tab n 0 fun j =>
    match q.entries[j]? with
    | some e => entryOf (rd (0x1200 + 64 * j) 64) e (y.seq + 1 + j)
    | none => entryOf (rd (0x1200 + 64 * j) 64) (q.entries.headD entry0) (y.seq + 1 + j)
  let merge (old new : List Row32) : List Row32 := new ++ old.drop new.length
  let rows (r : Nat) : List Row32 :=
    let bs := rd (0x18000 + 4 * r * elems) (4 * elems)
    tab elems 0 fun e => BitVec.ofNat 32 (leNat ((bs.drop (4 * e)).take 4))
  let mask (m : Nat) : List Bool :=
    let bs := rd (0x10000 + 4096 * m) 4096
    (bs.map fun b => tab 8 0 fun j => bitOf b j).flatten
  let h0 := holdOf (wd 0x1608) (rd 0x2640 8192) (rd 0x4640 256 ++ q.bounds.getD 0 [])
  let h1 := holdOf (wd 0x1618) (rd 0x4740 8192) (rd 0x6740 256 ++ q.bounds.getD 1 [])
  let band := bandOf (wd 0x1600)
  let d := coreAt s c
  let s := setCore s c { d with
    rowHold := d.rowHold ++ (if h0.held then [2 * k] else []) ++ (if h1.held then [2 * k + 1] else []) }
  setCtx s k { y with
    bound := some i
    vl := fld (wd 0x178) 0 16
    vtype := (wd 0x180).setWidth 20
    vstart := if n = 0 then fld (wd 0x188) 0 16 else q.vstart
    hiElems := elems
    hiRegs := regs
    vfault := wd 0x198
    vdcfg := wd 0x1A0
    lcy := lcyStart s c
    v := (tab regs 0 id).foldl (fun m r => put m r (merge (look y.v r []) (rows r))) y.v
    m := (tab 8 0 id).foldl (fun m r => put m r (mask r)) y.m
    band := band
    bandIssue := bandAfter entries band
    logG := fld (wd 0x1600) 35 4
    blockMap := ((ctxArrays y).mapIdx fun j a => (rd (0x6840 + 256 * j) 256).mapIdx fun p b => (256 * a + p, b.toNat)).flatten.filter
      fun x => x.2 != x.1 % 256
    holds := [(0, h0), (1, h1)]
    holdsIssue := holdsAfter q.entries [(0, h0), (1, h1)]
    accs := (tab 512 0 fun a => (a, wd (0x1640 + 8 * a))).filter fun x => x.2 != 0
    queue := entries
    seq := y.seq + n
    vfWrites := q.vfWrites.map fun (m, v) => (y.seq + m, v)
    frozen := fld (wd 0x1A8) 1 1 == 1
    trap := none }

/-- The slot of a restored task, loaded from its area; a curtain wait goes on under R395 (R450). -/
def restoreSlot (s : State) (c i : Nat) (q : Saved) : Slot :=
  let rd (o n : Nat) : List Byte := areaRead (n / 32 + 2) s c (q.area + BitVec.ofNat 64 o) n
  let wd (o : Nat) : Word := areaWord s c (q.area + BitVec.ofNat 64 o)
  let old := slotAt s i
  let x := q.slot
  let out := wd 0x168
  let vc := fld (wd 0x170) 0 8
  let codes : Vector (BitVec 3) 8 := Vector.ofFn fun n => BitVec.ofNat 3 (fld (wd 0x150) (8 + 3 * n.val) 3)
  let items (code : Nat) (d : List Word) : List Word :=
    match (tab 8 0 id).find? fun n => (codes.toList.getD n 0).toNat == code with
    | some n => tab (min (rd (0x1E0 + n) 1 |>.headD 0).toNat 64) 0 fun j => wd (0x200 + 512 * n + 8 * j)
    | none => d
  let cw := wd 0x38
  let home := if bitOf cw 15 then 16 else coreDie c
  { x with
    st := if bitOf cw 31 then .parked (.curtain (BitVec.ofNat 64 (fld cw 15 1 * 2 ^ 15 + fld cw 0 8))) else .ready
    waiting := if bitOf cw 31 then .arrived home (fld cw 0 8) (BitVec.ofNat 32 (fld cw 32 32)) else .none
    since := if bitOf cw 31 then some (cycleOf s c + 16) else none
    saved := false
    pc := wd 0x10
    handle := wd 0x18
    fmtp := wd 0x20
    sclp := wd 0x28
    pend := (wd 0x30).setWidth 32
    poison := (wd 0x30 >>> 32).setWidth 32
    g := Vector.ofFn fun n => if n.val = 0 then 0 else wd (0x40 + 8 * n.val)
    fflags := (wd 0x140).setWidth 6
    frm := (wd 0x148).setWidth 3
    qcode := codes
    patience := (wd 0x158).setWidth 32
    stalerd := (wd 0x160).setWidth 32
    outT := fld out 18 6
    outC := fld out 12 6
    outS := fld out 6 6
    outL := fld out 0 6
    vctx := if vc = 0xFF then none else some vc
    handler := fld (wd 0x1A8) 1 1 == 1
    trappc := wd 0x1B0
    trapvc := wd 0x1B8
    trapcause := wd 0x1C0
    trapaddr := wd 0x1C8
    hscratch0 := wd 0x1D0
    hscratch1 := wd 0x1D8
    trapvec := old.trapvec
    saveptr := old.saveptr
    dbg := old.dbg
    qCmd := items 1 x.qCmd
    qStat := items 2 x.qStat
    qSfuReq := items 3 x.qSfuReq
    qSfuRes := items 4 x.qSfuRes }

/-- The items of the context's queue of one code, from the save area of its port, or, unbound, as the device kept them (R117,
R448). -/
def restoreItems (s : State) (c : Nat) (q : Saved) (x : Slot) (code : Nat) (kept : List Word) : List Word :=
  match (tab 8 0 id).find? fun n => (x.qcode.toList.getD n 0).toNat == code with
  | some p => tab (min (areaRead 2 s c (q.area + BitVec.ofNat 64 (0x1E0 + p)) 1 |>.headD 0).toNat 64) 0 fun j =>
      areaWord s c (q.area + BitVec.ofNat 64 (0x200 + 512 * p + 8 * j))
  | none => kept

/-- A restored curtain wait whose generation has passed departs at once (R395). -/
def restoreWait (s : State) (i : Nat) : State :=
  let x := slotAt s i
  match x.waiting with
  | .arrived home index ag =>
    if (curtainAt s home x.prodid index).gen = ag then s
    else finishAt (acquireAt s (slotCore i) (curtainScope home)) i
  | _ => s

/-- A saved task loaded onto slot `i`, its block given back; the requests it had pushed come before younger ones (R400, R450). -/
def restoreTask (s : State) (c i : Nat) (q : Saved) : State :=
  let x := restoreSlot s c i q
  let d := coreAt s c
  let s' := setCore s c { d with
    saved := d.saved.filter fun z => !(z.prod == q.prod && z.task == q.task)
    ctxWait := d.ctxWait.filter (· != i) }
  let s' := match x.vctx with
    | some k => restoreCtx s' c (ctxNo c q.prod k) i q
    | none => s'
  let base := match x.vctx with
    | some k => (ctxAt s (ctxNo c q.prod k)).seq
    | none => 0
  let again (n : Nat) : Nat := base + (q.entries.filter fun e => decide (e.seq ≤ n)).length
  let d := coreAt s' c
  let s' := setCore s' c { d with sfuOrder := List.replicate x.qSfuReq.length i ++ d.sfuOrder.filter (· != i) }
  let s' := setSlot s' i { x with
    flagWrites := x.flagWrites.map fun (w : Nat × BitVec 6) => (again w.1, w.2)
    late := x.late.map fun r => { r with seq := again r.seq, floor := again r.floor } }
  let s' := match x.vctx with
    | some k =>
      let n := ctxNo c q.prod k
      setCtx s' n { ctxAt s' n with tileQ := restoreItems s c q x 5 q.tileQ, treeQ := restoreItems s c q x 6 q.treeQ }
    | none => s'
  restoreWait (poolGive s' c q.pool q.area) i

/-- The context number a saved task held, 0xFF for none (R448). -/
def savedCtx (s : State) (c : Nat) (q : Saved) : Nat := fld (areaWord s c (q.area + 0x170)) 0 8

/-- Whether the core has a free row buffer for each hold that a saved context brings back (R273, R450). -/
def buffersFree (s : State) (c : Nat) (q : Saved) : Bool :=
  let held := ([0x1608, 0x1618].filter fun o => bitOf (areaWord s c (q.area + BitVec.ofNat 64 o)) 0).length
  savedCtx s c q == 0xFF || decide ((coreAt s c).rowHold.length + held ≤ 2)

/-- Bytes of a saved task's area that the save wrote (R448). -/
def savedSize (s : State) (c : Nat) (q : Saved) : Nat :=
  let hw := areaWord s c (q.area + 0x190)
  if savedCtx s c q = 0xFF then 0x1200 else 0x18000 + 4 * fld hw 0 6 * fld hw 16 16

/-- A restore that meets poison in what the save wrote kills the production (R448, R452). -/
def restorePoisoned (s : State) (c : Nat) (q : Saved) : Bool := areaPoisoned s c q.area (savedSize s c q)

end Sys2Proof.Machine
end

