-- ==== Sys2Proof/Machine/Power.lean ====
section
/-! DEFINITION. Power control's settings, boost tokens, the dimmer with its shelf port, shedding and restoration, and slack
control (16; 04 R116). Times are microseconds of physical time. -/

namespace Sys2Proof.Machine

/-! The dimmer curve (R412 to R415). -/

/-- DIMCURVE entry `n` (R412). -/
def curveAt (s : State) (n : Nat) : Word := look s.dimmer.curve n 0
/-- The trigger of a level (R412). -/
def trigger (s : State) (l : Nat) : Word := curveAt s (2 * (l - 1))
/-- The action of a level (R412). -/
def action (s : State) (l : Nat) : Word := curveAt s (2 * (l - 1) + 1)
/-- The enabled levels from 1 to `l` (R412, R414). -/
def enabledTo (s : State) (l : Nat) : List Nat := (tab l 1 id).filter fun n => bitOf (trigger s n) 63

/-- The cap in force, in units of 10 W (R414). -/
def capNow (s : State) : Nat :=
  max 90 ((enabledTo s s.dimmer.level).foldl (fun c n => min c (fld (action s n) 36 12)) 400)
/-- The shed mask of level `l` (R414). -/
def shedMask (s : State) (l : Nat) : BitVec 4 :=
  (enabledTo s l).foldl (fun m n => m ||| (action s n).extractLsb' 28 4) 0
/-- The chaining pairs withdrawn at the level in force (R414). -/
def chOffNow (s : State) : BitVec 4 :=
  (enabledTo s s.dimmer.level).foldl (fun m n => m ||| (action s n).extractLsb' 24 4) 0
/-- The strip-slot ceiling of an action (R412). -/
def slotCeiling (a : Word) : Nat := if fld a 16 5 = 0 ∨ 16 < fld a 16 5 then 16 else fld a 16 5
/-- The strip-slot ceiling at the level in force (R414). -/
def slotsNow (s : State) : Nat := (enabledTo s s.dimmer.level).foldl (fun c n => min c (slotCeiling (action s n))) 16
/-- Whether boost is forbidden at the level in force (R414). -/
def noBoostNow (s : State) : Bool := (enabledTo s s.dimmer.level).any fun n => bitOf (action s n) 0

/-- DIMLEVEL (R415). -/
def dimLevelWord (s : State) : Word :=
  BitVec.ofNat 64 (capNow s * 2 ^ 40 + (shedMask s s.dimmer.level).toNat * 2 ^ 36 + (chOffNow s).toNat * 2 ^ 32 +
    s.dimmer.slack * 2 ^ 28 + s.dimmer.target * 2 ^ 20 + s.dimmer.level * 2 ^ 16)

/-- SHELFSTAT (R415). -/
def shelfStatWord (s : State) : Word :=
  BitVec.ofNat 64 (s.dimmer.crcErr * 2 ^ 48 + s.dimmer.gaps * 2 ^ 32 + s.dimmer.accepted * 2 ^ 16 +
    (if s.dimmer.blindOn then 2 else 0) + if s.dimmer.present then 1 else 0)

/-- enter(n) of R413. -/
def enterLevel (s : State) (n freq vbus : Nat) : Bool :=
  let t := trigger s n
  bitOf t 63 && ((fld t 0 24 != 0 && decide (freq ≤ fld t 0 24)) || (fld t 32 16 != 0 && decide (vbus ≤ fld t 32 16)))

/-- exit(n) of R413. -/
def exitLevel (s : State) (n freq vbus : Nat) : Bool :=
  let t := trigger s n
  !bitOf t 63 ||
    ((fld t 0 24 == 0 || decide (fld t 0 24 + 10 * fld t 24 8 ≤ freq)) &&
     (fld t 32 16 == 0 || decide (fld t 32 16 + fld t 48 8 ≤ vbus)))

/-! Shedding and restoration (R418, R419). -/

/-- Whether class `c` is in a mask. -/
def inMask (m : BitVec 4) (c : Nat) : Bool := bitOf m c

/-- Class `c` is shed at time `t`: its productions' SHED bits, and the deadline of their tasks (R418). -/
def shedClass (s : State) (t c : Nat) : State :=
  { s with
    prods := s.prods.map fun (n, p) => if p.cls.toNat = c then (n, { p with shed := true }) else (n, p)
    dimmer := { s.dimmer with shedDeadlines := s.dimmer.shedDeadlines ++ [(c, t + s.dimmer.deadline.toNat)] } }

/-- Class `c` is restored: its productions' SHED bits clear and no deadline applies to them (R419, R421). -/
def restoreClass (s : State) (c : Nat) : State :=
  { s with
    prods := s.prods.map fun (n, p) => if p.cls.toNat = c then (n, { p with shed := false }) else (n, p)
    dimmer := { s.dimmer with shedDeadlines := s.dimmer.shedDeadlines.filter fun x => x.1 != c } }

/-- The effective shed mask changed from `old` to `new` at time `t`: classes added are shed, classes removed are restored in
ascending order, the first at once. DESIGN CHOICE: a class removed while classes of an earlier change still wait comes after them
(R414, R418, R419; log 6). -/
def maskChange (s : State) (t : Nat) (old new : BitVec 4) : State :=
  let s := ((tab 4 0 id).filter fun c => inMask new c && !inMask old c).foldl (fun s c => shedClass s t c) s
  let gone := (tab 4 0 id).filter fun c => inMask old c && !inMask new c
  match (s.dimmer.restoring.filter fun c => !inMask new c) ++ gone with
  | [] => { s with dimmer := { s.dimmer with restoring := [] } }
  | c :: rest =>
    if s.dimmer.restoring.head? = some c then { s with dimmer := { s.dimmer with restoring := c :: rest } } else
    let s := restoreClass s c
    { s with dimmer := { s.dimmer with restoring := c :: rest, nextRestore := t + 1000 } }

/-- The dimmer moves to level `l` at time `t` (R416, R417). -/
def setLevel (s : State) (t l : Nat) : State :=
  let old := shedMask s s.dimmer.level
  maskChange { s with dimmer := { s.dimmer with level := l } } t old (shedMask s l)

/-- NEXT_CLASS_RESTORE: once every saved task of the class before is placed, or 1 ms has passed (R419). -/
def execNextClassRestore (t : Nat) (s : State) : Result :=
  match s.dimmer.restoring with
  | [] => .next s
  | c :: rest =>
    let s := atTime s t
    let placed := s.cores.all fun (_, x) => x.saved.all fun q => q.cls.toNat != c
    if placed || decide (s.dimmer.nextRestore ≤ t) then
      match rest with
      | [] => .next { s with dimmer := { s.dimmer with restoring := [] } }
      | d :: _ =>
        let s := restoreClass s d
        .next { s with dimmer := { s.dimmer with restoring := rest, nextRestore := t + 1000 } }
    else .next s

/-- SHED_DEADLINE: the tasks of a shed class that still hold a slot are pre-empted wherever they stand (R418). -/
def execShedDeadline (cls t : Nat) (s : State) : Result :=
  if s.dimmer.shedDeadlines.any fun (c, d) => c == cls && decide (d ≤ t) then
    let s := atTime s t
    let s := { s with dimmer := { s.dimmer with shedDeadlines := s.dimmer.shedDeadlines.filter fun (c, d) =>
      !(c == cls && decide (d ≤ t)) } }
    let is := (s.slots.filter fun (_, x) => x.st != .free && !x.sup && x.cls.toNat == cls &&
      (match prodAt s x.prodid with
       | some p => p.shed
       | none => false)).map (·.1)
    .next (is.foldl (fun s i => markPreempt s i .deadline) s)
  else .next s

/-! Frames (R410, R411, R416). -/

/-- The dimmer evaluates an accepted frame (R416). -/
def evaluateFrame (s : State) (t freq vbus minl : Nat) : State :=
  let hi := ((tab 8 1 id).filter fun n => enterLevel s n freq vbus).foldl max 0
  let target := max hi minl
  let s := { s with dimmer := { s.dimmer with target := target } }
  let l := s.dimmer.level
  if l < target then
    let s := setLevel s t target
    { s with dimmer := { s.dimmer with holdFrom := none } }
  else if target < l ∧ exitLevel s l freq vbus = true ∧ minl < l then
    let from_ := s.dimmer.holdFrom.getD t
    if fld s.dimmer.hold 0 16 * 1000 ≤ t - from_ then
      let l' := max (l - 1) target
      let s := setLevel s t l'
      { s with dimmer := { s.dimmer with holdFrom := if exitLevel s l' freq vbus && decide (minl < l') then some t else none } }
    else { s with dimmer := { s.dimmer with holdFrom := some from_ } }
  else { s with dimmer := { s.dimmer with holdFrom := none } }

/-- One frame of 11 bytes that ends at time `t` (R410, R411). -/
def oneFrame (s : State) (t : Nat) (f : List Byte) : State :=
  let body := (f.drop 1).take 8
  let n (i k : Nat) : Nat := leNat ((f.drop i).take k)
  if crc16 body ≠ BitVec.ofNat 16 (n 9 2) then
    { s with dimmer := { s.dimmer with crcErr := min (s.dimmer.crcErr + 1) 0xFFFF } }
  else
    let seq := n 1 2
    let skip := match s.dimmer.lastSeq with
      | some q => if s.dimmer.blindOn then 1 else (seq + 65536 - q) % 65536
      | none => 1
    if skip = 0 ∨ 32767 < skip then s else
    let freq := n 3 3
    let vbus := n 6 2
    let state := n 8 1
    let s := { s with dimmer := { s.dimmer with
      lastSeq := some seq
      lastTime := t
      blindOn := false
      accepted := (s.dimmer.accepted + 1) % 65536
      gaps := min (s.dimmer.gaps + skip - 1) 0xFFFF
      last := BitVec.ofNat 64 (seq * 2 ^ 48 + state * 2 ^ 40 + vbus * 2 ^ 24 + freq) } }
    evaluateFrame s t freq vbus (min (state / 16) 8)

/-- Bytes taken as frames, each from its SYNC byte; a byte that begins no frame is discarded (R411). -/
def takeFrames (fuel : Nat) (s : State) (t : Nat) (bs : List Byte) : State :=
  match fuel with
  | 0 => s
  | fuel + 1 =>
    match bs with
    | [] => { s with dimmer := { s.dimmer with partialBytes := [] } }
    | b :: rest =>
      if b ≠ 0xA5 then takeFrames fuel s t rest
      else if bs.length < 11 then { s with dimmer := { s.dimmer with partialBytes := bs } }
      else takeFrames fuel (oneFrame s t (bs.take 11)) t (bs.drop 11)

/-- SHELF_FRAME: bytes arrive whose last ends at time `t`; those before the supervisor starts, and those of a port that is
not wired, do nothing (R410, R411, R415, R480). -/
def execShelfFrame (bytes : List Byte) (t : Nat) (s : State) : Result :=
  if !s.dimmer.present || !s.mgmt.done then .next s else
  let bs := s.dimmer.partialBytes ++ bytes
  .next (takeFrames (bs.length + 1) (atTime s t) t bs)

/-- DIMMER_BLIND: TIMEOUT ms without an accepted frame (R417). -/
def execDimmerBlind (t : Nat) (s : State) : Result :=
  if !s.dimmer.present || !s.mgmt.done || s.dimmer.blindOn ||
      decide (t < s.dimmer.lastTime + fld s.dimmer.blind 8 16 * 1000) then .next s else
  let s := atTime s t
  let s := { s with dimmer := { s.dimmer with blindOn := true, holdFrom := none } }
  .next (setLevel s t (max s.dimmer.level (min (fld s.dimmer.blind 0 4) 8)))

/-- A write of DIMCURVE entry `n`: its writable fields, and the mask change at once (R412, R414). -/
def writeCurve (s : State) (n : Nat) (x : Word) : State :=
  let mask : Word := if n % 2 = 0 then 0x80FF_FFFF_FFFF_FFFF else 0x0000_FFF0_FF1F_0001
  let old := shedMask s s.dimmer.level
  let s := { s with dimmer := { s.dimmer with curve := put s.dimmer.curve n (x &&& mask) } }
  maskChange s s.now old (shedMask s s.dimmer.level)

/-- DIMCURVE_WRITE (R414). -/
def execDimcurveWrite (n : Nat) (x : Word) (s : State) : Result := if n < 16 then .next (writeCurve s n x) else .next s

/-- A number clamped to a range. -/
def clamp (x lo hi : Nat) : Nat := if x < lo then lo else if hi < x then hi else x

/-- A write of DIMBLIND; while the dimmer is blind a blind level above LEVEL is a down step (R415, R417). -/
def writeBlind (s : State) (x : Word) : State :=
  let lv := min (fld x 0 4) 8
  let s := { s with dimmer := { s.dimmer with
    blind := BitVec.ofNat 64 (clamp (fld x 8 16) 20 1000 * 256 + fld x 0 4) } }
  if s.dimmer.blindOn ∧ s.dimmer.level < lv then setLevel s s.now lv else s

/-- DIMBLIND_WRITE (R417). -/
def execDimblindWrite (x : Word) (s : State) : Result := .next (writeBlind s x)

/-- A write of DIMHOLD; slack control switched off clears its step (R415, R422). -/
def writeHold (s : State) (x : Word) : State :=
  let w := BitVec.ofNat 64 (max (fld x 24 8) 50 * 2 ^ 24 + fld x 16 1 * 2 ^ 16 + fld x 0 16)
  { s with dimmer := { s.dimmer with hold := w, slack := if bitOf x 16 then s.dimmer.slack else 0 } }

/-- SLACK_WINDOW: a window ends at time `t`, 10 ms after the one before, with Φ in thousandths (R422). -/
def execSlackWindow (phi t : Nat) (s : State) : Result :=
  if t < s.dimmer.slackEnd + 10000 then .next s else
  let s := atTime s t
  let s := { s with dimmer := { s.dimmer with slackEnd := t } }
  let d := s.dimmer
  if !bitOf d.hold 16 then .next { s with dimmer := { d with slack := 0, slackAt := t, slackLow := true } }
  else if 250 ≤ phi ∧ d.slack < 3 then
    .next { s with dimmer := { d with slack := d.slack + 1, slackAt := t, slackLow := true } }
  else
    let low := d.slackLow && decide (phi ≤ 50)
    if 0 < d.slack ∧ low = true ∧ d.slackAt + fld d.hold 24 8 * 1000 ≤ t then
      .next { s with dimmer := { d with slack := d.slack - 1, slackAt := t, slackLow := true } }
    else .next { s with dimmer := { d with slackLow := low } }

/-! Clocks and boost (R116, R405 to R408). -/

/-- The count of array cycles brought up to now, from when the next one begins and `adv` local cycles later on, before the core's rate
changes or its clock stops (R405, R406, R467). -/
def lcyMark (s : State) (c adv : Nat) (y : Ctx) : Ctx :=
  let now := cycleOf s c
  let from_ := cyclesEnd (coreAt s c).halfRate now 0 + adv
  { y with lcy := put (put y.lcy 7 (look y.lcy 7 0 + arrayCycles s c (look y.lcy 6 0) now)) 6 from_ }

/-- The contexts of a cluster that spend tokens, by core and then context number (R116). -/
def spenders (s : State) (q : Nat) : List Nat :=
  let ks := (s.ctxs.filter fun (k, y) => ctxCore k / 4 == q && y.allow != 0 && y.tokens != 0).map (·.1)
  ((tab 4 (4 * q) id).map fun c => ((tab 4 0 id).map fun n => ks.filter fun k => ctxCore k == c && k % 4 == n).flatten).flatten

/-- Whether a cluster runs at the boost clock: somebody spends, and power control, which holds its clock at 2.5 GHz, the level and
slack control permit it (R116, R405, R407, R414, R422). -/
def boosting (s : State) (q : Nat) : Bool :=
  !(spenders s q).isEmpty && !noBoostNow s && s.dimmer.slack == 0 && (clusterAt s q).clock == 8 &&
  (tab 4 (4 * q) fun c => (coreAt s c).boostOk).all id

/-- The clock a cluster is to run at, in steps of 0.3125 GHz, 9 for the boost clock: power control's, under slack control's ceiling
(R405, R422). -/
def clockNow (s : State) (q : Nat) : Nat :=
  if boosting s q then 9 else min (clusterAt s q).clock (8 - s.dimmer.slack)

/-- Whether a cluster's clock is stopped until its PLL has relocked (R406). -/
def relocking (s : State) (q : Nat) : Bool := (clusterAt s q).pll != clockNow s q

/-- The order in which chaining pairs are withdrawn: those the level names first (R408). -/
def chainOrder (level : BitVec 4) : List Nat := (tab 4 0 id).filter (bitOf level) ++ (tab 4 0 id).filter fun n => !bitOf level n

/-- The pairs of `off` that can be withdrawn in that order. -/
def withdrawn (level off : BitVec 4) : BitVec 4 :=
  ((chainOrder level).takeWhile (bitOf off)).foldl (fun m n => m ||| BitVec.twoPow 4 n) 0

/-- The strip slots that a handle leaves: all 16, or 8, 4, 2 or 1 (R408). -/
def slotStep (n : Nat) : Nat := if 16 ≤ n then 16 else if 8 ≤ n then 8 else if 4 ≤ n then 4 else if 2 ≤ n then 2 else 1

/-- Handles as power control can apply them: none before those that precede it in the order are applied in full (R408). -/
def inOrder (s : State) (h : Handles) : Handles :=
  let off := if h.boostOk then 0 else withdrawn (chOffNow s) h.chOff
  let slots := if off = 15 then slotStep h.slots else 16
  let half := h.half && slots == 1
  let vmu := if half = true ∧ (h.vmuDiv = 2 ∨ h.vmuDiv = 4) then h.vmuDiv else 1
  ⟨h.boostOk, off, slots, half, vmu, if vmu = 4 then clamp h.clock 1 8 else 8⟩

/-- A time at which work ends, as a change of the rate from `old` to `new`, or a stop of the clock that takes CYCLE on by `adv`, leaves
it: what is left of it is counted from the end of the array cycle under way (R405, R406). -/
def endShift (now adv : Nat) (old new : Bool) (end_ : Nat) : Nat :=
  if end_ ≤ now then end_ else cyclesEnd new (cyclesEnd old now 0 + adv) (cyclesIn old now end_)

/-- A strip as a change of the core's lane rate from `old` to `new`, or a stop of its clock, leaves it: what has gone by is counted at
the old rate, up to the end of the array cycle under way, and the rest goes on after; a row buffer's fill runs on core cycles (R261,
R275, R405, R406). -/
def rateChange (now adv : Nat) (old new : Bool) (t : Strip) : Strip :=
  let old := old && t.way != 18
  let new := new && t.way != 18
  if old = new ∧ adv = 0 then t else
  let from_ := max t.begun (cyclesEnd old now 0) + adv
  let left := cyclesIn old t.begun t.endAt - cyclesIn old t.begun now
  if t.endAt ≠ 0 ∧ t.endAt ≤ now then t else
  { t with
    spent := t.spent + cyclesIn old t.begun now
    begun := from_
    endAt := if t.endAt = 0 then 0 else max 1 (cyclesEnd new from_ left) }

/-- A context's expansion delays as such a change leaves them (R241, R405, R406). -/
def delayShift (now adv : Nat) (old new : Bool) (y : Ctx) : Ctx :=
  { y with queue := y.queue.map fun e => { e with readyAt := endShift now adv old new e.readyAt } }

/-- The work under way on core `c` as a change of its lane rate to `new`, or a stop of its clock, leaves it, and the counts of its
array cycles (R405, R406, R467). -/
def shiftCore (s : State) (c adv : Nat) (new : Bool) : State :=
  let x := coreAt s c
  let now := cycleOf s c
  let moved (y : Ctx) : Ctx := delayShift now adv x.halfRate new (lcyMark s c adv y)
  let s := { s with ctxs := s.ctxs.map fun e => if ctxCore e.1 = c then (e.1, moved e.2) else e }
  setCore s c { x with halfRate := new, strips := x.strips.map (rateChange now adv x.halfRate new) }

/-- Handles one step down from `now` towards `h`, applied in their order: each only once those before it are applied in full (R408). -/
def stepDown (level : BitVec 4) (now h : Handles) : Handles :=
  let ok := now.boostOk && h.boostOk
  let off := if ok then now.chOff else withdrawn level (now.chOff ||| h.chOff)
  let slots := if off = 15 ∧ h.slots < now.slots then slotStep (now.slots / 2) else now.slots
  let half := now.half || (h.half && slots == 1)
  let vmu := if half = true ∧ now.vmuDiv < h.vmuDiv then 2 * now.vmuDiv else now.vmuDiv
  ⟨ok, off, slots, half, vmu, if vmu = 4 ∧ h.clock < now.clock then now.clock - 1 else now.clock⟩

/-- Handles one step up from `now` towards `h`, released in the reverse order: each only once those after it are released in full
(R408). -/
def stepUp (now h : Handles) : Handles :=
  let clock := if now.clock < h.clock then now.clock + 1 else now.clock
  let vmu := if clock = 8 ∧ h.vmuDiv < now.vmuDiv then now.vmuDiv / 2 else now.vmuDiv
  let half := now.half && (h.half || vmu != 1)
  let slots := if !half && decide (now.slots < h.slots) then slotStep (2 * now.slots) else now.slots
  let off := if slots = 16 then now.chOff &&& h.chOff else now.chOff
  ⟨now.boostOk || (off == 0 && h.boostOk), off, slots, half, vmu, clock⟩

/-- The handles that power control has drawn on a core and its cluster. -/
def handlesNow (s : State) (c : Nat) : Handles :=
  let x := coreAt s c
  ⟨x.boostOk, x.chainOff, x.stripSlots, x.halfRate, x.vmuDiv, (clusterAt s (coreCluster c)).clock⟩

/-- The handles of a core and its cluster after a tick that aims at `h`: each one step nearer, in their order (R408). -/
def nextHandles (s : State) (c : Nat) (h : Handles) : Handles :=
  let h := inOrder s h
  stepDown (chOffNow s) (stepUp (handlesNow s c) h) h

/-- POWER_CONTROL_TICK: power control moves the handles of a core and its cluster towards `h`, in their order, the strip slots, the
vector memory unit's clock and the cluster's by one step; stopping boost acts on every cluster. Timing alone (R405, R408). -/
def execPowerControlTick (c : Nat) (h : Handles) (s : State) : Result :=
  let h := nextHandles s c h
  let others := s.cores.any fun (d, k) => d != c && k.chainOff != 0
  let s := { s with cores := s.cores.map fun (d, k) => (d, { k with boostOk := k.boostOk && h.chOff == 0 }) }
  let s := shiftCore s c 0 h.half
  let q := clusterAt s (coreCluster c)
  let s := setCore s c { coreAt s c with
    boostOk := h.boostOk && !others
    chainOff := h.chOff
    stripSlots := h.slots
    vmuDiv := h.vmuDiv }
  .next (setCluster s (coreCluster c) { q with clock := h.clock })

/-- Cycles that a cluster has run at the boost clock and that no token has paid for (R116). -/
def boostRun (x : Cluster) : Nat := x.boostCycles + if x.pll = 9 then x.cycle - x.boostFrom else 0

/-- PLL_RELOCK: the PLL locks to the clock it is to run at, f, and CYCLE is advanced by ⌊t × f⌋, t being at most 2 µs; the work of the
cluster's cores stood still meanwhile, and no array cycle went by (R9, R406, R467). -/
def execPllRelock (q adv : Nat) (s : State) : Result :=
  if relocking s q = false then .next s else
  let x := clusterAt s q
  let f := clockNow s q
  let adv := min adv (if f = 9 then 5600 else 625 * f)
  let s := (tab 4 (4 * q) id).foldl (fun s c => shiftCore s c adv (coreAt s c).halfRate) s
  .next (setCluster s q { x with cycle := x.cycle + adv, pll := f, boostCycles := boostRun x, boostFrom := x.cycle + adv })

/-- A context's place in the order in which a cluster's contexts are charged: by core, and then by context number (R116). -/
def chargeKey (k : Nat) : Nat := ctxCore k * 16384 + k % 4 * 4096 + ctxProd k

/-- The spending context of a cluster whose turn it is to pay: the first after the one charged last (R116). -/
def nextPayer (s : State) (q : Nat) : Option Nat :=
  let ks := spenders s q
  match ks.find? fun k => decide (chargeKey (clusterAt s q).boostLast < chargeKey k) with
  | some k => some k
  | none => ks.head?

/-- BOOST_CHARGE: 4,096 cycles run at the boost clock cost the spending context whose turn it is a token (R116, R407). -/
def execBoostCharge (q : Nat) (s : State) : Result :=
  let x := clusterAt s q
  if boostRun x < 4096 then .next s else
  match nextPayer s q with
  | none => .next s
  | some k =>
    let y := ctxAt s k
    let s := setCtx s k { y with tokens := y.tokens - 1, allow := y.allow - 1 }
    .next (setCluster s q { x with boostLast := k, boostCycles := boostRun x - 4096, boostFrom := x.cycle })

/-- Context `k` with its production's boost share added, at most 65,535 tokens held (R407). -/
def refillCtx (s : State) (k : Nat) (y : Ctx) : Ctx :=
  match prodAt s (ctxProd k) with
  | none => y
  | some p => if p.shed || p.ending.isSome then y else { y with tokens := min (y.tokens + p.share) 65535 }

/-- BOOST_REFILL: once for every millisecond that has gone by, unless the level forbids boost or power ran `hot` (R407). -/
def execBoostRefill (hot : Bool) (s : State) : Result :=
  if s.now < s.refillAt + 1000 then .next s else
  let s := { s with refillAt := s.refillAt + 1000 }
  if hot || noBoostNow s then .next s else
  .next { s with ctxs := s.ctxs.map fun e => (e.1, refillCtx s e.1 e.2) }

end Sys2Proof.Machine
end

