-- ==== Sys2Proof/Machine/System.lean ====
section
/-! DEFINITION. The control space, the system functions, wait, translation maintenance, vset and vsetk, and debug stops
(05 R127 to R132, R150 to R155; 06 R171 to R175; 17 R427; 19 R467 to R475). -/

namespace Sys2Proof.Machine

/-- Working lane groups of a context (R167). -/
def groupCount (y : Ctx) : Nat := (y.groups.map List.length).sum
/-- VLMAX of a context (R167). -/
def vlmax (y : Ctx) : Nat := 512 * groupCount y

/-! Lane-cycle counters (R467 to R469). The table of a context holds the five classes and HOOK at 0 to 5, the local cycle
from which array cycles are still to be counted at 6, and the array cycles counted before it at 7. -/

/-- LCY_USE to LCY_HOOK, by number; the lanes of no strip stall (R468, R469). -/
def lcyWord (s : State) (c : Nat) (y : Ctx) (n : Nat) : Word :=
  let total := look y.lcy 7 0 + arrayCycles s c (look y.lcy 6 0) (cycleOf s c)
  let rest := look y.lcy 0 0 + look y.lcy 1 0 + look y.lcy 2 0 + look y.lcy 3 0
  BitVec.ofNat 64 (if n = 4 then vlmax y * total - rest else look y.lcy n 0)

/-! The control space (R128). -/

/-- Whether the acting slot may not use an index (R128). -/
def kDenied (x : Slot) (i : Nat) : Bool := (decide (0x80 ≤ i) && !x.sup) || (decide (0x40 ≤ i) && isUser x)

/-- The entries of the vector context (R128, R150). -/
def ctxEntry (s : State) (y : Ctx) (i : Nat) : Word :=
  match i with
  | 0x00 => BitVec.ofNat 64 y.vl
  | 0x01 => y.vtype.setWidth 64
  | 0x02 => BitVec.ofNat 64 y.vstart
  | 0x03 => hiwaterWord y
  | 0x04 => y.vfault
  | 0x0F => y.vdcfg
  | 0x1F => BitVec.ofNat 64 (y.tokens % 65536)
  | n => if 0x18 ≤ n ∧ n ≤ 0x1D then lcyWord s (myCore s) y (n - 0x18) else 0

/-- What the handler reads of a context: what the entry at the commit pointer would use (R427). -/
def frozenEntry (s : State) (y : Ctx) (i : Nat) : Word :=
  match y.queue with
  | [] => ctxEntry s y i
  | e :: _ =>
    match i with
    | 0x00 => BitVec.ofNat 64 e.vl
    | 0x01 => e.vtype.setWidth 64
    | 0x02 => BitVec.ofNat 64 e.restart
    | 0x0F => e.vdcfg
    | n => ctxEntry s y n

/-- The entries of the slot (R72, R118, R129, R131, R426, R447, R471). -/
def slotEntry (x : Slot) (i : Nat) : Word :=
  match i with
  | 0x05 => vctxWord x
  | 0x06 => qmapWord x
  | 0x07 => x.fmtp
  | 0x08 => x.sclp
  | 0x09 => x.taskid.setWidth 64
  | 0x0A => BitVec.ofNat 64 x.prodid
  | 0x0B => x.cls.setWidth 64
  | 0x0C => outstWord x
  | 0x0D => x.fflags.setWidth 64
  | 0x0E => x.frm.setWidth 64
  | 0x1E => x.stalerd.setWidth 64
  | 0x21 => x.patience.setWidth 64
  | 0x40 => x.trappc
  | 0x41 => x.trapvc
  | 0x42 => x.trapcause
  | 0x43 => x.trapaddr
  | 0x44 => x.trapvec
  | 0x45 => hmodeWord x
  | 0x46 => x.hscratch0
  | 0x47 => x.hscratch1
  | 0x48 => x.pend.setWidth 64
  | 0x49 => x.saveptr
  | _ => 0

/-- Granules of a core that are scratch (R315). -/
def scratchBaseWord (k : Core) : Word :=
  let l1 := (tab 40 0 id).filter fun n => look k.gran n .l1 == .l1
  let is := (tab 40 0 id).filter fun n => look k.gran n .l1 != .l1 && look k.gran n .l1 != .withheld
  BitVec.ofNat 64 (l1.length * 2 ^ 40 + (is.map (2 ^ ·)).sum)

/-- The entries of the core and the package (R166, R315, R338, R412, R415, R442, R444, R454), and of the die and cluster. -/
def sharedEntry (s : State) (i : Nat) : Word :=
  let c := myCore s
  let k := coreAt s c
  match i with
  | 0x20 => BitVec.ofNat 64 (cycleOf s c)
  | 0x50 => k.ptroot
  | 0x51 => k.asid.setWidth 64
  | 0x52 => scratchBaseWord k
  | 0x53 => laneMap s c
  | 0x58 => k.mbox
  | 0x90 => dimLevelWord s
  | 0x91 => s.dimmer.hold
  | 0x92 => s.dimmer.blind
  | 0x93 => s.dimmer.deadline
  | 0x94 => shelfStatWord s
  | 0x95 => if s.dimmer.present then s.dimmer.last else 0
  | 0xC0 => s.errors.retsel
  | 0xC1 => retMap s
  | n =>
    if 0x10 ≤ n ∧ n ≤ 0x13 then thermalWord s (coreDie c) (n - 0x10)
    else if 0x80 ≤ n ∧ n ≤ 0x8F then curveAt s (n - 0x80)
    else if 0xA0 ≤ n ∧ n ≤ 0xBF then errWin s (n - 0xA0)
    else 0

/-- Whether an index belongs to the bound context (R128). -/
def isCtxIndex (i : Nat) : Bool :=
  decide (i ≤ 4) || i == 0x0F || (decide (0x18 ≤ i) && decide (i ≤ 0x1D)) || i == 0x1F

/-- k[i] as it stands (R128). -/
def readK (s : State) (i : Nat) : Word :=
  if isCtxIndex i then
    match myCtx s with
    | none => 0
    | some n =>
      let y := if 0x18 ≤ i ∧ i ≤ 0x1D then chargeRunning s n else ctxAt s n
      if (me s).handler then frozenEntry s y i else ctxEntry s y i
  else slotEntry (me s) i ||| sharedEntry s i

/-- The entries whose read waits for earlier vector instructions (R150). -/
def isLate (i : Nat) : Bool := decide (i ≤ 4) || i == 0x0D || i == 0x0F

/-- What a late read of entry `i` behind instruction `q` starts from: VFAULT is what an mtk that follows `q` wrote, and else not
yet known; FFLAGS is what a write still to take effect puts there; the others stand as program order has them (R73, R150, R174). -/
def lateValue (s : State) (i q : Nat) : Option Word :=
  if i = 0x04 then
    (myCtx s).bind fun n => ((ctxAt s n).vfWrites.reverse.find? fun (w : Nat × Word) => w.1 == q).map fun w => w.2
  else if i = 0x0D then
    some (((me s).flagWrites.getLast?.map fun (w : Nat × BitVec 6) => w.2).getD (me s).fflags |>.setWidth 64)
  else some (readK s i)

/-- The last vector instruction whose flags a write of FFLAGS before a late read replaces, 0 for none (R73). -/
def lateFloor (x : Slot) : Nat := (x.flagWrites.getLast?.map fun (w : Nat × BitVec 6) => w.1).getD 0

/-- MFK: the value at once, or, for the entries R150 names, a pending register while vector instructions are queued
(R128, R150, R427). -/
def execMfk (d : GReg) (x : BitVec 8) (s : State) : Result :=
  let i := x.toNat
  if kDenied (me s) i then privTrap s else
  withOps s [] [] [d] fun _ s =>
    let last : Option QEntry := (myCtx s).bind fun n => (ctxAt s n).queue.getLast?
    match last.map fun (e : QEntry) => e.seq with
    | some q =>
      if isLate i && !(me s).handler then
        let y := pendG (me s) d 0
        .next (advance (setMe s { y with late := y.late ++ [⟨d.toNat, i, q, lateFloor y, lateValue s i q⟩] }))
      else retire1 s d (readK s i)
    | none => retire1 s d (readK s i)

/-- The writable fields of TRAPCAUSE (R426) and VFAULT (R431). -/
def causeMask : Word := 0x00000000001F01FF
/-- The writable fields of VFAULT (R431). -/
def vfaultMask : Word := 0xFF00FFFFFFFF001F

/-- A write of an entry of the bound context `n`: VSTART, VFAULT or VDCFG (R151, R427). -/
def writeCtxK (s : State) (n i : Nat) (v : Word) : State :=
  let y := ctxAt s n
  let handler := (me s).handler
  match i with
  | 0x02 =>
    match y.queue with
    | e :: t =>
      if handler then setCtx s n { y with queue := { e with start := fld v 0 16, restart := fld v 0 16 } :: t }
      else setCtx s n { y with vstart := fld v 0 16 }
    | [] => setCtx s n { y with vstart := fld v 0 16 }
  | 0x04 =>
    match y.queue.getLast? with
    | some e =>
      if handler then setCtx s n { y with vfault := v &&& vfaultMask }
      else setCtx s n { y with vfWrites := y.vfWrites ++ [(e.seq, v &&& vfaultMask)] }
    | none => setCtx s n { y with vfault := v &&& vfaultMask }
  | _ => setCtx s n { y with vdcfg := v }

/-- A write of FFLAGS: it takes effect after every earlier vector instruction and replaces their flags; in the handler state at
once. DESIGN CHOICE: one in the handler state takes the place of an earlier one still to take effect, so that frozen entries add
their flags to it (R73, R427; log 14). -/
def writeFlags (s : State) (v : Word) : State :=
  let x := me s
  let last : Option QEntry := if x.handler then none else (myCtx s).bind fun n => (ctxAt s n).queue.getLast?
  match last with
  | some e => setMe s { x with flagWrites := x.flagWrites ++ [(e.seq, v.setWidth 6)] }
  | none => setMe s { x with fflags := v.setWidth 6, flagWrites := [] }

/-- A write of RETSEL (R444). -/
def writeRetsel (s : State) (v : Word) : State :=
  let s := { s with errors := { s.errors with retsel := v &&& 0x000003FF0000013F } }
  if bitOf v 63 && coreExists s (fld v 32 10) then markGroup s (fld v 32 10) (fld v 0 6) else s

/-- A write of an entry of the slot, the core or the package (R128, R151). -/
def writeOtherK (s : State) (i : Nat) (v : Word) : State :=
  let x := me s
  let c := myCore s
  let k := coreAt s c
  match i with
  | 0x07 => setMe s { x with fmtp := v }
  | 0x08 => setMe s { x with sclp := v }
  | 0x0D => writeFlags s v
  | 0x0E => if 6 ≤ fld v 0 3 then s else setMe s { x with frm := v.setWidth 3 }
  | 0x1E => setMe s { x with stalerd := v.setWidth 32 }
  | 0x21 => setMe s { x with patience := v.setWidth 32 }
  | 0x40 => setMe s { x with trappc := evenAddr v }
  | 0x41 => setMe s { x with trapvc := v }
  | 0x42 => setMe s { x with trapcause := v &&& causeMask }
  | 0x43 => setMe s { x with trapaddr := v }
  | 0x44 => setMe s { x with trapvec := evenAddr v }
  | 0x46 => setMe s { x with hscratch0 := v }
  | 0x47 => setMe s { x with hscratch1 := v }
  | 0x49 => setMe s { x with saveptr := v &&& ~~~63 }
  | 0x50 => setCore s c { k with ptroot := v &&& 0x000FFFFFFFFFE000 }
  | 0x51 => setCore s c { k with asid := v.setWidth 12 }
  | 0x58 => setCore s c { k with mbox := v }
  | 0x91 => writeHold s v
  | 0x92 => writeBlind s v
  | 0x93 => { s with dimmer := { s.dimmer with deadline := BitVec.ofNat 64 (clamp (fld v 0 11) 100 1200) } }
  | 0xC0 => writeRetsel s v
  | n =>
    if 0x80 ≤ n ∧ n ≤ 0x8F then writeCurve s (n - 0x80) v
    else if 0xA0 ≤ n ∧ n ≤ 0xBF then
      { s with errors := { s.errors with win := put s.errors.win (n - 0xA0) (v &&& 0x80FF00FFFFFFFFFF) } }
    else s

/-- MTK (R128, R151). -/
def execMtk (d : GReg) (x : BitVec 8) (s : State) : Result :=
  let i := x.toNat
  if kDenied (me s) i then privTrap s else
  withOps s [] [d] [] fun vs s' =>
    if i = 0x02 ∨ i = 0x04 ∨ i = 0x0F then
      match myCtx s' with
      | none => .next (takeTrap s 13 0)
      | some n => .next (advance (writeCtxK s' n i (opnd vs 0)))
    else .next (advance (writeOtherK s' i (opnd vs 0)))

/-! Debug stops (R473 to R475). -/

/-- Slot `i` stops for the debugger, its context frozen first; a vector trap that falls due is taken instead (R473, R475). -/
def debugStop (s : State) (i why : Nat) : State :=
  let x := slotAt s i
  match x.st, ctxOf s i with
  | .ready, some k | .parked _, some k => if x.handler then debugHold s i why else beginFreeze s i k (.debug why)
  | .ready, none | .parked _, none => debugHold s i why
  | _, _ => s

/-- Whether slot `i`'s context holds an entry. -/
def entriesLeft (s : State) (i : Nat) : Bool :=
  match ctxOf s i with
  | some k => !(ctxAt s k).queue.isEmpty
  | none => false

/-- The stop that an entry's completion brings: at DBGVC, or at the end of a STEP, which with STEPV awaits an entry (R473, R474). -/
def debugDue (s : State) (i : Nat) : State :=
  let d := (slotAt s i).dbg
  if d.vcHit then debugStop s i 2
  else if d.stepping && !d.stepReq && !(d.stepVec && entriesLeft s i) then debugStop s i 5
  else s

/-! System functions (R152). -/

/-- SYS 0: no effect (R152). -/
def execSysNop (_n : BitVec 8) (s : State) : Result := .next (advance s)

/-- TRAP (R152). -/
def execTrap (n : BitVec 8) (s : State) : Result := .next (takeTrap s 10 (n.setWidth 64))

/-- BREAK: the debug stop where one is armed, else the breakpoint trap (R152, R473). -/
def execBrk (n : BitVec 8) (s : State) : Result :=
  if (me s).dbg.brk then .next (debugStop (advance s) s.cur 3) else .next (takeTrap s 11 (n.setWidth 64))

/-- RETT, in the handler state only (R152, R428). -/
def execRett (_n : BitVec 8) (s : State) : Result := if (me s).handler then .next (returnTrap s) else privTrap s

/-- YIELD: the turns of the cycles it names go unused, 16 cycles being one turn (R152; log 5). -/
def execYield (n : BitVec 8) (s : State) : Result :=
  let s := advance s
  .next (setMe s { me s with st := .parked (.yieldUntil (cycleOf s (myCore s) + 16 * (n.toNat + 1) + 1)) })

/-- IDLE, on supervisor slots only (R152). -/
def execIdle (_n : BitVec 8) (s : State) : Result :=
  if !(me s).sup then privTrap s else
  let s := advance s
  .next (setMe s { me s with st := .parked .idle })

/-- WAIT: parks until each counter whose field is below 15 is at or below it (R132). -/
def execWait (l st c t : BitVec 4) (s : State) : Result :=
  let x := me s
  let ok (f : BitVec 4) (v : Nat) : Bool := f == 15 || decide (v ≤ f.toNat)
  if ok l x.outL && ok st x.outS && ok c x.outC && ok t x.outT then .next (advance s)
  else .next (park s (.counters l.toNat st.toNat c.toNat t.toNat))

/-! Translation maintenance (R154, R155, R344). -/

/-- Whether a translation serves under the selected numbers; none selects every number (R154). -/
def selected (t : Tlb) (asid : Option (BitVec 12)) : Bool :=
  match asid with
  | none => true
  | some a => t.asid == a || bitOf t.leaf 8

/-- Whether a translation is of the page that holds an address; none names every page (R155). -/
def onPage (t : Tlb) (page : Option Word) : Bool :=
  match page with
  | none => true
  | some p => if t.big then t.vpage / 1024 == p.toNat % 2 ^ 56 / 2 ^ 26 else t.vpage == p.toNat % 2 ^ 56 / 65536

/-- The frame of a translation: its first byte, plus 1 for 64 MiB. -/
def frameOf (t : Tlb) : Nat := leafFrame t.leaf + if t.big then 1 else 0

/-- Whether a physical address lies in a frame. -/
def inFrame (f pa : Nat) : Bool := decide (f / 65536 * 65536 ≤ pa) && decide (pa < f / 65536 * 65536 + if f % 2 = 1 then 2 ^ 26 else 65536)

/-- Whether a physical address lies in one of the frames. -/
def inFrames (fs : List Nat) (pa : Nat) : Bool := fs.any fun f => inFrame f pa

/-- The lines of a core's caches that are dirty: those homed on other dies, oldest first, then those of its own (R322, R324). -/
def dirtyLines (x : Core) : List Nat := dirtyList x ++ (x.l2.filter (·.dirty)).map (·.line)

/-- Every L1 and L2 writes back and invalidates the lines of the frames, but for those that an engine owns, which are purged once it
has written them; what the merge tables hold of the frames is sent (R154, R329, R345). -/
def purgeFrames (s : State) (fs : List Nat) : State :=
  let go (l : Nat) : Bool := inFrames fs (l * 32) && !engineOwns s (.phys (l * 32)) 32
  let s := s.cores.foldl (fun s (c, x) => writeBackLines s c ((dirtyLines x).filter go)) s
  { s with
    cores := s.cores.map fun (c, x) => (c, forgetLines x go)
    clusters := s.clusters.map fun (q, x) => (q, { x with merges := x.merges.filter fun m => !inFrames fs (m.block * 256) }) }

/-- The frame a walk of `va` under the issuing core's PTBASE finds, whatever the leaf's permissions and MIG (R155). -/
def walkFrame (s : State) (va : Word) : List Nat :=
  match walk s (myCore s) (va.toNat % 2 ^ 56) with
  | .page t => [frameOf t]
  | .migrating t => [frameOf t]
  | .fail _ => []

/-- The full/empty requests and joins under way or listed, with those to be sent again (R389, R391). -/
def allRequests (s : State) : List FeReq :=
  s.feReqs ++ (s.dies.map fun x => x.2.feWait).flatten ++ s.slots.filterMap fun (_, x) =>
    match x.waiting with
    | .refused q _ => some q
    | _ => none

/-- The request of slot `i` withdrawn: the slot tests it again, under a new translation (R344, R424). -/
def askAgain (s : State) (i : Nat) : State :=
  let s := withdraw s i
  let x := slotAt s i
  let why (w : ParkWhy) : ParkWhy := match w with
    | .fullEmpty ea => .entry ea
    | .join ea => .entry ea
    | w => w
  setSlot s i { x with st := match x.st with
    | .parked w => .parked (why w)
    | .stopped t (some w) => .stopped t (some (why w))
    | t => t }

/-- Translations removed from every TLB of the package; the frames that they, or pins, held. Requests that wait at a word under one are
made again under a new one, and a production's DONE word is found anew when it ends (R155, R344). -/
def invalidate (s : State) (page : Option Word) (asid : Option (BitVec 12)) : List Nat × State :=
  let hit (t : Tlb) : Bool := onPage t page && selected t asid
  let frames := ((s.cores.map fun x => x.2.tlb ++ x.2.pins.map (·.tlb)).flatten ++ (s.dies.map fun x => x.2.tlb).flatten).filter hit
  let s := { s with
     cores := s.cores.map fun (c, x) => (c, { x with tlb := x.tlb.filter fun t => !hit t })
     dies := s.dies.map fun (d, x) => (d, { x with tlb := x.tlb.filter fun t => !hit t })
     prods := s.prods.map fun (p, x) => (p, { x with donePage := x.donePage.filter fun t => !hit t }) }
  (frames.map frameOf, ((allRequests s).filter fun q => q.page.any hit).foldl (fun s q => askAgain s q.slot) s)

/-- The work of tlbi and tlbia after their operands are read (R154, R155). -/
def maintain (back s : State) (page : Option Word) (sel : Word) (purge : Bool) : Result :=
  if !releaseReady back then .next (park back (.entry 0)) else
  let s := releaseAt s (myCore s) .package
  let asid := if bitOf sel 12 then none else some (sel.setWidth 12)
  let (fs, s) := invalidate s page asid
  let fs := match page with
    | some p => fs ++ walkFrame s p
    | none => fs
  let s := if purge then purgeFrames s fs else s
  .next (advance (setMe s { me s with invals := (me s).invals ++ [⟨page, asid, purge, fs⟩] }))

/-- TLBI, in the handler state and on supervisor slots (R127, R155). -/
def execTlbi (a b : GReg) (s : State) : Result :=
  if isUser (me s) then privTrap s else
  withOps s [a, b] [] [] fun vs s' => maintain s s' (some (opnd vs 0)) (opnd vs 1) (bitOf (opnd vs 1) 13)

/-- TLBIA (R155). -/
def execTlbia (b : GReg) (s : State) : Result :=
  if isUser (me s) then privTrap s else
  withOps s [b] [] [] fun vs s' => maintain s s' none (opnd vs 0) false

/-- Whether a place lies in one of the frames. -/
def locInFrames (fs : List Nat) (l : Loc) : Bool :=
  match l with
  | .phys pa => inFrames fs pa
  | .scratch _ _ _ => false

/-- Whether an engine owns a line of one of some frames (R345). -/
def framesOwned (s : State) (fs : List Nat) : Bool :=
  (s.ctxs.any fun (_, y) => y.queue.any fun e => e.owned.any (locInFrames fs)) ||
  (s.cores.any fun (_, k) => k.sgOps.any fun o => o.token.isNone && o.owned.any (locInFrames fs)) ||
  s.door.colls.any fun q => q.owned.any (locInFrames fs)

/-- Whether nothing still uses a translation an invalidation removed: no pin on the page, and of its frames no store in a store
buffer or a write-through buffer, no load that has still to perform, and, of a purge, no line that an engine owns (R155, R344,
R345). -/
def invalDone (s : State) (v : Invalidation) : Bool :=
  !(v.purge && framesOwned s v.frames) &&
  (s.cores.all fun (_, k) => k.pins.all fun p => !(onPage p.tlb v.page && selected p.tlb v.asid)) &&
  (s.cores.all fun (c, k) => k.through.all fun t => !(t.2 == cycleOf s c && inFrames v.frames (t.1 * 32))) &&
  (s.slots.all fun (_, x) => (x.sbuf.all fun e => !locInFrames v.frames e.loc) &&
    x.arrivals.all fun a => !(a.load.any fun q => locInFrames v.frames q.loc))

/-- TLBSYNC (R155, R344). -/
def execTlbsync (s : State) : Result :=
  if isUser (me s) then privTrap s
  else if (me s).invals.all (invalDone s) then
    let s := (me s).invals.foldl (fun s v => if v.purge then purgeFrames s v.frames else s) s
    .next (advance (setMe s { me s with invals := [] }))
  else .next (park s (.entry 0))

/-! Vector length and type (R173, R174). -/

/-- Whether a vldff of the context has not completed: no later vector-class instruction issues (R354). -/
def trimming (y : Ctx) : Bool := y.queue.any fun e => e.op == .vldff

/-- The grant of a request under a type (R173). -/
def vlGrant (y : Ctx) (req : Nat) (t : BitVec 20) : Nat :=
  let n := min req (vlmax y)
  let l := vtBlock t
  n / l * l

/-- VL, VTYPE, VSTART and HIWATER after a grant (R173). -/
def grantVl (s : State) (k : Nat) (d : GReg) (req : Nat) (t : BitVec 20) : Result :=
  let y := ctxAt s k
  let n := vlGrant y req t
  retire1 (setCtx s k { y with vl := n, vtype := t, vstart := 0, hiElems := max y.hiElems n }) d (BitVec.ofNat 64 n)

/-- VSET (R173). -/
def execVset (d a b : GReg) (s : State) : Result :=
  if (me s).handler then privTrap s else
  match myCtx s with
  | none => .next (takeTrap s 13 0)
  | some k =>
    if trimming (ctxAt s k) then .next (park s (.entry 0)) else
    withOps s [a, b] [] [d] fun vs s' =>
      if vtypeValid (opnd vs 1) then grantVl s' k d (opnd vs 0).toNat ((opnd vs 1).setWidth 20)
      else .next (takeTrap s 15 0)

/-- VSETK (R173). -/
def execVsetk (d a : GReg) (s : State) : Result :=
  if (me s).handler then privTrap s else
  match myCtx s with
  | none => .next (takeTrap s 13 0)
  | some k =>
    if trimming (ctxAt s k) then .next (park s (.entry 0)) else
    withOps s [a] [] [d] fun vs s' => grantVl s' k d (opnd vs 0).toNat (ctxAt s' k).vtype

end Sys2Proof.Machine
end

