-- ==== Sys2Proof/Machine/Blocks.lean ====
section
/-! DEFINITION. Reading a block of memory as a load of the issuing slot: launch blocks, engine descriptors, lists and payloads
(04 R109; 13 R363; 18 R459, R463, R465). -/

namespace Sys2Proof.Machine

/-- A range of addresses cut at line boundaries. -/
def blockPieces (fuel : Nat) (ea : Word) (len : Nat) : List (Word × Nat) :=
  match fuel with
  | 0 => []
  | fuel + 1 =>
    if len = 0 then [] else
    let n := min len (32 - ea.toNat % 32)
    (ea, n) :: blockPieces fuel (ea + BitVec.ofNat 64 n) (len - n)

/-- Where the pieces lie, or the first that fails its checks (R142). -/
def blockPlaces (s : State) (n : Need) (ps : List (Word × Nat)) : Except (Access × Word) (List (Loc × Nat) × State) :=
  match ps with
  | [] => .ok ([], s)
  | (a, k) :: t =>
    match checkAddr s (myCore s) (me s).prodid (me s).sup (isUser (me s)) n a with
    | (.ok l _, s) =>
      match blockPlaces s n t with
      | .ok (ls, s) => .ok ((l, k) :: ls, s)
      | .error e => .error e
    | (x, _) => .error (x, a)

/-- The bytes of the places, those of an aperture from their answers. -/
def placeBytes (s : State) (key : RKey) (ls : List (Loc × Nat)) : List Byte :=
  (ls.map fun (l, n) =>
    match apertureOf l with
    | some pa => match remoteGot s key pa n false with
      | some r => r.data
      | none => []
    | none => locBytes s (myCore s) l n).flatten

/-- The first place that reads as no value: a poisoned line, or an aperture packet refused, poisoned or lost (R437, R459). -/
def badPlace (s : State) (key : RKey) (ls : List (Loc × Nat)) (ea : Word) : Option Word :=
  match ls with
  | [] => none
  | (l, n) :: t =>
    let bad := match apertureOf l with
      | some pa => (match remoteGot s key pa n false with
        | some r => r.status != some 0
        | none => false)
      | none => locPoisoned s (myCore s) l
    if bad then some ea else badPlace s key t (ea + BitVec.ofNat 64 n)

/-- The `nth` block of an instruction read as a load of the slot, ordered after its earlier accesses. A failed check is a
precise trap at the address that `fault` gives for that of the failing piece, and a block that reads as no value one at the piece;
a line that an engine owns makes it wait, and through an aperture the slot parks until the answers have come (R378, R459). -/
def withBlockAt (nth : Nat) (fault : Word → Word) (back s : State) (n : Need) (ea : Word) (len : Nat)
    (k : List Byte → List (Loc × Nat) → State → Result) : Result :=
  if !(me back).sbuf.isEmpty then .next (park back (.entry ea)) else
  match blockPlaces s n (blockPieces (len / 32 + 2) ea len) with
  | .error (.trap cause, a) => .next (accessTrap (blockClear back back.cur) cause (fault a))
  | .error (_, a) => .next (park back (.migrating a (cycleOf back (myCore back) + 256)))
  | .ok (ls, s) =>
    if ls.any fun x => engineOwns s x.1 x.2 then .next (park back (.entry ea)) else
    let key := blockKey s.cur nth
    let want := ls.filterMap fun (l, n) => (apertureOf l).map fun pa => (pa, n, (none : Option (List Byte)))
    if want.isEmpty then
      match badPlace s key ls ea with
      | some a => .next (takeTrap (blockClear back back.cur) 9 a)
      | none => k (placeBytes s key ls) ls s
    else
      let asked := remoteSend s key want
      if !remoteAll asked key then
        .next (park (remoteSend back key want) (.entry ea))
      else
        match badPlace asked key ls ea with
        | some a => .next (takeTrap (blockClear back back.cur) 9 a)
        | none => k (placeBytes asked key ls) ls (remoteClear asked key)

/-- An instruction's one block. -/
def withBlock (back s : State) (n : Need) (ea : Word) (len : Nat) (k : List Byte → List (Loc × Nat) → State → Result) : Result :=
  withBlockAt 0 id back s n ea len k

/-- A little-endian field of a block. -/
def blockNat (bs : List Byte) (off n : Nat) : Nat := leNat ((bs.drop off).take n)

/-- A 64-bit word of a block. -/
def blockWord (bs : List Byte) (off : Nat) : Word := BitVec.ofNat 64 (blockNat bs off 8)

end Sys2Proof.Machine
end

