-- ==== Sys2Proof/Machine/Tasks.lean ====
section
/-! DEFINITION. Tasks, productions and contexts: fork, join, retire, launch, prodctl, vacq, vrel, boost, qbind, dispatch, and
the events of parked slots (04; 17 R445 to R452). -/

namespace Sys2Proof.Machine

/-! Task packets and spill regions (R93, R101 to R103). A region is reached as a supervisor-state access of the core that
forks or searches (log 22). -/

/-- A packet's 64 bytes (R93). -/
def packetBytes (p : TaskPacket) : List Byte :=
  leBytes 8 p.pc.toNat ++ leBytes 8 p.arg.toNat ++ leBytes 8 p.handle.toNat ++ leBytes 8 p.fmtp.toNat ++
  leBytes 8 p.sclp.toNat ++ leBytes 8 (p.prodid * 2 ^ 32 + p.taskid.toNat) ++ leBytes 16 0

/-- A packet of 64 bytes (R93). -/
def packetOf (bs : List Byte) : TaskPacket :=
  ⟨blockWord bs 0, blockWord bs 8, blockWord bs 16, blockWord bs 24, blockWord bs 32, fld (blockWord bs 40) 32 12,
   (blockWord bs 40).setWidth 32⟩

/-- A word of a region at its home. -/
def regionHome (s : State) (c : Nat) (va : Word) : Option Word :=
  (supPhys s c va).map fun pa => BitVec.ofNat 64 (leNat (memBytes s.mem pa 8))

/-- A word of a region for a fork or a search. DESIGN CHOICE: a region whose word is poisoned gives a search no packet and a fork
no room, and a poisoned packet stays where it lies (R103, R436; log 22). -/
def chainWord (s : State) (c : Nat) (va : Word) : Option Word :=
  (supPhys s c va).bind fun pa =>
    if homePoisoned s (.phys pa) then none else some (BitVec.ofNat 64 (leNat (memBytes s.mem pa 8)))

/-- Bytes written into a region, at package scope. -/
def regionPut (s : State) (c : Nat) (va : Word) (bs : List Byte) : State :=
  match supPhys s c va with
  | some pa => writeSpan (fun s a b => scopedWrite s c a b) 4 s pa bs
  | none => s

/-- A packet placed in the first region of a chain with room (R103). -/
def spillPut (fuel : Nat) (s : State) (c : Nat) (va : Word) (p : TaskPacket) : Option State :=
  match fuel with
  | 0 => none
  | fuel + 1 =>
    if va = 0 then none else
    match chainWord s c va, chainWord s c (va + 16) with
    | some w, some next =>
      let count := fld w 0 32
      if count < fld w 32 32 then
        let s := regionPut s c (va + BitVec.ofNat 64 (0x40 + 64 * count)) (packetBytes p)
        some (regionPut s c va (leBytes 4 (count + 1)))
      else spillPut fuel s c next p
    | _, _ => none

/-- The newest packet of the last region of a chain that holds one, taken out (R103). -/
def spillTake (fuel : Nat) (s : State) (c : Nat) (va : Word) : Option (TaskPacket × State) :=
  match fuel with
  | 0 => none
  | fuel + 1 =>
    if va = 0 then none else
    match chainWord s c va, chainWord s c (va + 16) with
    | some w, some next =>
      match spillTake fuel s c next with
      | some r => some r
      | none =>
        let count := fld w 0 32
        if count = 0 then none else
        match supPhys s c (va + BitVec.ofNat 64 (0x40 + 64 * (count - 1))) with
        | some pa =>
          if homePoisoned s (.phys pa) || homePoisoned s (.phys (pa + 32)) then none
          else some (packetOf (memBytes s.mem pa 64), regionPut s c va (leBytes 4 (count - 1)))
        | none => none
    | _, _ => none

/-- The first region of a chain whose page migrates (R103, R346). -/
def chainMigrates (fuel : Nat) (s : State) (c : Nat) (va : Word) : Option Word :=
  match fuel with
  | 0 => none
  | fuel + 1 =>
    if va = 0 then none
    else if supMigrates s c va then some va
    else match chainWord s c (va + 16) with
      | some next => chainMigrates fuel s c next
      | none => none

/-- The task numbers of a region's packets that are in the chain from `va` on (R96, R103). -/
def spillIds (fuel : Nat) (s : State) (c : Nat) (va : Word) : List (BitVec 32) :=
  match fuel with
  | 0 => []
  | fuel + 1 =>
    if va = 0 then [] else
    match regionHome s c va, regionHome s c (va + 16) with
    | some w, some next =>
      ((tab (min (fld w 0 32) (fld w 32 32)) 0 id).map fun k =>
        ((regionHome s c (va + BitVec.ofNat 64 (0x68 + 64 * k))).getD 0).setWidth 32) ++ spillIds fuel s c next
    | _, _ => []

/-- Packets in a chain of regions. -/
def spillCount (fuel : Nat) (s : State) (c : Nat) (va : Word) : Nat :=
  match fuel with
  | 0 => 0
  | fuel + 1 =>
    if va = 0 then 0 else
    match regionHome s c va, regionHome s c (va + 16) with
    | some w, some next => fld w 0 32 + spillCount fuel s c next
    | _, _ => 0

/-- More regions than a chain can have without coming back to one of its own: one for each 64 bytes of HBM (R17, R103). -/
def chainFuel : Nat := 2 ^ 35 + 1

/-- A production's first region, 0 for none (R101). -/
def spillOf (p : Prod) : Word := if p.spillSize = 0 then 0 else p.spillBase

/-! fork, join, retire (R96 to R98). -/

/-- The word at a handle changed by `v`, atomically at scope D (R96, R98). -/
def handleAdd (s : State) (c : Nat) (l : Loc) (v : Word) : State :=
  let old := BitVec.ofNat 64 (leNat (atomicOld s c (myDomain s) l 8))
  atomicWrite s c (myDomain s) l (leBytes 8 (old + v).toNat)

/-- Room made in the wings of core `c` for a packet of production `n`, which is then pushed at the new end, or placed in the
region where the wings hold none of the production's (R101). -/
def pushPacket (s : State) (c : Nat) (n : Nat) (p : Prod) (t : TaskPacket) : Option State :=
  let k := coreAt s c
  if k.wings.length < 64 then some (setCore s c { k with wings := k.wings ++ [t] }) else
  match k.wings.find? fun q => q.prodid == n with
  | some q =>
    (spillPut chainFuel s c (spillOf p) q).map fun s =>
      let k := coreAt s c
      setCore s c { k with wings := k.wings.erase q ++ [t] }
  | none => spillPut chainFuel s c (spillOf p) t

/-- Whether a handle is no place for one (R96). -/
def badHandle (h : Word) : Bool := h.toNat % 8 != 0 || isNear h

/-- A handle's word checked for an access; a handle in an aperture is an address fault, D never being system (R386). -/
def withHandle (back s : State) (n : Need) (h : Word) (k : Loc → State → Result) : Result :=
  withAccess back s 8 n h fun l _ s =>
    if (apertureOf l).isSome then .next (takeTrap back 7 h) else k l s

/-- The slots that hold a task of production `n`, not those that only wait to restore one (R112, R113). -/
def taskSlots (s : State) (n : Nat) : List Nat :=
  (s.slots.filter fun (_, x) => x.st != .free && !x.sup && !x.saved && x.prodid == n).map (·.1)

/-- The numbers of production `n`'s live tasks: on slots, saved, in wings, on callboards, in spill regions (R96). -/
def liveIds (s : State) (n : Nat) (p : Prod) : List (BitVec 32) :=
  let own (l : List TaskPacket) : List (BitVec 32) := (l.filter fun t => t.prodid == n).map (·.taskid)
  (taskSlots s n).map (fun i => (slotAt s i).taskid) ++
  (s.cores.map fun (_, k) => own k.wings ++ (k.saved.filter fun q => q.prod == n).map (·.task)).flatten ++
  (s.dies.map fun (_, d) => own d.board).flatten ++ spillIds chainFuel s p.core0 (spillOf p)

/-- A task number that no live task of production `n` has: the next one on (R96). -/
def freshTask (s : State) (n : Nat) (p : Prod) : Nat :=
  let ids := liveIds s n p
  ((tab (ids.length + 1) p.nextTask id).find? fun k => !ids.contains (BitVec.ofNat 32 k)).getD p.nextTask

/-- Where a fork that finds no place for its packet waits: at the first region of the chain that migrates (R103, R346). -/
def forkWaits (s : State) : Option Word :=
  match prodAt s (me s).prodid with
  | none => none
  | some p =>
    if (pushPacket s (myCore s) (me s).prodid p ⟨0, 0, 0, 0, 0, 0, 0⟩).isSome then none
    else chainMigrates chainFuel s (myCore s) (spillOf p)

/-- The packet pushed and the task number taken; wings-overflow where there is no room (R96, R101). -/
def forkPush (back s : State) (e arg h : Word) (done : State → State) : Result :=
  let n := (me s).prodid
  match prodAt s n with
  | none => privTrap back
  | some p =>
    let id := freshTask s n p
    let t : TaskPacket := ⟨e, arg, h, (me s).fmtp, (me s).sclp, n, BitVec.ofNat 32 id⟩
    match pushPacket s (myCore s) n p t with
    | none => .next (takeTrap back 24 0)
    | some s =>
      if !releaseReady back then .next (park back (.entry h)) else
      .next (advance (done (setProd s n { p with nextTask := id + 1 })))

/-- Whether the acting slot's fork would find a place for its packet (R96, R101). -/
def forkRoom (s : State) : Bool :=
  match prodAt s (me s).prodid with
  | none => true
  | some p => (pushPacket s (myCore s) (me s).prodid p ⟨0, 0, 0, 0, 0, 0, 0⟩).isSome

/-- FORK (R96). -/
def execFork (d a b : GReg) (s : State) : Result :=
  if (me s).handler || (me s).sup then privTrap s else
  withOps s [a, b] [d] [] fun vs s' =>
    let e := opnd vs 0
    let h := opnd vs 2
    if bitOf e 0 then .next (takeTrap s 5 e)
    else if h ≠ 0 ∧ badHandle h = true then .next (takeTrap s 23 h)
    else if (forkWaits s').isSome then
      .next (park s (.migrating ((forkWaits s').getD 0) (cycleOf s (myCore s) + 256)))
    else if !forkRoom s' then .next (takeTrap s 24 0)
    else if h = 0 then forkPush s s' e (opnd vs 1) h fun s => releaseAt s (myCore s) (myDomain s)
    else withHandle s s' needRW h fun l s' =>
      forkPush s s' e (opnd vs 1) h fun s => handleAdd (releaseAt s (myCore s) (myDomain s)) (myCore s) l 1

/-- JOIN (R97). -/
def execJoin (a : GReg) (s : State) : Result :=
  if (me s).handler || (me s).sup then privTrap s
  else if alreadySent s then .next s
  else withOps s [a] [] [] fun vs s' =>
    let h := opnd vs 0
    if h = 0 then .next (advance s')
    else if badHandle h then .next (takeTrap s 23 h)
    else withHandle s s' needR h fun l s' =>
      if !(me s).sbuf.isEmpty || storeAhead s l 8 then .next (park s (.entry h))
      else .next (feIssue s' (.join h) ⟨.join, 0, s'.cur, l, h, 0, underPage s' l h⟩)

/-- Items of the SFU that belong to slot `i` leave it. -/
def dropSfu (s : State) (i : Nat) : State :=
  let k := coreAt s (slotCore i)
  let keep (l : List SfuReq) : List SfuReq := l.filter fun q => q.slot != i
  let batch (b : SfuBatch) : SfuBatch := { b with reqs := keep b.reqs }
  setCore s (slotCore i) { k with
    sfuReqs := keep k.sfuReqs
    sfuOrder := k.sfuOrder.filter (· != i)
    sfuPort := k.sfuPort.map batch
    sfuRun := k.sfuRun.map batch }

/-- Whether a request that slot `i` sent to the special-function unit has not returned (R404). -/
def sfuOut (s : State) (i : Nat) : Bool :=
  let k := coreAt s (slotCore i)
  (k.sfuReqs ++ sfuSent k).any fun q => q.slot == i

/-- The task of the acting slot is over: its context unbound, its slot free (R98, R115). -/
def endTask (s : State) : State :=
  let i := s.cur
  let s := unbindCtx (dropAnswers (dropSfu s i) i) i
  setSlot s i (emptied (slotAt s i))

/-- RETIRE. In the handler state the frozen entries are discarded first, and the handler state is left; where it then parks it is fetched
again as the handler fetched it (R98, R427). -/
def execRetire (s : State) : Result :=
  if (me s).sup then privTrap s else
  let s := if (me s).handler then
      let s := match myCtx s with
        | some k => discardEntries s s.cur k
        | none => s
      setMe s { me s with handler := false, retiring := true }
    else s
  let x := me s
  if x.outT + x.outC + x.outS + x.outL ≠ 0 then .next (park s (.counters 0 0 0 0)) else
  let busy := match myCtx s with
    | some k => !(ctxAt s k).queue.isEmpty
    | none => false
  if busy || sfuOut s s.cur then .next (park s (.entry 0))
  else if !releaseReady s then .next (park s (.entry 0))
  else if x.handle = 0 then .next (endTask (releaseAt s (myCore s) (myDomain s)))
  else withHandle s s needRW x.handle fun l s =>
    .next (endTask (handleAdd (releaseAt s (myCore s) (myDomain s)) (myCore s) l (-1)))

/-! launch (R107 to R110; 06 R161, R165; 12 R312). -/

/-- A way of a core. -/
def wayAt (k : Core) (w : Nat) : Way := look k.ways w ⟨.cache, 0⟩

/-- Lane groups of way `w` in service (R166). -/
def wayGroups (k : Core) (w : Nat) : List Nat := (tab 4 (4 * w) id).filter fun n => !bitOf k.outGroups n

/-- The free ways of a core: in cache mode or returning (R107, R163). -/
def freeWays (k : Core) : List Nat := (tab 16 0 id).filter fun w => (wayAt k w).st == .cache || (wayAt k w).st == .returning

/-- The ways a launch takes: those with most lane groups in service first, then the lower number; in ascending order (R165). -/
def chooseWays (k : Core) (n : Nat) : List Nat :=
  let free := freeWays k
  let ranked := ((tab 5 0 fun g => free.filter fun w => (wayGroups k w).length == 4 - g)).flatten
  let chosen := ranked.take n
  (tab 16 0 id).filter fun w => chosen.contains w

/-- The valid ranges of a launch block, each its first and last core (R108). -/
def launchRanges (bs : List Byte) : List (Nat × Nat) :=
  (tab 4 0 fun n => BitVec.ofNat 32 (blockNat bs (0x10 + 4 * n) 4)).filterMap fun (w : BitVec 32) =>
    if bitOf w 31 then some (fld w 0 10, fld w 16 10) else none

/-- Whether a launch block's fields fail the checks of status −1 (R102, R108, R109). -/
def badBlock (bs : List Byte) : Bool :=
  let b (o : Nat) : Nat := blockNat bs o 1
  let ranges := launchRanges bs
  let cores := tab 4 0 fun n => BitVec.ofNat 32 (blockNat bs (0x10 + 4 * n) 4)
  let size := blockNat bs 0x48 8
  (cores.any fun (w : BitVec 32) => fld w 26 5 != 0 || fld w 10 6 != 0) || blockNat bs 0x26 2 / 2 != 0 || blockNat bs 0x58 40 != 0 ||
  blockNat bs 0 1 % 2 != 0 || ranges.isEmpty || (ranges.any fun (f, l) => decide (l < f)) ||
  b 0x20 == 0 || decide (16 < b 0x20) || !(b 0x21 == 1 || b 0x21 == 2 || b 0x21 == 4) || b 0x20 % b 0x21 != 0 ||
  decide (38 < b 0x22) || decide (3 < b 0x23) || decide (3 < b 0x24) || b 0x25 == 0 ||
  decide (256 < blockNat bs 0x28 2) || decide (64 < blockNat bs 0x2A 2) ||
  (size != 0 && (size % 64 != 0 || decide (size < 128))) || blockNat bs 0x40 1 % 64 != 0

/-- The cores of a set, ascending. -/
def coreSet (ranges : List (Nat × Nat)) : List Nat :=
  (tab 1024 0 id).filter fun c => ranges.any fun (a, b) => decide (a ≤ c) && decide (c ≤ b)

/-- Whether every lane group of a core is retired (R109). -/
def allRetired (k : Core) : Bool := k.outGroups == BitVec.allOnes 64

/-- Curtains allotted from die `d` (R107, R392). -/
def dieCurtains (s : State) (d : Nat) : Nat :=
  (s.prods.map fun (_, p) => if (tab 128 (128 * d) id).any fun c => inSet p c then p.curtains else 0).sum

/-- Curtains allotted from the package table (R107). -/
def packageCurtains (s : State) : Nat := (s.prods.map fun (_, p) => p.pcurtains).sum

/-- The lowest production number no live production holds (R109). -/
def freeProd (s : State) : Option Nat := (tab 4095 1 id).find? fun n => (prodAt s n).isNone

/-- The status a launch block's checks decide, and else the new number (R109). -/
def launchStatus (s : State) (bs : List Byte) : Except Nat Nat :=
  if badBlock bs then .error 1 else
  let cs := coreSet (launchRanges bs)
  let ways := blockNat bs 0x20 1
  let dies := (tab 8 0 id).filter fun d => cs.any fun c => coreDie c == d
  if cs.any fun c => !coreExists s c || allRetired (coreAt s c) then .error 2
  else if cs.any fun c => decide ((freeWays (coreAt s c)).length < ways) then .error 3
  else if cs.any fun c => decide ((l1Granules (coreAt s c)).length < blockNat bs 0x22 1 + 2) then .error 4
  else if (dies.any fun d => decide (256 < dieCurtains s d + blockNat bs 0x28 2)) ||
      decide (64 < packageCurtains s + blockNat bs 0x2A 2) then .error 5
  else if decide (256 ≤ (dieAt s (coreDie (cs.headD 0))).board.length) then .error 6
  else match freeProd s with
    | none => .error 7
    | some n => .ok n

/-- The lines that leave a core's caches with some of their ways: every line of an L1 granule taken, and of an L2 way
converted every line, the dirty ones written back first (R161, R312, R314). -/
def emptyWays (s : State) (c : Nat) (ws gs : List Nat) : State :=
  let gone := ((coreAt s c).l2.filter fun t => ws.contains t.way).map (·.line)
  let s := writeBackLines s c gone
  let k := coreAt s c
  let out := gone ++ (k.l1.filter fun t => gs.contains t.way).map (·.line)
  let s := setCore s c { k with
    l1 := k.l1.filter fun t => !gs.contains t.way
    l2 := k.l2.filter fun t => !ws.contains t.way }
  out.foldl (fun s l => dropCopy s c l) s

/-- One core's part of a launch: its ways converted, its granules taken, its contexts made (R161, R165, R312). -/
def allotCore (s : State) (c n ways ctxs gran : Nat) : State :=
  let ws := chooseWays (coreAt s c) ways
  let gs := (l1Granules (coreAt s c)).reverse.take gran
  let gs := (tab 40 0 id).filter fun g => gs.contains g
  let s := emptyWays s c ws gs
  let k := coreAt s c
  let s := setCore s c { k with
    ways := ws.foldl (fun m w => put m w ⟨.compute, n⟩) k.ways
    gran := gs.foldl (fun m g => put m g (.scratch n)) k.gran
    scratch := put k.scratch n ⟨gs, [], [], []⟩ }
  let per := ways / ctxs
  (tab ctxs 0 id).foldl (fun s j =>
    let own := (ws.drop (per * j)).take per
    setCtx s (ctxNo c n j) { ctx0 with ways := own, groups := own.map (wayGroups k) }) s

/-- A packet placed on a callboard, ordered by class and then by age (R104). -/
def boardInsert (s : State) (b : List TaskPacket) (t : TaskPacket) (cls : Nat) : List TaskPacket :=
  match b with
  | [] => [t]
  | q :: r =>
    let qc := match prodAt s q.prodid with
      | some p => p.cls.toNat
      | none => 0
    if qc ≤ cls then q :: boardInsert s r t cls else t :: q :: r

/-- The production a launch block describes, with DONE at `ea`, under a translation from a root (R108). -/
def prodOf (bs : List Byte) (launcher : Nat) (done : Loc) (fe : Bool) (ea root : Word) (page : Option Tlb) : Prod where
  cores := launchRanges bs
  ways := blockNat bs 0x20 1
  contexts := blockNat bs 0x21 1
  scratchG := blockNat bs 0x22 1
  cls := BitVec.ofNat 2 (blockNat bs 0x23 1)
  domain := blockNat bs 0x24 1
  share := blockNat bs 0x25 1
  share0 := blockNat bs 0x25 1
  lright := blockNat bs 0x26 1 % 2 == 1
  launcher := launcher
  curtains := blockNat bs 0x28 2
  pcurtains := blockNat bs 0x2A 2
  patience := BitVec.ofNat 32 (blockNat bs 0x2C 4)
  fmtp := blockWord bs 0x30
  sclp := blockWord bs 0x38
  spillBase := blockWord bs 0x40
  spillSize := blockWord bs 0x48
  done := done
  doneFe := fe
  doneEa := ea
  doneRoot := root
  donePage := page
  core0 := (coreSet (launchRanges bs)).headD 0
  paused := false
  shed := false
  ending := none
  nextTask := 1

/-- A write of the DONE word of production `n`, at system scope; core `c`'s ring holds the record of one that is refused (R109, R111, R459). -/
def writeDone (s : State) (c n : Nat) (l : Loc) (w : Word) : State :=
  match apertureOf l with
  | some pa =>
    match sendAperture s pa 0 8 true (makeRecs 2 (apertureOff pa) (leBytes 8 w.toNat)) (.done c n pa) with
    | some s => s
    | none => waitEnd s 0 (.done c n pa) (noConn s) []
  | none => homeStore s l (leBytes 8 w.toNat)

/-- Everything a launch that succeeds does (R102, R104, R107, R109). -/
def startProd (s : State) (bs : List Byte) (n : Nat) (p : Prod) : State :=
  let cs := coreSet p.cores
  let s := cs.foldl (fun s c => allotCore s c n p.ways p.contexts p.scratchG) s
  let shedNow := inMask (shedMask s s.dimmer.level) p.cls.toNat || s.dimmer.restoring.tail.contains p.cls.toNat
  let s := setProd s n { p with shed := shedNow }
  let d := coreDie p.core0
  let t : TaskPacket := ⟨blockWord bs 0, blockWord bs 8, 0, p.fmtp, p.sclp, n, 0⟩
  let s := setDie s d { dieAt s d with board := boardInsert s (dieAt s d).board t p.cls.toNat }
  let s := if p.spillSize = 0 then s
    else regionPut s p.core0 (p.spillBase + 4) (leBytes 4 ((p.spillSize.toNat - 64) / 64))
  writeDone s p.core0 n p.done (BitVec.ofNat 64 n)

/-- A negative status as a word. -/
def status (n : Nat) : Word := -(BitVec.ofNat 64 n)

/-- Whether a slot's production may launch (R109). -/
def mayLaunch (s : State) : Bool :=
  (me s).sup || (match prodAt s (me s).prodid with
    | some p => p.lright
    | none => false)

/-- LAUNCH (R109). -/
def execLaunch (d a : GReg) (s : State) : Result :=
  if !mayLaunch s then privTrap s else
  withOps s [a] [] [d] fun vs s' =>
    let ea := opnd vs 0
    if !releaseReady s then .next (park s (.entry ea))
    else if ea.toNat % 64 ≠ 0 then
      .next (advance (sendResult (releaseAt s' (myCore s') .system) d (status 1) false 0 .none))
    else withBlockAt 0 (fun _ => ea) s (releaseAt s' (myCore s') .system) needRW ea 128 fun bs _ s' =>
      match checkAddr s' (myCore s') (me s').prodid (me s').sup (isUser (me s')) needRW (ea + 0x50) with
      | (.ok l leaf, s') =>
        let fe := bitOf leaf 9 && (match l with
          | .phys pa => !isAperture pa
          | .scratch _ _ _ => false)
        match launchStatus s' bs with
        | .error n => .next (advance (sendResult s' d (status n) false 0 .none))
        | .ok n =>
          let root := (coreAt s' (myCore s')).ptroot
          let p := prodOf bs (me s').prodid l fe (ea + 0x50) root (underPage s' l (ea + 0x50))
          if p.spillSize ≠ 0 ∧ supMigrates s' p.core0 p.spillBase = true then
            .next (park s (.migrating p.spillBase (cycleOf s (myCore s) + 256)))
          else .next (advance (sendResult (startProd s' bs n p) d (BitVec.ofNat 64 n) false 0 .none))
      | (.trap cause, _) => .next (accessTrap s cause ea)
      | (.migrating, _) => .next (park s (.migrating ea (cycleOf s (myCore s) + 256)))

/-! prodctl (R112, R113; 17 R446, R451). -/

/-- The slots of production `n`, those that wait to restore a saved task of it among them. -/
def prodSlots (s : State) (n : Nat) : List Nat :=
  (s.slots.filter fun (_, x) => x.st != .free && !x.sup && x.prodid == n).map (·.1)

/-- Tasks of production `n` running, parked or queued; DESIGN CHOICE: a saved task, which holds no slot, counts (R113; log 4). -/
def liveCount (s : State) (n : Nat) (p : Prod) : Nat :=
  (taskSlots s n).length + (s.cores.map fun (_, k) => (k.wings.filter fun t => t.prodid == n).length +
    (k.saved.filter fun q => q.prod == n).length).sum +
  (s.dies.map fun (_, d) => (d.board.filter fun t => t.prodid == n).length).sum + spillCount chainFuel s p.core0 (spillOf p)

/-- The state word (R113). -/
def prodState (s : State) (n : Nat) (p : Prod) : Word :=
  BitVec.ofNat 64 (p.share * 2 ^ 40 + p.cls.toNat * 2 ^ 32 + (if p.paused then 2 ^ 30 else 0) + (if p.shed then 2 ^ 29 else 0) +
    (if p.lright then 2 ^ 28 else 0) + p.launcher * 2 ^ 16 + min (liveCount s n p) 0xFFFF)

/-- Every store of a slot's buffer, `es`, performed, oldest first. -/
def drainAll (s : State) (i : Nat) (es : List StoreEntry) : State :=
  match es with
  | [] => s
  | e :: t => drainAll (performStore s i e t) i t

/-- The task of slot `i` is discarded: its entries, its waits and its context go, its stores drain (R451). -/
def killTask (s : State) (i : Nat) : State :=
  let s := match ctxOf s i with
    | some k => discardEntries s i k
    | none => s
  let s := drainAll (dropAnswers (dropSfu (withdraw s i) i) i) i (slotAt s i).sbuf
  let s := unbindCtx s i
  setSlot s i (abandoned (slotAt s i))

/-- A production is killed: its tasks and saved tasks discarded, its packets dropped; it ends with the reason once its engine
operations are over (R112, R451). -/
def killProd (s : State) (n reason : Nat) : State :=
  let s := (prodSlots s n).foldl killTask s
  let s := s.cores.foldl (fun s (c, k) => (k.saved.filter fun q => q.prod == n).foldl (fun s q => poolGive s c q.pool q.area) s) s
  let s := { s with
    cores := s.cores.map fun (c, k) => (c, { k with
      wings := k.wings.filter fun t => t.prodid != n
      saved := k.saved.filter fun q => q.prod != n })
    dies := s.dies.map fun (d, x) => (d, { x with board := x.board.filter fun t => t.prodid != n }) }
  match prodAt s n with
  | some p => setProd s n { p with ending := some (p.ending.getD reason) }
  | none => s

/-- A page that an operation of prodctl on production `n` waits for: of its spill regions, whose packets a query counts, or of a saved
task's area or pool, which a kill gives back (R103, R346, R450). -/
def ctlWaits (s : State) (op n : Nat) (p : Prod) : Option Word :=
  if op = 0 then chainMigrates chainFuel s p.core0 (spillOf p)
  else if op = 4 then
    (s.cores.map fun (c, k) => ((k.saved.filter fun q => q.prod == n).map fun q => [q.pool, q.area]).flatten.filter (supMigrates s c)).flatten.head?
  else none

/-- What prodctl finds before it acts. -/
inductive Ctl where
  | stat (n : Nat)
  | target (n : Nat) (p : Prod)

/-- The checks of prodctl, in the order −3, −2, −1; DESIGN CHOICE: the launcher is known by its production number alone, so that a
later production given an ended launcher's number has its authority (R112; log 4). -/
def ctlCheck (s : State) (op w : Word) : Ctl :=
  let x := me s
  let n := if fld w 16 12 = 0 then x.prodid else fld w 16 12
  let arg := fld w 0 16
  if 6 < op.toNat ∨ fld w 28 36 ≠ 0 ∨ (op = 1 ∧ (arg = 0 ∨ 255 < arg)) then .stat 3 else
  match prodAt s n with
  | none => .stat 2
  | some p =>
    let sup := x.sup || x.handler
    let launcher := x.prodid != 0 && p.launcher == x.prodid
    let own := x.prodid != 0 && n == x.prodid
    let holdsRight := match prodAt s x.prodid with
      | some q => q.lright
      | none => false
    let ok := match op.toNat with
      | 0 => true
      | 1 => sup || launcher || (own && decide (arg ≤ p.share0))
      | 4 => sup || launcher || own
      | 5 => sup || (launcher && holdsRight)
      | 6 => sup || launcher || own
      | _ => sup || launcher
    if ok then .target n p else .stat 1

/-- A result of prodctl left under way. -/
def ctlResult (s : State) (d : GReg) (v : Word) : State := advance (sendResult s d v false 0 .none)

/-- The operation of prodctl on production `n` (R112). -/
def ctlAct (s : State) (d : GReg) (op n arg : Nat) (p : Prod) : State :=
  match op with
  | 0 => ctlResult s d (prodState s n p)
  | 1 => ctlResult (setProd s n { p with share := arg }) d 0
  | 2 => ctlResult (setProd s n { p with paused := true }) d 0
  | 3 => ctlResult (setProd s n { p with paused := false }) d 0
  | 4 => if (me s).prodid = n ∧ (me s).sup = false then killProd s n (if (me s).handler then 2 else 1)
    else killProd (ctlResult s d 0) n 1
  | 5 => ctlResult (setProd s n { p with lright := arg % 2 == 1 }) d 0
  | _ =>
    let is := (taskSlots s n).filter fun i => (slotAt s i).st != .stopped .doubleTrap none
    is.foldl (fun s i => markPreempt s i .prodctl) (ctlResult s d (BitVec.ofNat 64 is.length))

/-- PRODCTL: the operation is the value of g[a], whichever of its rows of the opcode table is named (R112; log 4). -/
def prodctl (d a b : GReg) (s : State) : Result :=
  withOps s [a, b] [] [d] fun vs s' =>
    match ctlCheck s' (opnd vs 0) (opnd vs 1) with
    | .stat n => .next (ctlResult s' d (status n))
    | .target n p =>
      match ctlWaits s' (opnd vs 0).toNat n p with
      | some va => .next (park s (.migrating va (cycleOf s (myCore s) + 256)))
      | none => .next (ctlAct s' d (opnd vs 0).toNat n (fld (opnd vs 1) 0 16) p)

/-- PRODCTL_QUERY (R112). -/
def execProdctlQuery (d a b : GReg) (s : State) : Result := prodctl d a b s
/-- PRODCTL_SHARE (R112). -/
def execProdctlShare (d a b : GReg) (s : State) : Result := prodctl d a b s
/-- PRODCTL_PAUSE (R112). -/
def execProdctlPause (d a b : GReg) (s : State) : Result := prodctl d a b s
/-- PRODCTL_RESUME (R112). -/
def execProdctlResume (d a b : GReg) (s : State) : Result := prodctl d a b s
/-- PRODCTL_KILL (R112). -/
def execProdctlKill (d a b : GReg) (s : State) : Result := prodctl d a b s
/-- PRODCTL_GRANT (R112). -/
def execProdctlGrant (d a b : GReg) (s : State) : Result := prodctl d a b s
/-- PRODCTL_PREEMPT (R112). -/
def execProdctlPreempt (d a b : GReg) (s : State) : Result := prodctl d a b s

/-! Contexts and ports (R114 to R117). -/

/-- The saved task a parked slot is to restore. -/
def awaited (s : State) (c i : Nat) : Option Saved :=
  let x := slotAt s i
  (coreAt s c).saved.find? fun q => q.prod == x.prodid && q.task == x.taskid

/-- What waiter `j` leaves of the free contexts `l`: the one it is to restore is taken from them, or the lowest (R114, R450). -/
def ctxLeaves (s : State) (c j : Nat) (l : List Nat) : List Nat :=
  if (slotAt s j).saved then
    match awaited s c j with
    | some q => l.filter (· != savedCtx s c q)
    | none => l
  else l.drop 1

/-- The unbound contexts of production `n` on core `c`, ascending, that no slot which waits before slot `i` will take: waiting slots
are served in the order they parked (R114, R450). -/
def freeCtxs (s : State) (c n i : Nat) : List Nat :=
  let free := match prodAt s n with
    | none => []
    | some p => (tab p.contexts 0 id).filter fun k => (ctxAt s (ctxNo c n k)).bound.isNone
  let ahead := ((coreAt s c).ctxWait.takeWhile (· != i)).filter fun j => (slotAt s j).prodid == n
  ahead.foldl (fun l j => ctxLeaves s c j l) free

/-- The lowest-numbered unbound context of slot `i`'s production on its core that is the slot's to take (R114). -/
def freeCtx (s : State) (i : Nat) : Option Nat := (freeCtxs s (slotCore i) (slotAt s i).prodid i).head?

/-- Whether a page of a saved task's area or pool, or of an area that killing its production gives back, migrates: its restore waits
(R346, R450). -/
def restoreWaits (s : State) (c : Nat) (q : Saved) : Bool :=
  supMigrates s c q.pool || areaMigrates s c q.area (savedSize s c q) || (s.cores.any fun (d, k) =>
    k.saved.any fun z => z.prod == q.prod && (supMigrates s d z.pool || supMigrates s d z.area))

/-- Whether the saved context number is free for slot `i` to restore its task, and a row buffer for each of its holds (R273, R450;
log 27). -/
def restoreFree (s : State) (c i : Nat) (q : Saved) : Bool :=
  savedCtx s c q == 0xFF || ((freeCtxs s c q.prod i).contains (savedCtx s c q) && buffersFree s c q)

/-- Context `k` of the slot's production bound to slot `i` (R114, R178, R431, R467). -/
def bindCtx (s : State) (i k : Nat) : State :=
  let c := slotCore i
  let n := ctxNo c (slotAt s i).prodid k
  let y := ctxAt s n
  let s := setCtx s n { y with
    bound := some i
    vl := 0
    vstart := 0
    hiElems := 0
    hiRegs := 0
    vtype := 0x0041D
    vfault := 0
    lcy := lcyStart s c
    queue := []
    vfWrites := []
    frozen := false
    trap := none }
  let d := coreAt s c
  let s := setCore s c { d with ctxWait := d.ctxWait.filter (· != i) }
  setSlot s i { slotAt s i with vctx := some k }

/-- VACQ (R114, R427). -/
def execVacq (d a : GReg) (s : State) : Result :=
  if (me s).handler then privTrap s else
  withOps s [a] [] [d] fun vs s' =>
    if (me s).sup then retire1 s' d (status 1) else
    match (me s).vctx with
    | some k => retire1 s' d (BitVec.ofNat 64 k)
    | none =>
      match freeCtx s s.cur with
      | some k => retire1 (bindCtx s' s'.cur k) d (BitVec.ofNat 64 k)
      | none =>
        if bitOf (opnd vs 0) 0 then
          let x := coreAt s' (myCore s')
          retire1 (setCore s' (myCore s') { x with ctxWait := x.ctxWait.filter (· != s'.cur) }) d (status 1)
        else
          let s := park s .context
          let x := coreAt s (myCore s)
          .next (setCore s (myCore s) { x with
            ctxWait := if x.ctxWait.contains s.cur then x.ctxWait else x.ctxWait ++ [s.cur] })

/-- VREL (R115, R427). -/
def execVrel (s : State) : Result :=
  if (me s).handler then privTrap s else
  match myCtx s with
  | none => .next (advance s)
  | some k =>
    if (ctxAt s k).queue.isEmpty then .next (advance (unbindCtx s s.cur)) else .next (park s (.entry 0))

/-- BOOST (R116). -/
def execBoost (d a : GReg) (s : State) : Result :=
  match myCtx s with
  | none => .next (takeTrap s 13 0)
  | some k =>
    withOps s [a] [] [d] fun vs s' =>
      let y := ctxAt s' k
      let s' := setCtx s' k { y with allow := min (opnd vs 0).toNat 65535 }
      retire1 s' d (BitVec.ofNat 64 y.tokens)

/-- QBIND (R117). -/
def execQbind (d a b : GReg) (s : State) : Result :=
  withOps s [a, b] [] [d] fun vs s' =>
    let port := (opnd vs 0).toNat
    let code := (opnd vs 1).toNat
    if 7 < port ∨ 6 < code then .next (takeTrap s 21 0)
    else if (code = 5 ∨ code = 6) ∧ (me s).vctx.isNone then .next (takeTrap s 13 0)
    else
      let old := ((me s).qcode.toList.getD port 0).toNat
      let s' := writeG s' d (BitVec.ofNat 64 old)
      let codes : Vector (BitVec 3) 8 := Vector.ofFn fun n =>
        let c := (me s).qcode.toList.getD n.val 0
        if n.val = port then BitVec.ofNat 3 code else if c.toNat = code then 0 else c
      .next (advance (setMe s' { me s' with qcode := codes }))

/-! Dispatch (R92, R94, R105; 17 R447, R450). -/

/-- The local cycle of slot `n`'s next turn: its cluster's next cycle that is n modulo 16, one turn a slot in a cycle (R89, R91). -/
def turnTime (s : State) (n : Nat) : Nat :=
  let q := clusterAt s (coreCluster (slotCore n))
  let t := q.cycle + (n % 16 + 16 - q.cycle % 16) % 16
  if t = q.cycle ∧ q.turnAt = t ∧ n ≤ q.turnOf then t + 16 else t

/-- Time reaches cycle `t` of the full clock: no cluster's counter stands below it, and physical time is at least what that many
cycles take, 2,500 a microsecond (R9, R130; log 6). -/
def reachTime (s : State) (t : Nat) : State :=
  { s with now := max s.now (t / 2500), clusters := s.clusters.map fun (q, x) => (q, { x with cycle := max x.cycle t }) }

/-- Local time of cluster `q` moves on to cycle `t`. -/
def tickTo (s : State) (q t : Nat) : State := reachTime (setCluster s q { clusterAt s q with cycle := max (clusterAt s q).cycle t }) t

/-- Slot `n`'s turn comes: local time moves on to it (R89). -/
def takeTurn (s : State) (n : Nat) : State :=
  let q := clusterAt s (coreCluster (slotCore n))
  let t := turnTime s n
  reachTime (setCluster s (coreCluster (slotCore n)) { q with cycle := t, turnAt := t, turnOf := n }) t

/-- A task packet dispatched to slot `i`, behind an acquire at D, so that the task sees what its parent did before the `fork`; a
production's first task, number 0, sees what its launcher released at system scope (R94, R99, R109). -/
def dispatchTo (s : State) (i : Nat) (t : TaskPacket) : State :=
  let (cls, pat, scope) := match prodAt s t.prodid with
    | some p => (p.cls, p.patience, if t.taskid = 0 then .system else domainScope p.domain)
    | none => (0, 0, .core)
  let s := acquireAt s (slotCore i) scope
  setSlot s i { emptied (slotAt s i) with
    st := .ready
    pc := t.pc
    g := (Vector.replicate 32 (0 : Word)).set 3 t.arg
    handle := t.handle
    fmtp := t.fmtp
    sclp := t.sclp
    taskid := t.taskid
    prodid := t.prodid
    cls := cls
    patience := pat }

/-- The class of a production. -/
def prodClass (s : State) (n : Nat) : Nat :=
  match prodAt s n with
  | some p => p.cls.toNat
  | none => 4

/-- Whether production `n` is eligible on core `c` (R105). -/
def eligibleNo (s : State) (c n : Nat) : Bool :=
  match prodAt s n with
  | some p => eligible p c
  | none => false

/-- The first of a list in class order, by a class of each. -/
def byClass {α : Type} (cls : α → Nat) (l : List α) : Option α :=
  match l.find? fun x => cls x == 0 with
  | some x => some x
  | none => match l.find? fun x => cls x == 1 with
    | some x => some x
    | none => match l.find? fun x => cls x == 2 with
      | some x => some x
      | none => l.find? fun x => cls x == 3

/-- The eligible productions of core `c` in class order and then ascending number (R105). -/
def eligibles (s : State) (c : Nat) : List (Nat × Prod) :=
  let ps := s.prods.filter fun (_, p) => eligible p c
  (tab 4 0 fun k => ps.filter fun (_, p) => p.cls.toNat == k).flatten

/-- Step 2 of R105: a packet of the first production whose chain holds one. -/
def takeSpilled (s : State) (c : Nat) (ps : List (Nat × Prod)) : Option (TaskPacket × State) :=
  match ps with
  | [] => none
  | (_, p) :: t =>
    match spillTake chainFuel s c (spillOf p) with
    | some r => some r
    | none => takeSpilled s c t

/-- The victims of a steal by core `c`, in order (R105). -/
def victims (c domain : Nat) : List Nat :=
  let cl := (tab 4 (4 * (c / 4)) id).filter (· != c)
  let die := (tab 128 (128 * (c / 128)) id).filter fun x => x / 4 != c / 4
  let pk := (tab 1024 0 id).filter fun x => x / 128 != c / 128
  match domain with
  | 0 => []
  | 1 => cl
  | 2 => cl ++ die
  | _ => cl ++ die ++ pk

/-- Step 4 of R105: the oldest wings entry of a production from the first victim that holds one. -/
def takeStolen (s : State) (c : Nat) (ps : List (Nat × Prod)) : Option (TaskPacket × State) :=
  match ps with
  | [] => none
  | (n, p) :: t =>
    match (victims c p.domain).find? fun v => inSet p v && (coreAt s v).wings.any fun q => q.prodid == n with
    | some v =>
      let k := coreAt s v
      match k.wings.find? fun q => q.prodid == n with
      | some q => some (q, setCore s v { k with wings := k.wings.erase q })
      | none => takeStolen s c t
    | none => takeStolen s c t

/-- Whether a search comes, among the productions it goes through, to a chain with a region whose page migrates before one that holds a
packet: it waits there (R103, R346). -/
def spillWaits (s : State) (c : Nat) (ps : List (Nat × Prod)) : Bool :=
  match ps with
  | [] => false
  | (_, p) :: t =>
    (chainMigrates chainFuel s c (spillOf p)).isSome || ((spillTake chainFuel s c (spillOf p)).isNone && spillWaits s c t)

/-- The search of R105: the packet found, taken from where it lay. -/
def search (s : State) (c : Nat) : Option (TaskPacket × State) :=
  let k := coreAt s c
  match byClass (fun q => prodClass s q.prodid) (k.wings.reverse.filter fun q => eligibleNo s c q.prodid) with
  | some q => some (q, setCore s c { k with wings := (k.wings.reverse.erase q).reverse })
  | none =>
    let ps := eligibles s c
    if spillWaits s c ps then none else
    match takeSpilled s c ps with
    | some r => some r
    | none =>
      let d := dieAt s (coreDie c)
      match d.board.find? fun q => eligibleNo s c q.prodid with
      | some q => some (q, setDie s (coreDie c) { d with board := d.board.erase q })
      | none => takeStolen s c ps

/-- The saved task a free slot of core `c` takes first (R450). -/
def nextSaved (s : State) (c : Nat) : Option Saved :=
  let taken (q : Saved) : Bool := s.slots.any fun (j, x) => slotCore j == c && x.saved && x.prodid == q.prod && x.taskid == q.task
  byClass (fun q => prodClass s q.prod) ((coreAt s c).saved.filter fun q => eligibleNo s c q.prod && !taken q)

/-- A saved task taken by slot `i`: restored, or parked until its context is free; poison in its area kills the production
(R450, R452). While a page that it needs migrates, nothing happens (R346). -/
def takeSaved (s : State) (c i : Nat) (q : Saved) : State :=
  if restoreWaits s c q then s
  else if restorePoisoned s c q then killProd s q.prod 2
  else if restoreFree s c i q then restoreTask s c i q
  else
    let k := coreAt s c
    let s := setCore s c { k with ctxWait := if k.ctxWait.contains i then k.ctxWait else k.ctxWait ++ [i] }
    setSlot s i { slotAt s i with
      st := .parked .context, saved := true, prodid := q.prod, taskid := q.task, cls := q.cls,
      since := some (cycleOf s c), patience := 0 }

/-- A task held in place resumes on its slot (R447, R450). -/
def resumeHeld (s : State) (i : Nat) : State :=
  let x := slotAt s i
  let s := setSlot s i { x with
    st := match x.waiting with
      | .arrived h n _ => .parked (.curtain (BitVec.ofNat 64 ((if h = 16 then 2 ^ 15 else 0) + n)))
      | _ => .ready
    since := match x.waiting with
      | .arrived _ _ _ => some (cycleOf s (slotCore i))
      | _ => none }
  match ctxOf s i with
  | some k => setCtx s k { ctxAt s k with frozen := x.handler }
  | none => s

/-- DISPATCH: at its turn a free slot takes a saved task or the first packet it finds, and issues nothing in that turn; a task held
in place resumes at its slot's turn (R105, R450). -/
def execDispatch (c i : Nat) (s : State) : Result :=
  let n := 16 * c + i
  let x := slotAt s n
  if x.sup then .next s else
  match x.st with
  | .stopped (.held _) _ =>
    if eligibleNo s c x.prodid then .next (resumeHeld (tickTo s (coreCluster c) (turnTime s n)) n) else .next s
  | .free =>
    let s := takeTurn s n
    match nextSaved s c with
    | some q => .next (takeSaved s c n q)
    | none =>
      match search s c with
      | some (t, s) => .next (dispatchTo s n t)
      | none => .next s
  | _ => .next s

/-- Whether a free slot of core `c` would find work at its turn (R105, R450). -/
def anyTask (s : State) (c : Nat) : Bool := (nextSaved s c).isSome || (search s c).isSome

/-! Parked slots (R91, R123, R152, R346). -/

/-- A join whose word reads zero at a turn of its slot is served (R91, R97). -/
def joinRetest (s : State) (i : Nat) : State :=
  match (s.dies.map fun x => x.2.feWait).flatten.find? fun q => q.slot == i && q.kind == .join with
  | some q =>
    if feCond s q then feServe (setFeList s q.loc ((feList s q.loc).filter fun r => r.slot != i)) q else s
  | none => s

/-- Whether the condition a slot parked on holds, as far as it can be told without executing the instruction again. -/
def condHolds (s : State) (i : Nat) : Bool :=
  let x := slotAt s i
  let c := slotCore i
  match x.st with
  | .parked (.pending r) => !bitOf x.pend r
  | .parked (.port n) =>
    let r := greg (24 + n)
    let code := portCode x r
    if isPop code then !(queueItems s i code).isEmpty
    else decide ((queueItems s i code).length < queueDepth code) && !aimedAt s i r
  | .parked .vectorQueue => match ctxOf s i with
    | some k => decide ((ctxAt s k).queue.length < 16)
    | none => true
  | .parked .context =>
    if x.saved then false else (freeCtx s i).isSome
  | .parked (.counters l st cc t) =>
    (l == 15 || decide (x.outL ≤ l)) && (st == 15 || decide (x.outS ≤ st)) &&
    (cc == 15 || decide (x.outC ≤ cc)) && (t == 15 || decide (x.outT ≤ t))
  | .parked (.migrating _ u) => decide (u ≤ cycleOf s c)
  | .parked (.entry _) => true
  | _ => false

/-- A parked slot tests its condition again; where it holds the slot is ready at the same instruction (R91). -/
def retest (s : State) (i : Nat) : State :=
  let x := slotAt s i
  let c := slotCore i
  match x.st with
  | .parked (.join _) => joinRetest s i
  | .parked .context =>
    if x.saved then
      match awaited s c i with
      | none => setSlot s i (emptied x)
      | some q =>
        if !eligibleNo s c q.prod then setSlot s i (emptied x)
        else if restoreFree s c i q then takeSaved s c i q else s
    else if condHolds s i then setSlot s i { x with st := .ready } else s
  | .parked _ => if condHolds s i then setSlot s i { x with st := .ready } else s
  | _ => s

/-- PARKED_RETEST (R91). -/
def execParkedRetest (c i : Nat) (s : State) : Result := .next (retest s (16 * c + i))

/-- YIELD_END (R152). -/
def execYieldEnd (c i : Nat) (s : State) : Result :=
  let n := 16 * c + i
  match (slotAt s n).st with
  | .parked (.yieldUntil t) => if t ≤ cycleOf s c then .next (setSlot s n { slotAt s n with st := .ready }) else .next s
  | _ => .next s

/-- MIG_REWALK: after 256 local cycles the access walks again (R346). -/
def execMigRewalk (c i : Nat) (s : State) : Result :=
  let n := 16 * c + i
  match (slotAt s n).st with
  | .parked (.migrating _ _) => .next (retest s n)
  | _ => .next s

/-- What TRAPADDR holds in a patience trap. DESIGN CHOICE for the park reasons that R123's table does not list, a wait for a
release, a store buffer, an acquire, a retire or a tile-queue entry: the access's EA or the handle where the wait has one, else 0
(R123, R346; log 5). -/
def patienceAddr (x : Slot) (w : ParkWhy) : Word :=
  match w with
  | .pending r => look x.gea r 0
  | .port n => BitVec.ofNat 64 n
  | .fullEmpty ea => ea
  | .join ea => ea
  | .curtain n => n
  | .migrating ea _ => ea
  | .entry ea => ea
  | .vectorQueue | .context | .counters _ _ _ _ | .yieldUntil _ | .idle => 0

/-- Whether a slot's park is never timed: a yield, an idle, a restore (R152, R450). -/
def untimed (x : Slot) (w : ParkWhy) : Bool :=
  x.saved || (match w with
    | .yieldUntil _ => true
    | .idle => true
    | _ => false)

/-- The patience trap of slot `i`, where it is due (R123). -/
def patienceDue (s : State) (i : Nat) : State :=
  let x := slotAt s i
  match x.st, x.since with
  | .parked w, some t =>
    if x.patience = 0 ∨ untimed x w = true ∨ cycleOf s (slotCore i) < t + x.patience.toNat then s else
    takeTrapAt (withdraw s i) i 12 (patienceAddr x w) 0
  | _, _ => s

/-- PATIENCE_TRAP: the slot first tests its condition again (R123). -/
def execPatienceTrap (c i : Nat) (s : State) : Result :=
  let n := 16 * c + i
  let entry := match (slotAt s n).st with
    | .parked (.entry _) => true
    | _ => false
  if entry then .next (patienceDue s n) else .next (patienceDue (retest s n) n)

/-! The end of a production (R111, R163, R168, R313). -/

/-- Whether an operation of production `n` is outstanding at an engine or a port (R111). -/
def engineBusy (s : State) (n : Nat) : Bool :=
  (s.cores.any fun (_, k) => k.sgOps.any fun o => o.owner.prod == n) ||
  (s.door.colls.any fun q => q.owner.prod == n) ||
  ((doorWaits s).any fun w =>
    match w with
    | .msg o _ _ _ _ => o.prod == n
    | .store o _ => o.prod == n
    | _ => false)

/-- Whether production `n` has ended: no task, packet or engine operation of it is left (R111). -/
def prodOver (s : State) (n : Nat) (p : Prod) : Bool :=
  (prodSlots s n).isEmpty && !engineBusy s n &&
  (p.ending.isSome || (liveCount s n p == 0 && (chainMigrates chainFuel s p.core0 (spillOf p)).isNone))

/-- The context that an entry of `rowHold` belongs to, held by a `prow` or by a relay (R251, R273). -/
def holdCtx (h : Nat) : Nat := if 2 ^ 32 ≤ h then h - 2 ^ 32 else h / 2

/-- One core's part of a production's end. -/
def freeCore (s : State) (c n : Nat) : State :=
  let s := writeBackAll s c
  let k := coreAt s c
  let own := (tab 16 0 id).filter fun w => (wayAt k w).st == .compute && (wayAt k w).owner == n
  let gone := (tab 64 0 id).filter fun g => own.contains (g / 4) && bitOf k.marked g
  let mask := gone.foldl (fun (m : BitVec 64) g => m ||| BitVec.twoPow 64 g) 0
  setCore s c { k with
    ways := own.foldl (fun m w => put m w ⟨.cache, 0⟩) k.ways
    outGroups := k.outGroups ||| mask
    marked := k.marked &&& ~~~mask
    gran := ((scratchAt s c n).granules).foldl (fun m g => put m g .l1) k.gran
    scratch := k.scratch.filter fun e => e.1 != n
    rowHold := k.rowHold.filter fun h => ctxProd (holdCtx h) != n
    strips := k.strips.filter fun t => ctxProd t.ctx != n
    sfuVec := k.sfuVec.filter fun v => ctxProd v.ctx != n
    pins := k.pins.filter fun p => ctxProd p.ctx != n }

/-- Where DONE lies as a production ends. -/
inductive DonePlace where
  | at_ (l : Loc) (fe : Bool)
  | gone
  | migrating
  deriving DecidableEq, Repr

/-- DONE lies where `launch` found it, or, that translation invalidated since, where a walk from the same root finds it now. DESIGN
CHOICE: where its page no longer translates for a store, no DONE is written (R111, R344, R346; log 13). -/
def donePlace (s : State) (p : Prod) : DonePlace :=
  let va := p.doneEa.toNat % 2 ^ 56
  match p.done, p.donePage with
  | .scratch _ _ _, _ | .phys _, some _ => .at_ p.done p.doneFe
  | .phys _, none =>
    match walkLevel s 0 va (fld p.doneRoot 13 39 * 8192) 3 with
    | .page t =>
      let pa := tlbPhys t va
      if permits t.leaf needW false then .at_ (.phys pa) (bitOf t.leaf 9 && !isAperture pa) else .gone
    | .migrating _ => .migrating
    | .fail _ => .gone

/-- PRODUCTION_END: dirty lines go home, the resources are freed, DONE is written and the number is free; a page of DONE that migrates
is waited for (R111, R346). -/
def execProductionEnd (n : Nat) (s : State) : Result :=
  match prodAt s n with
  | none => .next s
  | some p =>
    if !prodOver s n p || donePlace s p == .migrating then .next s else
    let place := donePlace s p
    let s := (coreSet p.cores).foldl (fun s c => freeCore s c n) s
    let s := { s with
      ctxs := s.ctxs.filter fun e => ctxProd e.1 != n
      curtains := s.curtains.filter fun t => t.prod != n
      prods := s.prods.filter fun e => e.1 != n }
    match place with
    | .at_ l fe =>
      let s := writeDone s p.core0 n l (BitVec.ofNat 64 (2 ^ 63 + p.ending.getD 0 * 2 ^ 56 + n))
      if fe then
        let s := setFull s l true
        .next (feSettle s l ((feList s l).length + 1))
      else .next s
    | _ => .next s

end Sys2Proof.Machine
end

