-- ==== Sys2Proof/Machine/VectorInteger.lean ====
section
/-! DEFINITION. Elements of vector and mask registers, and what the integer, mask and lane-movement instructions of page 2
compute (06 R158; 07 R184 to R210). -/

namespace Sys2Proof.Machine

/-! Elements (R158, R185, R186). -/

/-- A register as read: its rows, and those of the register above it, which SEW 64 pairs with it (R158). -/
structure Src where
  lo : Array Row32
  hi : Array Row32

/-- Register `r` of a context. -/
def src (y : Ctx) (r : Nat) : Src := ⟨(look y.v r []).toArray, (look y.v (r + 1) []).toArray⟩

/-- Element `i` as its SEW low rows (R158, R186). -/
def Src.at (a : Src) (w i : Nat) : Nat :=
  if w = 64 then (a.lo.getD i 0).toNat + 2 ^ 32 * (a.hi.getD i 0).toNat else (a.lo.getD i 0).toNat % 2 ^ w

/-- Rows with elements lo to hi − 1 written where `vals` gives a value, in their low `w` bits (R158, R185). -/
def mergeRows (old : List Row32) (lo hi w : Nat) (vals : Array (Option Nat)) : List Row32 :=
  let a := old.toArray
  let keep : Row32 := BitVec.ofNat 32 (2 ^ 32 - 2 ^ min w 32)
  tab (max a.size hi) 0 fun i =>
    let x := a.getD i 0
    if i < lo ∨ hi ≤ i then x else
    match vals.getD (i - lo) none with
    | some v => (x &&& keep) ||| BitVec.ofNat 32 (v % 2 ^ min w 32)
    | none => x

/-- Elements lo to hi − 1 of register `r` written where `f` gives a value (R158, R185). -/
def putV (y : Ctx) (w r lo hi : Nat) (f : Nat → Option Nat) : Ctx :=
  let vals := (tab (hi - lo) lo f).toArray
  let y1 := { y with v := put y.v r (mergeRows (look y.v r []) lo hi w vals) }
  if w = 64 then
    { y1 with v := put y1.v (r + 1) (mergeRows (look y.v (r + 1) []) lo hi 32 (vals.map fun o => o.map (· / 2 ^ 32))) }
  else y1

/-- Bits lo to hi − 1 of mask register `r` written where `f` gives a value (R185, R196). -/
def putM (y : Ctx) (r lo hi : Nat) (f : Nat → Option Bool) : Ctx :=
  let a := maskBits y r
  { y with m := put y.m r (tab (max a.size hi) 0 fun i =>
      let b := a.getD i false
      if i < lo ∨ hi ≤ i then b else (f i).getD b) }

/-- Rows lo to hi − 1 of register `r` copied into a snapshot of registers. -/
def snapRow (m : Map (List Row32)) (y : Ctx) (r lo hi : Nat) : Map (List Row32) :=
  let a := (look y.v r []).toArray
  put m r (mergeRows (look m r []) lo hi 32 ((tab (hi - lo) lo fun i => some (a.getD i 0).toNat).toArray))

/-- Bits lo to hi − 1 of mask register `r` copied into a snapshot of masks. -/
def snapMask (m : Map (List Bool)) (y : Ctx) (r lo hi : Nat) : Map (List Bool) :=
  let a := maskBits y r
  let old := (look m r []).toArray
  put m r (tab (max old.size hi) 0 fun i => if i < lo ∨ hi ≤ i then old.getD i false else a.getD i false)

/-- The signed value of a pattern (R12). -/
def sInt (w x : Nat) : Int := if 2 ^ (w - 1) ≤ x then (x : Int) - 2 ^ w else x

/-- An integer modulo 2^w (R12). -/
def wrapTo (w : Nat) (v : Int) : Nat := (v % (2 ^ w : Nat)).toNat

/-- sat of R190. -/
def satTo (v lo hi : Int) : Int := if v < lo then lo else if hi < v then hi else v

/-! Element-wise instructions (R190 to R194). -/

/-- The source width `vsext` and `vzext` code (R180). -/
def extWidth (code : Nat) : Nat := 2 ^ code

/-- d[i] of the element-wise integer instructions: `w` is SEW, x and z the operands with a scalar one truncated, d the old
element, i the index and n the coded constant (R190 to R194). -/
def intOp (op : VOp) (w n i x z d : Nat) : Nat :=
  let m := 2 ^ w
  let sh := z % w
  match op with
  | .vadd | .vaddS => (x + z) % m
  | .vsub | .vsubS => wrapTo w ((x : Int) - z)
  | .vrsubS => wrapTo w ((z : Int) - x)
  | .vand | .vandS => x &&& z
  | .vor | .vorS => x ||| z
  | .vxor | .vxorS => x ^^^ z
  | .vandn => x &&& (m - 1 - z)
  | .vmin | .vminS => if sInt w z < sInt w x then z else x
  | .vmax | .vmaxS => if sInt w x < sInt w z then z else x
  | .vminu => min x z
  | .vmaxu => max x z
  | .vmul | .vmulS => x * z % m
  | .vmulh => wrapTo w (sInt w x * sInt w z / (m : Nat))
  | .vmulhu => x * z / m
  | .vsll | .vsllS => x <<< sh % m
  | .vsrl | .vsrlS => x >>> sh
  | .vsra | .vsraS => wrapTo w (sInt w x / (2 ^ sh : Nat))
  | .vsadd => wrapTo w (satTo (sInt w x + sInt w z) (-(2 ^ (w - 1) : Nat)) ((2 ^ (w - 1) : Nat) - 1))
  | .vssub => wrapTo w (satTo (sInt w x - sInt w z) (-(2 ^ (w - 1) : Nat)) ((2 ^ (w - 1) : Nat) - 1))
  | .vsaddu => min (x + z) (m - 1)
  | .vssubu => x - z
  | .vmacc => (d + x * z) % m
  | .vnmsac => wrapTo w ((d : Int) - x * z)
  | .vneg => wrapTo w (-(x : Int))
  | .vabs => wrapTo w (if sInt w x < 0 then -(sInt w x) else sInt w x)
  | .vnot => m - 1 - x
  | .vpopc => popNat w x % m
  | .vclz => clzNat w x % m
  | .vctz => ctzNat w 0 x % m
  | .vsext => wrapTo w (sInt (extWidth n) (x % 2 ^ extWidth n))
  | .vzext => x % 2 ^ extWidth n
  | .vmvS => z
  | .vid => i % m
  | _ => x

/-- The relation of a compare (R196). -/
def intRel (op : VOp) (w x z : Nat) : Bool :=
  match op with
  | .vceq | .vceqS => x == z
  | .vcne => x != z
  | .vclt | .vcltS => decide (sInt w x < sInt w z)
  | .vcltu => decide (x < z)
  | .vcle => decide (sInt w x ≤ sInt w z)
  | _ => decide (x ≤ z)

/-- The mask algebra (R197). -/
def maskOp (op : VOp) (a b : Bool) : Bool :=
  match op with
  | .mand => a && b
  | .mor => a || b
  | .mxor => a != b
  | .mandn => a && !b
  | .mnot => !a
  | .mmv => a
  | .mset => true
  | _ => false

/-- Whether b names a g register whose value stands for every element. -/
def scalarB (op : VOp) : Bool :=
  match op with
  | .vaddS | .vsubS | .vrsubS | .vandS | .vorS | .vxorS | .vminS | .vmaxS | .vsllS | .vsrlS | .vsraS | .vmulS | .vceqS | .vcltS =>
    true
  | _ => false

/-- Elements lo to hi − 1 of an element-wise page 2 instruction (R188 to R197). -/
def laneInt (y : Ctx) (e : QEntry) (lo hi : Nat) : Ctx :=
  let w := vtSew e.vtype
  let a := src y e.f.a.toNat
  let b := src y e.f.b.toNat
  let d := src y e.f.d.toNat
  let m := maskBits y e.f.k.reg.toNat
  let act (i : Nat) : Bool := predicate m e.f.k i
  let z (i : Nat) : Nat := if scalarB e.op then e.gb.toNat % 2 ^ w else if e.op = .vmvS then e.ga.toNat % 2 ^ w else b.at w i
  match e.op with
  | .vsel => putV y w e.f.d.toNat lo hi fun i => some (if m.getD i false != e.f.k.inv then a.at w i else b.at w i)
  | .vceq | .vcne | .vclt | .vcltu | .vcle | .vcleu | .vceqS | .vcltS =>
    putM y e.f.d.toNat lo hi fun i => if act i then some (intRel e.op w (a.at w i) (z i)) else none
  | .mand | .mor | .mxor | .mandn | .mnot | .mmv | .mset | .mclr =>
    let p := maskBits y e.f.a.toNat
    let q := maskBits y e.f.b.toNat
    putM y e.f.d.toNat lo hi fun i => some (maskOp e.op (p.getD i false) (q.getD i false))
  | op => putV y w e.f.d.toNat lo hi fun i =>
      if act i then some (intOp op w e.f.b.toNat i (a.at w i) (z i) (d.at w i)) else none

/-! The column step's latches and hidden row (R242, R244 to R246). -/

/-- What a column of a way holds as its instruction's steps go by: latches C, M and F, hidden row H0, and the rows written so far, of
the destination or, bit 0, of the mask row. -/
structure Column where
  c : Bool
  m : Bool
  f : Bool
  h : Bool
  d : Nat
  deriving DecidableEq, Repr

/-- Bit `k` of a value. -/
def bitAt (x k : Nat) : Bool := x / 2 ^ k % 2 == 1

/-- Row `k` of what a column writes; only a column whose T is set writes (R242). -/
def Column.row (x : Column) (t : Bool) (k : Nat) (b : Bool) : Column :=
  if t then { x with d := x.d - x.d / 2 ^ k % 2 * 2 ^ k + (if b then 2 ^ k else 0) } else x

/-- Two of three bits. -/
def majority (a b c : Bool) : Bool := (a && b) || (a && c) || (b && c)

/-- The partial product and the bit of it that step `k` of a multiplication of width `w` is for (R246). -/
def mulPlace (fuel w j k : Nat) : Nat × Nat :=
  match fuel with
  | 0 => (j, 0)
  | fuel + 1 => if k < w - j then (j, k) else mulPlace fuel w (j + 1) (k - (w - j))

/-- The instructions whose steps chapter 09 spells out (R244 to R246). -/
def hasSteps (op : VOp) : Bool := op == .vadd || op == .vsub || op == .vclt || op == .vceq || op == .vmul

/-- A column before step 0: C is 0, 1 for a subtraction, and F is 0 for a compare (R244, R245). -/
def startColumn (op : VOp) (x : Column) : Column :=
  match op with
  | .vadd => { x with c := false }
  | .vsub => { x with c := true }
  | .vclt | .vceq => { x with c := false, f := false }
  | _ => x

/-- Step `k` of an instruction of width `w` in a column that holds `x`, its operands `a` and `b`, its T `t` (R242, R244 to R246). -/
def columnStep (op : VOp) (w a b : Nat) (t : Bool) (x : Column) (k : Nat) : Column :=
  let p := bitAt a k
  let q := if op = .vsub then !bitAt b k else bitAt b k
  match op with
  | .vadd | .vsub =>
    if k < w then { x.row t k ((p != q) != x.c) with c := majority p q x.c }
    else if t then { x with h := x.c } else x
  | .vclt =>
    if k < w then { x with
      c := majority (!p) q x.c
      f := if k + 1 = w then (if p != q then p else x.c) else x.f }
    else x.row t 0 x.f
  | .vceq =>
    if k < w then { x with c := majority (!p) q x.c, f := x.f || p != q } else x.row t 0 !x.f
  | .vmul =>
    let (j, i) := mulPlace w w 0 k
    let m := if i = 0 then bitAt b j else x.m
    let g := bitAt a i && m
    if j = 0 then { x.row t i g with m := m } else
    let c := if i = 0 then false else x.c
    let old := bitAt x.d (i + j)
    { x.row t (i + j) ((old != g) != c) with m := m, c := majority old g c }
  | _ => x

/-- A column after the first `n` steps of an instruction (R244 to R246). -/
def columnAfter (op : VOp) (w a b : Nat) (t : Bool) (x : Column) (n : Nat) : Column :=
  (tab n 0 id).foldl (columnStep op w a b t) (startColumn op x)

/-- Steps of the instructions that chapter 09 spells out (R244 to R246). -/
def tableSteps (op : VOp) (w : Nat) : Nat := if op = .vmul then w * (w + 1) / 2 else w + 1

/-- The context with the latches of way `way` as a strip over its elements first to hi − 1 leaves them, `lo` to `top` − 1 of them to
process: T is an element's activity; C, M, F and H0 are as the instruction's steps leave them, and free values where the spec
gives no steps (R242, R244 to R246; log 6). -/
def setLatches (y : Ctx) (x : Nat) (e : QEntry) (way first hi lo top : Nat) : Ctx :=
  let k := if e.op = .vsel ∨ e.op = .vtopk then VMask.all else e.f.k
  let mask := maskBits y k.reg.toNat
  let t := tab (hi - first) first fun i => decide (lo ≤ i) && decide (i < top) && predicate mask k i
  let w := vtSew e.vtype
  let a := src y e.f.a.toNat
  let b := src y e.f.b.toNat
  let at_ (n i : Nat) : Bool := (look y.latch (4 * way + n) []).getD i false
  let hidden := look y.hidden way []
  let column (i : Nat) : Column :=
    if hasSteps e.op then
      columnAfter e.op w (a.at w (first + i)) (b.at w (first + i)) (t.getD i false)
        ⟨at_ 0 i, at_ 1 i, at_ 2 i, hidden.getD i false, 0⟩ (tableSteps e.op w)
    else
      let free (n : Nat) : Bool := Config.columnBit x e.seq way n i
      ⟨free 0, free 1, free 2, free 3, 0⟩
  let cs := tab (hi - first) 0 column
  { y with
    latch := put (put (put (put y.latch (4 * way) (cs.map (·.c))) (4 * way + 1) (cs.map (·.m))) (4 * way + 2) (cs.map (·.f)))
      (4 * way + 3) t
    hidden := put y.hidden way (cs.map (·.h)) }

/-! Cross-element instructions (R198 to R210). -/

/-- The elements an instruction processes: VSTART to VL − 1 (R176). -/
def entryRange (e : QEntry) : List Nat := tab (e.vl - e.start) e.start id

/-- The active elements of an entry (R185). -/
def actives (y : Ctx) (e : QEntry) : List Nat :=
  let m := maskBits y e.f.k.reg.toNat
  (entryRange e).filter fun i => predicate m e.f.k i

/-- The distance of a slide (R200). -/
def slideBy (e : QEntry) : Nat :=
  match e.op with
  | .vslideup | .vslidedn => e.f.b.toNat + 1
  | _ => e.gb.toNat

/-- The running count of selected elements below each (R202). -/
def ranks (sel : List Nat) (n : Nat) : List (Nat × Nat) :=
  match sel with
  | [] => []
  | i :: t => (i, n) :: ranks t (n + 1)

/-- The element faults of an index beyond its range (R203 to R205). -/
def indexFaults (l : List Nat) : List ElemFault := l.map fun i => ⟨i, 17, 0⟩

/-- The register and element `vgath8` gathers, where its index names one (R204). -/
def gath8At (w vl a idx : Nat) : Option (Nat × Nat) :=
  let r := idx / vl
  let reg := if w = 64 then a + 2 * r else a + r
  if r ≤ 7 ∧ reg ≤ 31 then some (reg, idx % vl) else none

/-- The link of `vconflict`: for each active element, in descending order so far, the greatest earlier one with its value
(R206). -/
def conflictLinks (a : Src) (w : Nat) (seen : List (Nat × Nat)) (is : List Nat) : List (Nat × Nat) :=
  match is with
  | [] => []
  | i :: t =>
    let x := a.at w i
    let l := match seen.find? fun p => p.1 == x with
      | some p => p.2 % 2 ^ w
      | none => 2 ^ w - 1
    (i, l) :: conflictLinks a w ((x, i) :: seen) t

/-- A table of pairs as a function over the range. -/
def pairsOf (lo hi : Nat) (l : List (Nat × Nat)) : Array (Option Nat) :=
  l.foldl (fun a p => a.setIfInBounds (p.1 - lo) (some p.2)) (Array.replicate (hi - lo) none)

/-- Elements written from a list of pairs. -/
def putPairs (y : Ctx) (w r lo hi : Nat) (l : List (Nat × Nat)) : Ctx :=
  let t := pairsOf lo hi l
  putV y w r lo hi fun i => t.getD (i - lo) none

/-- C of R209 on 64-bit values. -/
def redOp (op : VOp) (acc e : Word) : Word :=
  match op with
  | .vredmax => if acc.slt e then e else acc
  | .vredmin => if e.slt acc then e else acc
  | .vredmaxu => if acc.ult e then e else acc
  | .vredminu => if e.ult acc then e else acc
  | .vredand => acc &&& e
  | .vredor => acc ||| e
  | .vredxor => acc ^^^ e
  | _ => acc + e

/-- E of R209: whether an element is widened as signed (R209, R210). -/
def redSigned (op : VOp) (t : BitVec 20) : Bool :=
  match op with
  | .vredsum => vtFmt t == 0
  | .vredmax | .vredmin => true
  | _ => false

/-- An integer reduction (R209). -/
def reduce (y : Ctx) (e : QEntry) : Word :=
  let w := vtSew e.vtype
  let a := src y e.f.a.toNat
  let s := redSigned e.op e.vtype
  (actives y e).foldl (fun acc i =>
    let x := a.at w i
    redOp e.op acc (if s then BitVec.ofInt 64 (sInt w x) else BitVec.ofNat 64 x)) e.gb

/-- A cross-element page 2 instruction over the whole of its range: the context after it, its scalar result and its element
faults (R184, R198 to R210). -/
def crossInt (y : Ctx) (e : QEntry) : Ctx × Option Word × List ElemFault :=
  let w := vtSew e.vtype
  let lo := e.start
  let hi := e.vl
  let a := src y e.f.a.toNat
  let b := src y e.f.b.toNat
  let m := maskBits y e.f.k.reg.toNat
  let p := maskBits y e.f.a.toNat
  let act (i : Nat) : Bool := predicate m e.f.k i
  let on := actives y e
  let dn := e.f.d.toNat
  match e.op with
  | .mpopc => (y, some (BitVec.ofNat 64 (on.filter fun i => p.getD i false).length), [])
  | .mfirst =>
    (y, some (match on.find? fun i => p.getD i false with
      | some i => BitVec.ofNat 64 i
      | none => -1), [])
  | .vprobe =>
    (y, some (match on.find? fun i => a.at w i == e.gb.toNat % 2 ^ w with
      | some i => BitVec.ofNat 64 i
      | none => -1), [])
  | .msbf | .msif =>
    let f := match on.find? fun i => p.getD i false with
      | some i => if e.op = .msbf then i else i + 1
      | none => hi
    (putM y dn lo hi fun i => if act i then some (decide (i < f)) else none, none, [])
  | .vslideup | .vslideupS =>
    let n := slideBy e
    (putV y w dn lo hi fun i => if act i && decide (n ≤ i) then some (a.at w (i - n)) else none, none, [])
  | .vslidedn | .vslidednS =>
    let n := slideBy e
    (putV y w dn lo hi fun i => if act i then some (if i + n < hi then a.at w (i + n) else 0) else none, none, [])
  | .vxchg =>
    (putV y w dn lo hi fun i => if act i then
      let j := i ^^^ e.gb.toNat
      some (if j < hi then a.at w j else 0) else none, none, [])
  | .vcompress => (putPairs y w dn lo hi ((ranks on 0).map fun q => (lo + q.2, a.at w q.1)), none, [])
  | .vexpand => (putPairs y w dn lo hi ((ranks on 0).map fun q => (q.1, a.at w (lo + q.2))), none, [])
  | .vperm =>
    (putV y w dn lo hi fun i => if act i && decide (b.at w i < hi) then some (a.at w (b.at w i)) else none, none,
      indexFaults (on.filter fun i => decide (hi ≤ b.at w i)))
  | .vgath8 =>
    let regs := (tab 32 0 fun r => src y r).toArray
    let rd (i : Nat) : Option Nat := (gath8At w hi e.f.a.toNat (b.at w i)).map fun q =>
      match regs[q.1]? with
      | some r => r.at w q.2
      | none => 0
    (putV y w dn lo hi fun i => if act i then rd i else none, none, indexFaults (on.filter fun i => (rd i).isNone))
  | .vconflict => (putPairs y w dn lo hi (conflictLinks a w [] on), none, [])
  | .vmatch =>
    let keys := tab e.gc.toNat 0 fun j => b.at w j
    (putM y dn lo hi fun i => if act i then some (keys.contains (a.at w i)) else none, none, [])
  | _ => (y, some (reduce y e), [])

end Sys2Proof.Machine
end

