-- ==== Sys2Proof/Machine/VectorFloat.lean ====
section
/-! DEFINITION. What the page 3 instructions compute: vector floating arithmetic, conversion, quantisation, reduction and the
hook-aware instructions, and the slot's own binary64 arithmetic (08 R213 to R237). -/

namespace Sys2Proof.Machine

/-! Reading elements (R213, R214). -/

/-- The float format of a code, binary32 for a code that names none. -/
def fmtOf (code : Nat) : FloatFmt := (floatFmt code).getD fp32

/-- Width in bits of the float format of a code. -/
def codeWidth (code : Nat) : Nat := fmtWidth (fmtOf code)

/-- The scale word in the companion rows of element `i` (R214). -/
def scaleAt (a : Src) (w i : Nat) : Nat := (a.lo.getD i 0).toNat / 2 ^ w % 65536

/-- The value of element `i` under a VTYPE, its block's scale applied (R213, R214). -/
def elemNum (t : BitVec 20) (a : Src) (i : Nat) : Num :=
  match blockFmt (vtFmt t) with
  | some b => decBlock b (a.at (vtSew t) i) (scaleAt a (vtSew t) i)
  | none => decNum (fmtOf (vtFmt t)) (a.at (vtSew t) i)

/-- Whether an instruction computes in FP64: its operands or its result are (R76). -/
def isWide (e : QEntry) : Bool :=
  vtFmt e.vtype == 4 ||
  (match e.op with
   | .vfcvt | .vi2f => fld e.gb 0 4 == 4
   | _ => false)

/-- The rounding an instruction runs under (R76). -/
def entryRounding (e : QEntry) : Rounding := vectorRounding e.vtype (e.op != .vsfu && isWide e)

/-! Element-wise arithmetic (R216 to R222, R233, R235). -/

/-- What one element gives: a pattern to write, flags, and whether it is a hook that faults. -/
structure LaneOut where
  val   : Option Nat
  flags : BitVec 6
  fault : Bool

/-- The exact result of an arithmetic instruction (R216). -/
def arithNum (op : VOp) (m : RMode) (x y z : Num) : Num × BitVec 6 :=
  match op with
  | .vfadd | .vfaddS => addNum m x y
  | .vfsub | .vfsubS => addNum m x (negNum y)
  | .vfrsubS => addNum m y (negNum x)
  | .vfmul | .vfmulS => mulNum x y
  | .vfdiv => divNum x y
  | .vfsqrt => sqrtNum x
  | .vfma => fmaNum m x y z
  | .vfms => fmaNum m x y (negNum z)
  | .vfnma => fmaNum m (negNum x) y (negNum z)
  | .vfnms => fmaNum m (negNum x) y z
  | _ => (x, 0)

/-- The pattern of the smaller or larger operand (R217). -/
def minMaxPat (f : FloatFmt) (big : Bool) (px pz : Nat) (x z : Num) : Nat × BitVec 6 :=
  let fl := flagIf (isSig x || isSig z) flagNV
  if isNan x && isNan z then (fmtNan f, fl)
  else if isNan x then (pz, fl)
  else if isNan z then (px, fl)
  else (if pickFirst big x z then px else pz, fl)

/-- The relation of a floating compare, and its flags (R221). -/
def floatRel (op : VOp) (x z : Num) : Bool × BitVec 6 :=
  let sig := flagIf (isSig x || isSig z) flagNV
  let any := flagIf (isNan x || isNan z) flagNV
  match op with
  | .vfceq => (eqNum x z, sig)
  | .vfclt => (ltNum x z, any)
  | .vfcle => (ltNum x z || eqNum x z, any)
  | _ => (isNan x || isNan z, sig)

/-- Whether x ≥ m × 2^e, for a number that is no NaN. -/
def geNum (x : Num) (m : Nat) (e : Int) : Bool := !ltNum x (.fin false m e)

/-- x > 88.72284, the bound of R233, for a number that is no NaN. -/
def aboveExp (x : Num) : Bool := ltNum (.fin false 8872284 0) (mulNum x (.fin false 100000 0)).1

/-- The special-function unit's value of function `f` at an FP32 pattern, and the flags R233 names; where R233 states no exact
value, the unit's free value within its bound, with NX (log 9). -/
def sfuOf (f : Nat) (p : BitVec 32) : Nat × BitVec 6 :=
  let x := decNum fp32 p.toNat
  let zero := isZeroNum x
  let neg := signOf x
  let inf (n : Bool) : Nat := withSign fp32 n (fmtInfPat fp32)
  let one : Nat := 0x3F800000
  let free := ((sfuFree f p).toNat, flagNX)
  let below0 := !zero && neg
  if isNan x then (fmtNan fp32, flagIf (isSig x) flagNV) else
  match f with
  | 0 => if zero then (inf neg, flagDZ) else if isInf x then (withSign fp32 neg 0, 0) else free
  | 1 => if zero then (inf neg, flagDZ) else if below0 then (fmtNan fp32, flagNV) else if isInf x then (0, 0) else free
  | 2 | 3 =>
    if isInf x then (if neg then (0, 0) else (inf false, flagOF))
    else if (f == 2 && geNum x 1 7) || (f == 3 && aboveExp x) then (inf false, flagOF ||| flagNX) else free
  | 4 | 5 =>
    if zero then (inf true, flagDZ) else if below0 then (fmtNan fp32, flagNV)
    else if isInf x then free
    else if p.toNat = one then (0, 0) else free
  | 6 => if isInf x then (fmtNan fp32, flagNV) else if zero then (p.toNat, 0) else free
  | 7 => if isInf x then (fmtNan fp32, flagNV) else free
  | 9 => if isInf x then (if neg then 0 else one, 0) else free
  | _ => if isInf x then (withSign fp32 neg one, 0) else free

/-- An element of `vsfu`: narrowed to binary32, beyond whose range every mode gives an infinity, then flushed under FTZ; the unit's
value, encoded into FMT (R77, R233). -/
def sfuElem (e : QEntry) (c : Rounding) (x : Num) (st : NumSt) : Nat × NumSt :=
  let f := fmtOf (vtFmt e.vtype)
  let narrow : Rounding := { c with mode := noSr c.mode, ftz := false, sat := false }
  let beyond : Bool := !isInf x && bitOf (encNum fp32 narrow x ⟨0, 1⟩).2.flags 2
  let (p, st) := if vtFmt e.vtype = 4 then
      let (p, st) := encNum fp32 narrow x st
      (if beyond then withSign fp32 (p ≥ 2 ^ 31) (fmtInfPat fp32) else p, st)
    else ((encNum fp32 { narrow with mode := .rne } x ⟨0, 1⟩).1, if isSig x then raiseN st flagNV else st)
  let q := flushNum c (decNum fp32 p)
  let pat := match q with
    | .fin n 0 _ => withSign fp32 n 0
    | _ => p
  let (v, fl) := sfuOf (e.gb.toNat) (BitVec.ofNat 32 pat)
  let (r, st) := encNum f c (decNum fp32 v) (raiseN st fl)
  (r, st)

/-- One active element of an element-wise page 3 instruction that writes v registers (R216 to R222, R227, R233, R235): its
patterns, its values, and its index. -/
def floatElem (e : QEntry) (c : Rounding) (i : Nat) (px pz : Nat) (x z u : Num) : LaneOut :=
  let f := fmtOf (vtFmt e.vtype)
  let w := vtSew e.vtype
  let top := 2 ^ (w - 1)
  let st := numSt e.seed i
  let done (r : Nat × NumSt) : LaneOut := ⟨some r.1, r.2.flags, false⟩
  match e.op with
  | .vfmin => let r := minMaxPat f false px pz x z; ⟨some r.1, r.2, false⟩
  | .vfmax => let r := minMaxPat f true px pz x z; ⟨some r.1, r.2, false⟩
  | .vfsgnj => ⟨some (px % top + pz / top * top), 0, false⟩
  | .vfabs => ⟨some (px % top), 0, false⟩
  | .vfneg => ⟨some (px ^^^ top), 0, false⟩
  | .vfclass => ⟨some (classOf f px), 0, false⟩
  | .vfround =>
    let (r, st) := integralNum c.mode x st
    done (encNum f { c with ftz := false } r st)
  | .vfcvt => done (encNum (fmtOf (fld e.gb 0 4)) c x st)
  | .vf2i => done (toIntNum (2 ^ fld e.gb 0 3) (!bitOf e.gb 3) c.mode x st)
  | .vf2iT => done (toIntNum (2 ^ fld e.gb 0 3) (!bitOf e.gb 3) .rtz x st)
  | .vi2f => done (encNum (fmtOf (fld e.gb 0 4)) c (numOfInt (if vtFmt e.vtype = 0 then sInt w px else (px : Int))) st)
  | .vqunpack => done (encNum (fmtOf (fld e.gb 0 4)) c x st)
  | .vsfu => done (sfuElem e c x st)
  | .vhksel => ⟨some (if isHook px then pz else px), 0, false⟩
  | op =>
    let (r, fl) := arithNum op c.mode x z u
    done (encNum f c r (raiseN st fl))

/-- Width of the destination's elements (R222, R227). -/
def destWidth (op : VOp) (t : BitVec 20) (gb : Word) : Nat :=
  match op with
  | .vfcvt | .vi2f | .vqunpack => codeWidth (fld gb 0 4)
  | .vf2i | .vf2iT => 2 ^ fld gb 0 3
  | _ => vtSew t

/-- How many v sources the element-wise instruction reads, a first (R211). -/
def floatSources (op : VOp) : Nat :=
  match op with
  | .vfadd | .vfsub | .vfmul | .vfdiv | .vfmin | .vfmax | .vfsgnj | .vfceq | .vfclt | .vfcle | .vfcun | .vhksel => 2
  | .vfma | .vfms | .vfnma | .vfnms => 3
  | _ => 1

/-- The outcome of a strip's elements: the context, flags and element faults. -/
structure LaneEffect where
  ctx    : Ctx
  flags  : BitVec 6
  faults : List ElemFault

/-- Elements lo to hi − 1 of an element-wise page 3 instruction (R213, R216 to R222, R227, R233, R235). -/
def laneFloat (y : Ctx) (e : QEntry) (lo hi : Nat) : LaneEffect :=
  let t := e.vtype
  let w := vtSew t
  let c := entryRounding e
  let a := src y e.f.a.toNat
  let b := src y e.f.b.toNat
  let g := src y e.f.c.toNat
  let m := maskBits y e.f.k.reg.toNat
  let n := floatSources e.op
  let gy := flushNum c (decNum fp64 e.gb.toNat)
  let scalar := n = 1
  let one (i : Nat) : LaneOut :=
    if i < firstElem e || !predicate m e.f.k i then ⟨none, 0, false⟩ else
    let px := a.at w i
    let pz := if scalar then 0 else b.at w i
    let pu := if n = 3 then g.at w i else 0
    if hooksFault e && (isHook px || (n != 1 && isHook pz) || (n == 3 && isHook pu)) then ⟨none, 0, true⟩ else
    let val (s : Src) : Num := if e.op = .vsfu then elemNum t s i else flushNum c (elemNum t s i)
    floatElem e c i px pz (val a) (if scalar then gy else val b) (if n = 3 then val g else .nan false)
  let outs := (tab (hi - lo) lo one).toArray
  let out (i : Nat) : LaneOut := outs.getD (i - lo) ⟨none, 0, false⟩
  ⟨putV y (destWidth e.op t e.gb) e.f.d.toNat lo hi fun i => (out i).val,
   outs.foldl (fun f o => f ||| o.flags) 0,
   (tab (hi - lo) lo id).filterMap fun i => if (out i).fault then some ⟨i, 16, 0⟩ else none⟩

/-- Elements lo to hi − 1 of a floating compare or `vhktest` (R221, R235). -/
def laneCompare (y : Ctx) (e : QEntry) (lo hi : Nat) : LaneEffect :=
  let t := e.vtype
  let w := vtSew t
  let c := entryRounding e
  let a := src y e.f.a.toNat
  let b := src y e.f.b.toNat
  let m := maskBits y e.f.k.reg.toNat
  let one (i : Nat) : Option (Bool × BitVec 6 × Bool) :=
    if !predicate m e.f.k i then none else
    let px := a.at w i
    if e.op = .vhktest then some (isHook px, 0, false)
    else if hooksFault e && (isHook px || isHook (b.at w i)) then some (false, 0, true)
    else
      let r := floatRel e.op (flushNum c (elemNum t a i)) (flushNum c (elemNum t b i))
      some (r.1, r.2, false)
  let outs := (tab (hi - lo) lo one).toArray
  let out (i : Nat) : Option (Bool × BitVec 6 × Bool) := outs.getD (i - lo) none
  ⟨putM y e.f.d.toNat lo hi fun i => match out i with
    | some (v, _, false) => some v
    | _ => none,
   outs.foldl (fun f o => match o with
    | some (_, g, _) => f ||| g
    | none => f) 0,
   (tab (hi - lo) lo id).filterMap fun i => match out i with
    | some (_, _, true) => some ⟨i, 16, 0⟩
    | _ => none⟩

/-! Quantisation and the Hadamard rotation (R215, R226 to R229, R232). -/

/-- The starts of the units with elements in [lo, hi), `lo` a unit's start (R215, R227). -/
def unitStarts (l lo hi : Nat) : List Nat :=
  let a := roundUp lo l
  tab ((hi - a + l - 1) / l) 0 fun n => a + n * l

/-- Companion rows of elements lo to hi − 1 written with a scale word: both bytes for BX, X for MX (R214). -/
def putScale (y : Ctx) (w r : Nat) (mx : Bool) (lo hi : Nat) (word : Nat) : Ctx :=
  let old := (look y.v r []).toArray
  let bits := if mx then 8 else 16
  let keep : Row32 := BitVec.ofNat 32 (2 ^ 32 - 1 - (2 ^ bits - 1) * 2 ^ w)
  { y with v := put y.v r (tab (max old.size hi) 0 fun i =>
      let x := old.getD i 0
      if i < lo ∨ hi ≤ i then x else (x &&& keep) ||| BitVec.ofNat 32 (word % 2 ^ bits * 2 ^ w)) }

/-- What quantising has gathered for the card: the largest finite magnitude encoded and the saturated elements (R229). -/
structure CardSum where
  amax : Num
  sat  : Nat

/-- One block of `vqscale` or `vqpack` (R227). DESIGN CHOICE: a BX block that holds an infinity and takes its scale word from
memory or vD becomes a NaN block with NV, as R83 has it, rather than saturating with OF as R84 with R75 would (log 15). -/
def quantBlock (e : QEntry) (b : BlockFmt) (offset : Int) (y : Ctx) (b0 l : Nat) : LaneEffect × CardSum :=
  let c := entryRounding e
  let w := vtSew e.vtype
  let code := fld e.gb 0 4
  let a := src y e.f.a.toNat
  let dn := e.f.d.toNat
  let is := tab l b0 id
  let pats := is.map (a.at (codeWidth code))
  let hooks := if code = 3 then is.filter fun i => isHook (a.at 32 i) else []
  if !hooks.isEmpty then (⟨y, 0, hooks.map fun i => ⟨i, 16, 0⟩⟩, ⟨.fin false 0 0, 0⟩) else
  let xs := pats.map fun p => flushNum c (decNum (fmtOf code) p)
  let adapt := e.op == .vqpack && bitOf e.gb 5
  let own := scaleBlock b (vtGap e.vtype) xs
  let old := scaleAt (src y dn) w b0
  let (word, fl) :=
    if e.op = .vqscale ∨ (adapt = false ∧ bitOf e.gb 4 = true) then own
    else if adapt then (scaleFromCard b (vtGap e.vtype) offset xs, 0)
    else (old, 0)
  if e.op = .vqscale then (⟨putScale y w dn (isMx b) b0 (b0 + l) word, fl, []⟩, ⟨.fin false 0 0, 0⟩) else
  let (codes, n, f2) := encBlock b c.mode word e.seed b0 xs
  let special := anySpecial xs
  let word := if special then (if isMx b then 0xFF else 0xFFFF) else word
  let arr := codes.toArray
  let y := putV y w dn b0 (b0 + l) fun i => some (arr.getD (i - b0) 0)
  (⟨putScale y w dn (isMx b) b0 (b0 + l) word, fl ||| f2, []⟩,
   if special then ⟨.fin false 0 0, 0⟩ else ⟨maxMag xs, n⟩)

/-- The blocks of a strip of `vqscale` or `vqpack`, in order (R227, R229). -/
def quantBlocks (e : QEntry) (b : BlockFmt) (offset : Int) (l : Nat) (y : Ctx) (starts : List Nat) : LaneEffect × CardSum :=
  match starts with
  | [] => (⟨y, 0, []⟩, ⟨.fin false 0 0, 0⟩)
  | b0 :: t =>
    let (o, s) := quantBlock e b offset y b0 l
    let (o', s') := quantBlocks e b offset l o.ctx t
    (⟨o'.ctx, o.flags ||| o'.flags, o.faults ++ o'.faults⟩,
     ⟨if ltNum s.amax s'.amax then s'.amax else s.amax, s.sat + s'.sat⟩)

/-- Elements lo to hi − 1 of `vqscale` or `vqpack`. -/
def laneQuant (y : Ctx) (e : QEntry) (offset : Int) (lo hi : Nat) : LaneEffect × CardSum :=
  match blockFmt (vtFmt e.vtype) with
  | some b => quantBlocks e b offset (unitOf e) y (unitStarts (unitOf e) lo hi)
  | none => (⟨y, 0, []⟩, ⟨.fin false 0 0, 0⟩)

/-- (−1)^popcount(j AND m) x (R232). -/
def walsh (j m : Nat) (x : Num) : Num := if popNat 16 (j &&& m) % 2 = 1 then negNum x else x

/-- The sum of one output of a group, a real number: a zero has no sign and is written +0 (R11, R232; log 15). -/
def walshSum (mode : RMode) (j : Nat) (xs : List Num) : Num × BitVec 6 :=
  match xs.mapIdx fun m x => walsh j m x with
  | [] => (.fin false 0 0, 0)
  | x :: t =>
    let r := t.foldl (fun (a : Num × BitVec 6) x =>
      let r := addNum mode a.1 x
      (r.1, a.2 ||| r.2)) (x, 0)
    (if isZeroNum r.1 then .fin false 0 0 else r.1, r.2)

/-- x ÷ √(2^k): exact for even k, the correctly rounded root of x² ÷ 2^k, with x's sign, for odd (R232). -/
def overRoot (k : Nat) (x : Num) : Num :=
  if k % 2 = 0 then scaleNum x (-(k / 2 : Nat)) else
  match x with
  | .fin n m e => if m = 0 then x else
    let r := (sqrtNum (.fin false (m * m) (2 * e - k))).1
    if n then negNum r else r
  | _ => x

/-- One group of `vfwht` (R232). DESIGN CHOICE: a group that holds a quiet NaN, +∞ and −∞ raises no NV (log 15). -/
def whtGroup (e : QEntry) (y0 y : Ctx) (b0 k : Nat) : LaneEffect :=
  let c := entryRounding e
  let f := fmtOf (vtFmt e.vtype)
  let w := vtSew e.vtype
  let a := src y0 e.f.a.toNat
  let n := 2 ^ k
  let is := tab n b0 id
  let hooks := if hooksFault e then is.filter fun i => isHook (a.at w i) else []
  if !hooks.isEmpty then ⟨y, 0, hooks.map fun i => ⟨i, 16, 0⟩⟩ else
  let xs := is.map fun i => flushNum c (elemNum e.vtype a i)
  let nan := xs.any isNan
  let sig := xs.any isSig
  let both := (xs.any fun x => isInf x && signOf x) && (xs.any fun x => isInf x && !signOf x)
  if nan ∨ both then
    ⟨putV y w e.f.d.toNat b0 (b0 + n) fun _ => some (fmtNan f), flagIf (sig || (both && !nan)) flagNV, []⟩
  else
    let outs := (tab n 0 fun j =>
      let (s, fl) := walshSum c.mode j xs
      encNum f c (overRoot k s) (raiseN (numSt e.seed (b0 + j)) fl)).toArray
    ⟨putV y w e.f.d.toNat b0 (b0 + n) fun i => (outs[i - b0]?).map (·.1), outs.foldl (fun g o => g ||| o.2.flags) 0, []⟩

/-- Elements lo to hi − 1 of `vfwht` (R232). -/
def laneWht (y : Ctx) (e : QEntry) (lo hi : Nat) : LaneEffect :=
  let k := e.gb.toNat % 16
  (unitStarts (2 ^ k) lo hi).foldl (fun o b0 =>
    let r := whtGroup e y o.ctx b0 k
    ⟨r.ctx, o.flags ||| r.flags, o.faults ++ r.faults⟩) ⟨y, 0, []⟩

/-! Reductions (R225, R234, R236, R237). -/

/-- The result of a tree-fed or cross-element page 3 instruction. -/
structure CrossOut where
  ctx    : Ctx
  result : Option Word
  flags  : BitVec 6
  faults : List ElemFault

/-- The active elements of a reduction that are no faulting hooks, and the hooks (R213). -/
def reduced (y : Ctx) (e : QEntry) : List Nat × List ElemFault :=
  let w := vtSew e.vtype
  let a := src y e.f.a.toNat
  let b := src y e.f.b.toNat
  let on := (actives y e).filter fun i => decide (firstElem e ≤ i)
  let hook (i : Nat) : Bool := hooksFault e && (isHook (a.at w i) || (e.op == .vfdotO && isHook (b.at w i)))
  (on.filter fun i => !hook i, (on.filter hook).map fun i => ⟨i, 16, 0⟩)

/-- The pattern in binary64 of a number every format widens to exactly (R225, R234). -/
def wideWord (x : Num) : Word := BitVec.ofNat 64 (encNum fp64 ⟨.rne, false, false, 0⟩ x ⟨0, 1⟩).1

/-- The nodes of one level of the tree paired (R234). -/
def treeLevel (f : FloatFmt) (c : Rounding) (l : List (Option Num)) (fl : BitVec 6) : List (Option Num) × BitVec 6 :=
  match l with
  | p :: q :: t =>
    let (rest, fl') := treeLevel f c t fl
    match p, q with
    | some x, some z =>
      let (s, g) := addNum c.mode x z
      let (r, st) := roundNum f c s ⟨g, 1⟩
      (some r :: rest, fl' ||| st.flags)
    | some x, none => (some x :: rest, fl')
    | none, z => (z :: rest, fl')
  | [p] => ([p], fl)
  | [] => ([], fl)

/-- The root of the tree; `fuel` counts its levels (R234). -/
def treeRoot (fuel : Nat) (f : FloatFmt) (c : Rounding) (l : List (Option Num)) (fl : BitVec 6) : Option Num × BitVec 6 :=
  match fuel with
  | 0 => (l.headD none, fl)
  | k + 1 =>
    let (l, fl) := treeLevel f c l fl
    treeRoot k f c l fl

/-- ⌈log2 n⌉ of a count, 0 for 0 and 1. -/
def clog2 (n : Nat) : Nat := if n ≤ 1 then 0 else Nat.log2 (n - 1) + 1

/-- The floating reductions (R234). -/
def floatReduce (y : Ctx) (e : QEntry) : CrossOut :=
  let t := e.vtype
  let c := { entryRounding e with mode := noSr (vtMode t), sat := false }
  let f := if vtFmt t = 4 then fp64 else fp32
  let a := src y e.f.a.toNat
  let b := src y e.f.b.toNat
  let (on, faults) := reduced y e
  let g := if e.op = .vfdotO then e.gc else e.gb
  let init := flushNum c (decNum fp64 g.toNat)
  let xa (i : Nat) : Num := flushNum c (elemNum t a i)
  if on.isEmpty then ⟨y, some g, 0, faults⟩ else
  let step (acc : Num × BitVec 6) (r : Num × BitVec 6) : Num × BitVec 6 :=
    let (v, st) := roundNum f c r.1 ⟨r.2, 1⟩
    (v, acc.2 ||| st.flags)
  let (acc, fl) := match e.op with
    | .vfredsumO => on.foldl (fun acc i => step acc (addNum c.mode acc.1 (xa i))) (init, 0)
    | .vfdotO => on.foldl (fun acc i =>
        step acc (fmaNum c.mode (xa i) (flushNum c (elemNum t b i)) acc.1)) (init, 0)
    | .vfredsumT =>
      let leaves : Array (Option Num) := Array.replicate (2 ^ clog2 e.vl) none
      let leaves := on.foldl (fun (l : Array (Option Num)) i => l.setIfInBounds i (some (xa i))) leaves
      let (root, fl) := treeRoot (clog2 e.vl) f c leaves.toList 0
      match root with
      | some r => step (init, fl) (addNum c.mode init r)
      | none => (init, fl)
    | op => on.foldl (fun acc i =>
        let x := xa i
        let fl := acc.2 ||| flagIf (isSig acc.1 || isSig x) flagNV
        if isNan acc.1 && isNan x then (.nan false, fl)
        else if isNan acc.1 then (x, fl)
        else if isNan x then (acc.1, fl)
        else (if pickFirst (op == VOp.vfredmax) acc.1 x then acc.1 else x, fl)) (init, 0)
  ⟨y, some (wideWord (match acc with
    | .nan _ => .nan false
    | v => v)), fl, faults⟩

/-- vqamax (R225). -/
def qamax (y : Ctx) (e : QEntry) : CrossOut :=
  let c := entryRounding e
  let a := src y e.f.a.toNat
  let (on, faults) := reduced y e
  if on.isEmpty then ⟨y, some e.gb, 0, faults⟩ else
  let xs := flushNum c (decNum fp64 e.gb.toNat) :: on.map fun i => flushNum c (elemNum e.vtype a i)
  let sig := flagIf (xs.any isSig) flagNV
  if xs.any isNan then ⟨y, some (BitVec.ofNat 64 (fmtNan fp64)), sig, faults⟩
  else if xs.any isInf then ⟨y, some (wideWord (.inf false)), 0, faults⟩
  else ⟨y, some (wideWord (maxMag xs)), 0, faults⟩

/-- The side a hook is of (R87). -/
def hookSide (p : Nat) : Bool := p / 2 ^ 31 % 2 == 1

/-- vhkcnt (R236). -/
def hookCount (y : Ctx) (e : QEntry) : CrossOut :=
  let a := src y e.f.a.toNat
  let n := ((actives y e).filter fun i =>
    let p := a.at 32 i
    isHook p && (e.gb == 0 || hookSide p == (e.gb == 1))).length
  ⟨y, some (BitVec.ofNat 64 n), 0, []⟩

/-- The BOUND of a hook as a number (R87). -/
def hookBound (p : Nat) : Num := decNum bf16 (p % 2 ^ 16)

/-- A candidate put into the best `k` so far, best first; an equal key stays behind. DESIGN CHOICE: the key of a hook whose BOUND is a
NaN pattern stays a candidate, and every comparison with it is false (R87, R237; log 15). -/
def keepBest (k : Nat) (l : List (Num × Nat)) (x : Num × Nat) : List (Num × Nat) :=
  match k with
  | 0 => []
  | k + 1 =>
    match l with
    | [] => [x]
    | q :: t => if ltNum q.1 x.1 then x :: (q :: t).take k else q :: keepBest k t x

/-- vtopk (R237). -/
def topK (y : Ctx) (e : QEntry) : CrossOut :=
  let c := entryRounding e
  let k := if e.vl ≤ e.start then 0 else e.gb.toNat
  let an := e.f.a.toNat
  let a := src y an
  let dn := e.f.d.toNat
  let on := actives y e
  let sig := flagIf (on.any fun i => !isHook (a.at 32 i) && isSig (decNum fp32 (a.at 32 i))) flagNV
  let cand := on.filter fun i =>
    let p := a.at 32 i
    if isHook p then !hookSide p else !isNan (decNum fp32 p)
  let key (i : Nat) : Num :=
    let p := a.at 32 i
    if isHook p then hookBound p else flushNum c (decNum fp32 p)
  let best := (cand.foldl (fun l i => keepBest k l (key i, i)) []).toArray
  let y1 := putV y 32 dn 0 k fun j => some (match best[j]? with
    | some q => a.at 32 q.2
    | none => 0xFF800000)
  ⟨putV y1 32 (dn + 1) 0 k fun j => some (match best[j]? with
    | some q => (a.hi.getD q.2 0).toNat
    | none => 0xFFFFFFFF), none, sig, []⟩

/-- A tree-fed or cross-element page 3 instruction (R225, R234, R236, R237). -/
def crossFloat (y : Ctx) (e : QEntry) : CrossOut :=
  match e.op with
  | .vqamax => qamax y e
  | .vhkcnt => hookCount y e
  | .vtopk => topK y e
  | _ => floatReduce y e

/-! The slot's own arithmetic (R223, R224). -/

/-- A binary64 operand. -/
def dec64 (x : Word) : Num := decNum fp64 x.toNat

/-- A binary64 instruction over two operands (R224). -/
def scalar2 (s : State) (d a b : GReg) (f : RMode → Num → Num → Num × BitVec 6) : Result :=
  withOps s [a, b] [] [d] fun vs s => scalarFp s d (f (scalarRounding (me s)).mode (dec64 (opnd vs 0)) (dec64 (opnd vs 1)))

/-- FADD (R224). -/
def execFadd (d a b : GReg) (s : State) : Result := scalar2 s d a b addNum
/-- FSUB (R224). -/
def execFsub (d a b : GReg) (s : State) : Result := scalar2 s d a b fun m x y => addNum m x (negNum y)
/-- FMUL (R224). -/
def execFmul (d a b : GReg) (s : State) : Result := scalar2 s d a b fun _ x y => mulNum x y
/-- FDIV (R224). -/
def execFdiv (d a b : GReg) (s : State) : Result := scalar2 s d a b fun _ x y => divNum x y

/-- FMA: g[d] is read as well (R224). -/
def execFma (d a b : GReg) (s : State) : Result :=
  withOps s [a, b] [d] [d] fun vs s =>
    scalarFp s d (fmaNum (scalarRounding (me s)).mode (dec64 (opnd vs 0)) (dec64 (opnd vs 1)) (dec64 (opnd vs 2)))

/-- The smaller or larger operand in its own pattern (R217, R224). -/
def scalarPick (s : State) (d a b : GReg) (big : Bool) : Result :=
  withOps s [a, b] [] [d] fun vs s =>
    let r := minMaxPat fp64 big (opnd vs 0).toNat (opnd vs 1).toNat (dec64 (opnd vs 0)) (dec64 (opnd vs 1))
    retire1 (raiseFlags s r.2) d (BitVec.ofNat 64 r.1)

/-- FMIN (R217, R224). -/
def execFmin (d a b : GReg) (s : State) : Result := scalarPick s d a b false
/-- FMAX (R217, R224). -/
def execFmax (d a b : GReg) (s : State) : Result := scalarPick s d a b true

/-- FSQRT (R224). -/
def execFsqrt (d a : GReg) (s : State) : Result :=
  withOps s [a] [] [d] fun vs s => scalarFp s d (sqrtNum (dec64 (opnd vs 0)))

/-- A compare: 1 or 0 (R221). -/
def scalarRel (s : State) (d a b : GReg) (op : VOp) : Result :=
  withOps s [a, b] [] [d] fun vs s =>
    let r := floatRel op (dec64 (opnd vs 0)) (dec64 (opnd vs 1))
    retire1 (raiseFlags s r.2) d (if r.1 then 1 else 0)

/-- FCEQ (R221). -/
def execFceq (d a b : GReg) (s : State) : Result := scalarRel s d a b .vfceq
/-- FCLT (R221). -/
def execFclt (d a b : GReg) (s : State) : Result := scalarRel s d a b .vfclt
/-- FCLE (R221). -/
def execFcle (d a b : GReg) (s : State) : Result := scalarRel s d a b .vfcle

/-- Whether a code is one `fcvt` takes (R223). -/
def scalarCode (c : Nat) : Bool := decide (2 ≤ c) && decide (c ≤ 5)

/-- FCVT: an invalid g[b] gives 0 and NV; an FP32 hook is a precise fault (R88, R223). -/
def execFcvt (d a b : GReg) (s : State) : Result :=
  withOps s [a, b] [] [d] fun vs s' =>
    let g := opnd vs 1
    let dst := fld g 0 4
    let sc := fld g 4 4
    if fld g 8 56 ≠ 0 ∨ scalarCode dst = false ∨ scalarCode sc = false then retire1 (raiseFlags s' flagNV) d 0
    else
      let p := (opnd vs 0).toNat % 2 ^ codeWidth sc
      if sc = 3 ∧ isHook p = true then .next (takeTrap s 16 0)
      else
        let (v, st) := encNum (fmtOf dst) (scalarRounding (me s')) (decNum (fmtOf sc) p) ⟨0, 1⟩
        retire1 (raiseFlags s' st.flags) d (BitVec.ofNat 64 v)

/-- F2I (R78, R224). -/
def execF2i (d a : GReg) (s : State) : Result :=
  withOps s [a] [] [d] fun vs s =>
    let (v, st) := toIntNum 64 true (scalarRounding (me s)).mode (dec64 (opnd vs 0)) ⟨0, 1⟩
    retire1 (raiseFlags s st.flags) d (BitVec.ofNat 64 v)

/-- I2F (R224). -/
def execI2f (d a : GReg) (s : State) : Result :=
  withOps s [a] [] [d] fun vs s => scalarFp s d (numOfInt (opnd vs 0).toInt, 0)

/-- FCLASS (R220). -/
def execFclass (d a : GReg) (s : State) : Result := alu1 s d a fun x => BitVec.ofNat 64 (classOf fp64 x.toNat)
/-- FABS (R224). -/
def execFabs (d a : GReg) (s : State) : Result := alu1 s d a fun x => x &&& 0x7FFFFFFFFFFFFFFF

/-! Format cards (R228 to R230). -/

/-- The largest of the history entries that are no NaN and no hook (R230). -/
def cardMax (bs : List Byte) : Option Num :=
  ((tab 16 0 fun j => blockNat bs (16 + 4 * j) 4).filterMap fun p =>
    if isHook p || isNan (decNum fp32 p) then none else some (decNum fp32 p)).foldl
    (fun m x => match m with
      | none => some x
      | some y => some (if ltNum y x then x else y)) none

/-- OFFSET after fcadapt, as a signed number (R230). -/
def cardOffset (bs : List Byte) : Int :=
  let margin := sInt 8 (blockNat bs 2 1)
  let old := sInt 8 (blockNat bs 1 1)
  match cardMax bs with
  | some (.inf false) => 127
  | some (.fin false m e) => if m = 0 then old else satInt (ceilLog2 m e + margin) (-128) 127
  | _ => old

/-- Whether an adaptive vqpack of the slot has not performed its card update (R230). -/
def cardPending (s : State) : Bool :=
  match myCtx s with
  | some k => (ctxAt s k).queue.any fun e => e.op == .vqpack && bitOf e.gb 5
  | none => false

/-- The bytes of a card that lies at several places, each at its home (R230). -/
def cardPieces (s : State) (c : Nat) (ls : List (Loc × Nat)) : List Byte × State :=
  match ls with
  | [] => ([], s)
  | (l, n) :: t =>
    let (bs, s) := cardHome s c l n
    let (r, s) := cardPieces s c t
    (bs ++ r, s)

/-- FCADAPT: one read-modify-write of the card; a poisoned card faults in scratch, and beyond it poisons the result and is left
as it was (R230, R437). -/
def execFcadapt (d a : GReg) (s : State) : Result :=
  if cardPending s then .next (park s (.entry 0)) else
  withOps s [a] [] [d] fun vs s' =>
    let ea := opnd vs 0
    withAccess s s' 8 needRW ea fun l _ s' =>
      if (apertureOf l).isSome then .next (takeTrap s 7 ea)
      else if !(me s).sbuf.isEmpty || lateLoads s || (vecAhead s fun _ => true) || decide (63 ≤ (me s).outL) then
        .next (park s (.entry ea))
      else
        match blockPlaces s' needRW (blockPieces 4 ea 80) with
        | .error (.trap cause, a) => .next (accessTrap s cause a)
        | .error (_, a) => .next (park s (.migrating a (cycleOf s (myCore s) + 256)))
        | .ok (ls, s') =>
          if ls.any fun x => engineOwns s' x.1 x.2 then .next (park s (.entry ea)) else
          let bad := ls.any fun x => locPoisoned s' (myCore s') x.1
          if bad && isNear ea then .next (takeTrap s 9 ea) else
          let (bs, s') := cardPieces s' (myCore s') ls
          let off := cardOffset bs
          let s' := if bad then s' else match l with
            | .scratch c p o => scratchWrite s' c p (o + 1) (leBytes 1 (wrapTo 8 off))
            | .phys pa => scopedWrite s' (myCore s') (pa + 1) (leBytes 1 (wrapTo 8 off))
          .next (advance (sendResult s' d (trunc64 off) bad ea .l))

end Sys2Proof.Machine
end

