-- ==== Sys2Proof/Machine/Issue.lean ====
section
/-! DEFINITION. Issuing a vector-queue instruction: its g operands read, the front's checks, the entry (06 R158, R174 to R177; 07
R181, R182; 08 R212; 09 R238; 10 R263; 13 R349). -/

namespace Sys2Proof.Machine

/-! What an instruction will write (R177), and the relay it needs (R251). -/

/-- v registers counted from register `d` by a write of elements of width `w` (R177). -/
def regsTo (d : Nat) (w : Nat) : Nat := min 32 (d + if w = 64 then 2 else 1)

/-- One more than the highest v register an entry writes, 0 for none (R177, R237, R270, R278). -/
def regsWritten (e : QEntry) : Nat :=
  let d := e.f.d.toNat
  match e.op with
  | .vceq | .vcne | .vclt | .vcltu | .vcle | .vcleu | .vceqS | .vcltS | .mand | .mor | .mxor | .mandn | .mnot | .mmv
  | .mset | .mclr | .mpopc | .mfirst | .msbf | .msif | .vmatch | .vprobe | .vredsum | .vredmax | .vredmin | .vredmaxu
  | .vredand | .vredor | .vredxor | .vredminu | .vfceq | .vfclt | .vfcle | .vfcun | .vqamax | .vfredsumO | .vfredsumT
  | .vfredmax | .vfredmin | .vfdotO | .vhktest | .vhkcnt | .vst | .vsts | .vstx | .vstxa | .vstrow | .vamorow | .prow
  | .pbnd | .tmma | .tzero | .tld | .tst | .tacc | .trow => 0
  | .vtopk => min 32 (d + 2)
  | .pload => e.band.band + e.band.regs
  | .mma | .mmav => d + (e.acc.headD 0).toNat
  | .ptree | .vqscale | .vqpack => d + 1
  | op => regsTo d (destWidth op e.vtype e.gb)

/-- How many v sources an instruction names beside an old destination, its a field first (R251). -/
def vSources (op : VOp) : Nat :=
  match op with
  | .vmul | .vmulh | .vmulhu | .vmacc | .vnmsac | .vfadd | .vfsub | .vfmul | .vfdiv => 2
  | .vfma | .vfms | .vfnma | .vfnms => 3
  | _ => 1

/-- The instructions that relay a source equal to their destination (R251): the integer multiply families, and floating
expansions of 162 steps or more. -/
def relays (op : VOp) : Bool :=
  match op with
  | .vmul | .vmulS | .vmulh | .vmulhu | .vmacc | .vnmsac | .vfadd | .vfsub | .vfmul | .vfdiv | .vfsqrt | .vfma | .vfms
  | .vfnma | .vfnms | .vfaddS | .vfsubS | .vfmulS | .vfrsubS | .vfround | .vfcvt | .vf2i | .vf2iT | .vi2f | .vqscale
  | .vqpack | .vqunpack | .vfwht => true
  | _ => false

/-- Buffers of the row-buffer pair that each strip's relay of an entry holds; the old destination of `vmacc` and `vnmsac` is a source
of theirs (R192, R251). -/
def relayNeed (e : QEntry) : Nat :=
  let n := vSources e.op
  if relays e.op && (e.op == .vmacc || e.op == .vnmsac || e.f.d == e.f.a || (decide (2 ≤ n) && e.f.d == e.f.b) ||
      (n == 3 && e.f.d.toNat == e.f.c.toNat)) then (if vtSew e.vtype = 64 then 2 else 1) else 0

/-- Buffers a context holds, in program order (R273). -/
def heldBuffers (y : Ctx) : Nat := ((tab 2 0 id).filter fun b => (look y.holdsIssue b hold0).held).length

/-! Issue. -/

/-- How the front's checks of an entry end. -/
inductive Checked where
  | ok (e : QEntry) (s : State)
  | trap (cause : Nat) (addr : Word)
  | park (why : ParkWhy)
  /-- the instruction waits for a pin at issue, in the order of asking (R343) -/
  | ask (ea : Word)

/-- A check that fails with the vector-operand fault unless `ok` (R158, R181, R212). -/
def operandCheck (e : QEntry) (s : State) (ok : Bool) : Checked := if ok then .ok e s else .trap 14 0

/-- The g registers an instruction names in its fields a, b and c. -/
structure GFields where
  a : Option GReg
  b : Option GReg
  c : Option GReg

/-- No g operand. -/
def noG : GFields := ⟨none, none, none⟩

/-- Instructions whose rounding can draw under SR (R70). -/
def drawsSr (op : VOp) : Bool :=
  match op with
  | .vfadd | .vfsub | .vfmul | .vfdiv | .vfsqrt | .vfma | .vfms | .vfnma | .vfnms | .vfaddS | .vfsubS | .vfmulS | .vfrsubS
  | .vfround | .vfcvt | .vf2i | .vi2f | .vqpack | .vqunpack | .vfwht | .vsfu => true
  | _ => false

/-- Whether an instruction reads g23 at issue (R70). -/
def readsSeed (op : VOp) (t : BitVec 20) : Bool := drawsSr op && vtMode t == .sr

/-- The value of a g field among those read, in the order of the fields. -/
def fieldValue (present : Option GReg) (vs : List Word) : Word × List Word :=
  match present, vs with
  | some _, v :: t => (v, t)
  | _, l => (0, l)

/-- The entry that an instruction of context `y` would be, before its checks (R238). -/
def makeEntry (s : State) (y : Ctx) (op : VOp) (f : F3Fields) (g : GFields) (vs : List Word) : QEntry :=
  let (ga, vs) := fieldValue g.a vs
  let (gb, vs) := fieldValue g.b vs
  let (gc, vs) := fieldValue g.c vs
  { entry0 with
    seq := y.seq + 1
    addr := (me s).pc
    words := s.ir
    op := op
    f := f
    ga := ga
    gb := gb
    gc := gc
    vl := y.vl
    vtype := y.vtype
    origin := y.vstart
    start := y.vstart
    restart := y.vstart
    logG := y.logG
    band := y.bandIssue
    vdcfg := y.vdcfg
    seed := vs.headD 0
    readyAt := cyclesEnd (coreAt s (myCore s)).halfRate (cycleOf s (myCore s)) 4 }

/-- The product state after an entry, in program order (R263, R264, R273, R278). -/
def productAfter (y : Ctx) (e : QEntry) : Ctx :=
  match e.op with
  | .pload => { y with bandIssue := e.band }
  | .prow =>
    let h : Hold := ⟨true, fld e.gb 0 7, fld e.gb 16 5, fld e.gb 24 16, productLen (fld e.gb 0 7) e.vtype, [], []⟩
    { y with holdsIssue := put y.holdsIssue (fld e.gb 8 1) h }
  | .mma | .mmav => if bitOf e.ga 2 then { y with holdsIssue := put y.holdsIssue (fld e.ga 0 1) hold0 } else y
  | _ => y

/-- An entry joins the queue of context `k`: VSTART is consumed, HIWATER rises, its counters rise and its scalar result is
pending (R131, R151, R176, R177, R189, R238). -/
def enqueue (s : State) (k : Nat) (e : QEntry) : State :=
  let y := productAfter (ctxAt s k) e
  let s := setCtx s k { y with
    queue := y.queue ++ [e]
    seq := e.seq
    vstart := 0
    hiRegs := max y.hiRegs (regsWritten e) }
  let x := (entryCtrs e).foldl raiseCtr (me s)
  setMe s (if owesG e.op then pendG x e.f.d 0 else x)

/-- The acting slot's request for pins at issue joins those of its core (R343). -/
def askPins (s : State) : State :=
  let q := coreAt s (myCore s)
  setCore s (myCore s) { q with pinAsk := if q.pinAsk.contains s.cur then q.pinAsk else q.pinAsk ++ [s.cur] }

/-- Whether an earlier request for pins at issue still waits: its slot is parked on it (R343). -/
def askedBefore (s : State) : Bool :=
  ((coreAt s (myCore s)).pinAsk.takeWhile (· != s.cur)).any fun i =>
    match (slotAt s i).st with
    | .parked (.entry _) => true
    | _ => false

/-- The acting slot's request is served. -/
def unaskPins (s : State) : State :=
  let q := coreAt s (myCore s)
  setCore s (myCore s) { q with pinAsk := q.pinAsk.filter (· != s.cur) }

/-- Issue of an instruction that takes a vector-queue entry: privilege in the handler state, the bound context, a `vldff` that
may still trim VL, the operands, the checks, then room (R181, R182, R238, R354, R427). -/
def issueVec (s : State) (op : VOp) (f : F3Fields) (g : GFields) (check : State → Nat → QEntry → Checked) : Result :=
  if (me s).handler then privTrap s else
  match myCtx s with
  | none => .next (takeTrap s 13 0)
  | some k =>
    let y := ctxAt s k
    if trimming y then .next (park s (.entry 0)) else
    let seed := if readsSeed op y.vtype then [23#5] else []
    withOps s (g.a.toList ++ g.b.toList ++ g.c.toList ++ seed) [] (if owesG op then [f.d] else []) fun vs s' =>
      match check s' k (makeEntry s' (ctxAt s' k) op f g vs) with
      | .trap cause addr => .next (accessTrap s cause addr)
      | .park why => .next (park s why)
      | .ask ea => .next (park (askPins s) (.entry ea))
      | .ok e s' =>
        if 16 ≤ y.queue.length then .next (park s .vectorQueue)
        else if (entryCtrs e).any fun n => decide (63 ≤ ctrOf (me s) n) then .next (park s (.entry 0))
        else .next (advance (enqueue s' k e))

/-! Checks of page 2 (R181) and page 3 (R212). -/

/-- Whether every register of a list may hold 64-bit elements (R158). -/
def evenRegs (vs : List VReg) : Bool := vs.all fun r => r.toNat % 2 == 0

/-- Whether the relays of an entry's strips, where it has any, find the buffers they need among those the context does not hold
(R187, R273). -/
def relayFits (y : Ctx) (e : QEntry) : Bool :=
  decide (heldBuffers y + relayNeed e ≤ 2) || relayNeed e == 0 || decide (e.vl ≤ firstElem e)

/-- The checks of page 2: odd registers under SEW 64, an entry's own limit, and the relay (R158, R181, R273). -/
def checkInt (vs : List VReg) (own : Ctx → QEntry → Bool) (s : State) (k : Nat) (e : QEntry) : Checked :=
  let y := ctxAt s k
  operandCheck e s ((vtSew e.vtype != 64 || evenRegs vs) && own y e && relayFits y e)

/-- No limit of its own. -/
def noLimit (_ : Ctx) (_ : QEntry) : Bool := true

/-- The formats a page 3 instruction takes (R211). -/
inductive FmtCol where
  | f | f32 | b | i | fb

/-- Whether VTYPE.FMT stands in a column (R211). -/
def FmtCol.has (c : FmtCol) (fmt : Nat) : Bool :=
  let float := decide (2 ≤ fmt) && decide (fmt ≤ 7)
  let block := decide (8 ≤ fmt) && decide (fmt ≤ 11)
  match c with
  | .f => float
  | .f32 => fmt == 3
  | .b => block
  | .i => decide (fmt ≤ 1)
  | .fb => float || block

/-- The checks of page 3: the format column, odd registers under SEW 64 or of 64-bit results, the control operand (R158, R212,
R273). -/
def checkFloat (col : FmtCol) (srcs dsts : List VReg) (own : Ctx → QEntry → Bool) (s : State) (k : Nat) (e : QEntry) : Checked :=
  let y := ctxAt s k
  operandCheck e s (col.has (vtFmt e.vtype) && own y e && (vtSew e.vtype != 64 || evenRegs (srcs ++ dsts)) &&
    (destWidth e.op e.vtype e.gb != 64 || evenRegs dsts) && relayFits y e)

/-! Shapes of page 2 and page 3. -/

/-- `op vD, vA, vB`. -/
def int3 (op : VOp) (d a b : VReg) (k : VMask) (s : State) : Result :=
  issueVec s op ⟨d, a, b, 0, k⟩ noG (checkInt [d, a, b] noLimit)
/-- `op vD, vA, gB`. -/
def intS (op : VOp) (d a : VReg) (b : GReg) (k : VMask) (s : State) : Result :=
  issueVec s op ⟨d, a, b, 0, k⟩ ⟨none, some b, none⟩ (checkInt [d, a] noLimit)
/-- `op vD, vA`. -/
def int2 (op : VOp) (d a : VReg) (k : VMask) (s : State) : Result :=
  issueVec s op ⟨d, a, 0, 0, k⟩ noG (checkInt [d, a] noLimit)
/-- `op vD, vA, w`: w below SEW (R181). -/
def intN (op : VOp) (d a : VReg) (b : BitVec 3) (k : VMask) (s : State) : Result :=
  issueVec s op ⟨d, a, b.setWidth 5, 0, k⟩ noG (checkInt [d, a] fun _ e => decide (extWidth b.toNat < vtSew e.vtype))
/-- `op vD, vA, n`. -/
def intSlide (op : VOp) (d a : VReg) (b : BitVec 3) (k : VMask) (s : State) : Result :=
  issueVec s op ⟨d, a, b.setWidth 5, 0, k⟩ noG (checkInt [d, a] noLimit)
/-- `op mD, vA, vB`. -/
def cmp3 (op : VOp) (d : MReg) (a b : VReg) (k : VMask) (s : State) : Result :=
  issueVec s op ⟨d.setWidth 5, a, b, 0, k⟩ noG (checkInt [a, b] noLimit)
/-- `op mD, vA, gB`. -/
def cmpS (op : VOp) (d : MReg) (a : VReg) (b : GReg) (k : VMask) (s : State) : Result :=
  issueVec s op ⟨d.setWidth 5, a, b, 0, k⟩ ⟨none, some b, none⟩ (checkInt [a] noLimit)
/-- An instruction on m registers alone. -/
def maskI (op : VOp) (d a b : MReg) (k : VMask) (s : State) : Result :=
  issueVec s op ⟨d.setWidth 5, a.setWidth 5, b.setWidth 5, 0, k⟩ noG (checkInt [] noLimit)
/-- `op gD, mA`. -/
def maskG (op : VOp) (d : GReg) (a : MReg) (k : VMask) (s : State) : Result :=
  issueVec s op ⟨d, a.setWidth 5, 0, 0, k⟩ noG (checkInt [] noLimit)
/-- `op gD, vA, gB`. -/
def intG (op : VOp) (d : GReg) (a : VReg) (b : GReg) (k : VMask) (s : State) : Result :=
  issueVec s op ⟨d, a, b, 0, k⟩ ⟨none, some b, none⟩ (checkInt [a] noLimit)

/-- `op vD, vA, vB` of page 3. -/
def float3 (op : VOp) (col : FmtCol) (d a b : VReg) (k : VMask) (s : State) : Result :=
  issueVec s op ⟨d, a, b, 0, k⟩ noG (checkFloat col [d, a, b] [] noLimit)
/-- `op vD, vA, vB, vC`. -/
def float4 (op : VOp) (d a b : VReg) (c : BitVec 4) (k : VMask) (s : State) : Result :=
  issueVec s op ⟨d, a, b, c, k⟩ noG (checkFloat .f [d, a, b, c.setWidth 5] [] noLimit)
/-- `op vD, vA` of page 3. -/
def float2 (op : VOp) (d a : VReg) (k : VMask) (s : State) : Result :=
  issueVec s op ⟨d, a, 0, 0, k⟩ noG (checkFloat .f [d, a] [] noLimit)
/-- `op vD, vA, gB` of page 3, under a limit on g[b]. -/
def floatS (op : VOp) (col : FmtCol) (own : Ctx → QEntry → Bool) (d a : VReg) (b : GReg) (k : VMask) (s : State) : Result :=
  issueVec s op ⟨d, a, b, 0, k⟩ ⟨none, some b, none⟩ (checkFloat col [a] [d] own)
/-- `op mD, vA, vB` of page 3. -/
def floatM (op : VOp) (d : MReg) (a b : VReg) (k : VMask) (s : State) : Result :=
  issueVec s op ⟨d.setWidth 5, a, b, 0, k⟩ noG (checkFloat .f [a, b] [] noLimit)
/-- `op gD, vA, gB` of page 3. -/
def floatG (op : VOp) (col : FmtCol) (own : Ctx → QEntry → Bool) (d : GReg) (a : VReg) (b : GReg) (k : VMask) (s : State) : Result :=
  issueVec s op ⟨d, a, b, 0, k⟩ ⟨none, some b, none⟩ (checkFloat col [a] [] own)

/-- A float format code that vfcvt and vi2f take in g[b] (R222). -/
def codeOk (_ : Ctx) (e : QEntry) : Bool :=
  fld e.gb 4 60 == 0 && decide (2 ≤ fld e.gb 0 4) && decide (fld e.gb 0 4 ≤ 7)
/-- An integer width code that vf2i takes in g[b] (R222). -/
def widthOk (_ : Ctx) (e : QEntry) : Bool := fld e.gb 4 60 == 0 && decide (fld e.gb 0 3 ≤ 6)

/-- FCODE of the quantisation instructions (R226). -/
def fcodeOk (g : Word) : Bool := [2, 3, 5, 6, 7].contains (fld g 0 4)

/-- g[b] of vqscale and vqunpack (R226). -/
def quantOk (_ : Ctx) (e : QEntry) : Bool := fcodeOk e.gb && fld e.gb 4 60 == 0
/-- g[b] of vqpack (R226). -/
def packOk (_ : Ctx) (e : QEntry) : Bool :=
  fcodeOk e.gb && fld e.gb 14 50 == 0 && fld e.gb 6 2 == 0 && (bitOf e.gb 5 || fld e.gb 8 6 == 0)

/-- Pins that the front has taken at issue on core `c` (R341). -/
def issuePins (s : State) (c : Nat) : Nat := ((coreAt s c).pins.filter fun p => p.atIssue).length

/-- What checking some addresses for pins at issue comes to: the translations to pin, or why not. -/
inductive PinCheck where
  | ok (ts : List Tlb) (s : State)
  | bad (r : Checked)

/-- Addresses checked one by one for pins at issue, each page's translation once; near-window addresses take none, and a card in an
aperture is an atomic's address fault (R229, R286, R303, R341, R386, R459). -/
def pinChecks (s : State) (n : Need) (ea : Word) (ts : List Tlb) (as : List Word) : PinCheck :=
  let c := myCore s
  let x := me s
  match as with
  | [] => .ok ts s
  | a :: t =>
    match checkAddr s c x.prodid x.sup (isUser x) n a with
    | (.ok (.scratch _ _ _) _, s) => pinChecks s n ea ts t
    | (.ok (.phys pa) _, s) =>
      if isAperture pa && n.r && n.w then .bad (.trap 7 ea) else
      let va := a.toNat % 2 ^ 56
      if ts.any fun p => tlbMatch p (coreAt s c).asid va then pinChecks s n ea ts t
      else match (translate s c va).1 with
        | .page p => pinChecks s n ea (ts ++ [p]) t
        | _ => .bad (.trap 8 ea)
    | (.trap cause, _) => .bad (.trap cause ea)
    | (.migrating, _) => .bad (.park (.migrating a (cycleOf s c + 256)))

/-- The pages of `len` bytes at `ea` checked and pinned by the front for an entry of context `k`, all at once, or why not (R229, R286,
R303, R341, R343). -/
def pinAtIssue (s : State) (k : Nat) (e : QEntry) (n : Need) (ea : Word) (len : Nat) : Checked :=
  let c := myCore s
  let ends := if ea.toNat / 65536 = (ea.toNat + len - 1) / 65536 then [ea, ea + BitVec.ofNat 64 (len - 1)]
    else [ea, BitVec.ofNat 64 ((ea.toNat / 65536 + 1) * 65536), ea + BitVec.ofNat 64 (len - 1)]
  match pinChecks s n ea [] ends with
  | .bad r => r
  | .ok [] s => .ok e (unaskPins s)
  | .ok ts s =>
    if askedBefore s || decide (256 < issuePins s c + ts.length) then .ask ea
    else
      let q := coreAt s c
      .ok e (unaskPins (setCore s c { q with pins := q.pins ++ ts.map fun t => ⟨t, k, e.seq, true⟩ }))

/-- The checks of vqpack; with ADAPT its card is checked and pinned too (R212, R229). -/
def checkPack (d a : VReg) (s : State) (k : Nat) (e : QEntry) : Checked :=
  match checkFloat .b [a, d] [] packOk s k e with
  | .ok e s =>
    if !isAdaptive e then .ok e s else
    let ea := (me s).fmtp + BitVec.ofNat 64 (80 * fld e.gb 8 6)
    if ea.toNat % 8 ≠ 0 then .trap 6 ea
    else pinAtIssue s k { e with acc := [ea] } needRW ea 80
  | r => r

end Sys2Proof.Machine
end

