-- ==== Sys2Proof/Machine/VectorMemory.lean ====
section
/-! DEFINITION. Page 4: the vector memory instructions, from their checks at issue to the accesses of one strip (13 R341 to R346,
R348 to R359; 14 R381 to R383; 17 R430 to R437; 18 R459). -/

namespace Sys2Proof.Machine

/-! Issue (R348, R349, R353, R355, R357). -/

/-- Bytes of an element; 1 below SEW 8 (R350). -/
def elemBytes (t : BitVec 20) : Nat := max (vtSew t / 8) 1

/-- Whether `vld` or `vst` moves companion rows (R353). -/
def movesScales (e : QEntry) : Bool := (e.op == .vld || e.op == .vst) && (blockFmt (vtFmt e.vtype)).isSome

/-- Bytes of a block's scale entry (R85). -/
def scaleBytes (t : BitVec 20) : Nat :=
  match blockFmt (vtFmt t) with
  | some b => if isMx b then 1 else 2
  | none => 1

/-- The formats page 4 allows (R353). -/
def memFmtOk (op : VOp) (t : BitVec 20) : Bool :=
  let w := vtSew t
  let plain := (blockFmt (vtFmt t)).isNone
  match op with
  | .vld | .vst | .vldff => true
  | .vstxa => (decide (vtFmt t ≤ 1) && (w == 32 || w == 64)) || vtFmt t == 3 || vtFmt t == 4
  | .vldrow | .vstrow => (w == 16 || w == 32 || w == 64) && plain
  | .vamorow => vtFmt t == 5
  | _ => decide (8 ≤ w) && plain

/-- An operand limit of one instruction (R349, R355, R357). -/
def memOwnOk (e : QEntry) : Bool :=
  (match e.op with
   | .vldsync => decide (e.f.c.toNat ≤ 7)
   | .vamorow => decide (e.gc.toNat ≤ 1)
   | .vldw => decide (e.gc.toNat * elemBytes e.vtype ≤ 2 ^ 26)
   | _ => true) && (!isRowForm e.op || e.vl % rowElems e.vtype == 0)

/-- The alignment R349 asks of g[a], of a stride and of a scale array. -/
def memAligned (e : QEntry) : Bool :=
  let s := elemBytes e.vtype
  (if isRowForm e.op then e.ga.toNat % 256 == 0 else e.ga.toNat % s == 0) &&
  (!(e.op == .vlds || e.op == .vsts) || e.gb.toNat % s == 0) &&
  (!movesScales e || e.gb.toNat % scaleBytes e.vtype == 0)

/-- The checks of page 4 (R349). -/
def checkMem (vs : List VReg) (s : State) (_k : Nat) (e : QEntry) : Checked :=
  if !((vtSew e.vtype != 64 || evenRegs vs) && memFmtOk e.op e.vtype && memOwnOk e) then .trap 14 0
  else if !memAligned e then .trap 6 e.ga
  else if isRowForm e.op && isNear e.ga then .trap 7 e.ga
  else .ok e s

/-- VLD (R350). -/
def execVld (d : VReg) (a b : GReg) (k : VMask) (s : State) : Result :=
  issueVec s .vld ⟨d, a, b, 0, k⟩ ⟨some a, some b, none⟩ (checkMem [d])
/-- VST (R350). -/
def execVst (d : VReg) (a b : GReg) (k : VMask) (s : State) : Result :=
  issueVec s .vst ⟨d, a, b, 0, k⟩ ⟨some a, some b, none⟩ (checkMem [d])
/-- VLDS (R350). -/
def execVlds (d : VReg) (a b : GReg) (k : VMask) (s : State) : Result :=
  issueVec s .vlds ⟨d, a, b, 0, k⟩ ⟨some a, some b, none⟩ (checkMem [d])
/-- VSTS (R350). -/
def execVsts (d : VReg) (a b : GReg) (k : VMask) (s : State) : Result :=
  issueVec s .vsts ⟨d, a, b, 0, k⟩ ⟨some a, some b, none⟩ (checkMem [d])
/-- VLDX (R350). -/
def execVldx (d : VReg) (a : GReg) (b : VReg) (k : VMask) (s : State) : Result :=
  issueVec s .vldx ⟨d, a, b, 0, k⟩ ⟨some a, none, none⟩ (checkMem [d, b])
/-- VSTX (R350). -/
def execVstx (d : VReg) (a : GReg) (b : VReg) (k : VMask) (s : State) : Result :=
  issueVec s .vstx ⟨d, a, b, 0, k⟩ ⟨some a, none, none⟩ (checkMem [d, b])
/-- VLDFF (R354). -/
def execVldff (d : VReg) (a : GReg) (k : VMask) (s : State) : Result :=
  issueVec s .vldff ⟨d, a, 0, 0, k⟩ ⟨some a, none, none⟩ (checkMem [d])
/-- VSTXA (R356). -/
def execVstxa (d : VReg) (a : GReg) (b : VReg) (c : BitVec 4) (k : VMask) (s : State) : Result :=
  issueVec s .vstxa ⟨d, a, b, c, k⟩ ⟨some a, none, some (c.setWidth 5)⟩ (checkMem [d, b])
/-- VLDW (R355). -/
def execVldw (d : VReg) (a : GReg) (b : VReg) (c : BitVec 4) (k : VMask) (s : State) : Result :=
  issueVec s .vldw ⟨d, a, b, c, k⟩ ⟨some a, none, some (c.setWidth 5)⟩ (checkMem [d, b])
/-- VLDROW (R357). -/
def execVldrow (d : VReg) (a : GReg) (b : VReg) (k : VMask) (s : State) : Result :=
  issueVec s .vldrow ⟨d, a, b, 0, k⟩ ⟨some a, none, none⟩ (checkMem [d, b])
/-- VSTROW (R357). -/
def execVstrow (d : VReg) (a : GReg) (b : VReg) (k : VMask) (s : State) : Result :=
  issueVec s .vstrow ⟨d, a, b, 0, k⟩ ⟨some a, none, none⟩ (checkMem [d, b])
/-- VAMOROW (R358). -/
def execVamorow (d : VReg) (a : GReg) (b : VReg) (c : BitVec 4) (k : VMask) (s : State) : Result :=
  issueVec s .vamorow ⟨d, a, b, c, k⟩ ⟨some a, none, some (c.setWidth 5)⟩ (checkMem [d, b])
/-- VLDSYNC (R359). -/
def execVldsync (d : VReg) (a : GReg) (b : VReg) (c : BitVec 4) (k : VMask) (s : State) : Result :=
  issueVec s .vldsync ⟨d, a, b, c, k⟩ ⟨some a, none, none⟩ (checkMem [d, b])

/-! The accesses of a strip (R350, R353, R357). -/

/-- One access: its element, its address, its bytes, the bit of its element in its byte, whether it moves the scale entry of
its element's block, and what an earlier strip of its instruction has found there already (R373). -/
structure Piece where
  elem  : Nat
  ea    : Word
  n     : Nat
  bit   : Nat
  scale : Bool
  got   : Option Seen
  deriving DecidableEq, Repr

/-- The index of an element: rows 0 to 31 of vB in its lane (R350); a row form uses those it captured as it began (R357). -/
def indexOf (y : Ctx) (e : QEntry) : Nat → Nat :=
  let b := (look (if isRowForm e.op ∧ e.snapV ≠ [] then e.snapV else y.v) e.f.b.toNat []).toArray
  fun i => (b.getD i 0).toNat

/-- A row form captures its indices as it begins (R357). -/
def captureIndices (y : Ctx) (e : QEntry) : QEntry :=
  if isRowForm e.op ∧ e.snapV = [] then { e with snapV := [(e.f.b.toNat, look y.v e.f.b.toNat [])] } else e

/-- The elements of [lo, hi) that make an access: the active ones; the first of each active row; and, of a block that reaches
past VL and takes part, the elements past VL too (R350, R353, R357). -/
def touched (y : Ctx) (e : QEntry) (lo hi : Nat) : List Nat :=
  let m := maskBits y e.f.k.reg.toNat
  let l := (tab (hi - lo) lo id).filter fun i => predicate m e.f.k i && (!isRowForm e.op || i % rowElems e.vtype == 0)
  let n := unitOf e
  if movesScales e && e.vl % n != 0 && hi == e.vl && l.any (fun i => i / n == e.vl / n) then l ++ tab (n - e.vl % n) e.vl id else l

/-- The access of element `i` (R350, R357). -/
def pieceOf (e : QEntry) (idx : Nat → Nat) (i : Nat) : Piece :=
  let w := vtSew e.vtype
  let s := elemBytes e.vtype
  match e.op with
  | .vld | .vst | .vldff => ⟨i, e.ga + BitVec.ofNat 64 (i * w / 8), s, i * w % 8, false, none⟩
  | .vlds | .vsts => ⟨i, e.ga + BitVec.ofNat 64 i * e.gb, s, 0, false, none⟩
  | .vldrow | .vstrow | .vamorow => ⟨i, e.ga + BitVec.ofNat 64 (256 * idx (i / rowElems e.vtype)), 256, 0, false, none⟩
  | _ => ⟨i, e.ga + BitVec.ofNat 64 (idx i * s), s, 0, false, none⟩

/-- The accesses of elements in order, each block's scale entry before its first code (R85, R353). -/
def piecesFrom (e : QEntry) (idx : Nat → Nat) (done : Nat) (is : List Nat) : List Piece :=
  match is with
  | [] => []
  | i :: t =>
    let j := i / unitOf e
    if movesScales e ∧ done ≤ j then
      let n := scaleBytes e.vtype
      ⟨i, e.gb + BitVec.ofNat 64 (j * n), n, 0, true, none⟩ :: pieceOf e idx i :: piecesFrom e idx (j + 1) t
    else pieceOf e idx i :: piecesFrom e idx done t

/-- The accesses an entry makes for elements lo to hi − 1. -/
def pieces (y : Ctx) (e : QEntry) (lo hi : Nat) : List Piece := piecesFrom e (indexOf y e) 0 (touched y e lo hi)

/-! Pins of the vector memory unit (R341 to R343, R346, R355). -/

/-- An entry of context `x` replaced. -/
def setEntry (s : State) (x : Nat) (e : QEntry) : State :=
  let y := ctxAt s x
  setCtx s x { y with queue := y.queue.map fun q => if q.seq = e.seq then e else q }

/-- Addresses one to a 64 KiB page, those that no translation serves left out. -/
def pageAddrs (seen : List Nat) (as : List Word) : List Word :=
  match as with
  | [] => []
  | a :: t =>
    let p := a.toNat / 65536
    if isNear a || (fld a 55 9 != 0 && fld a 55 9 != 511) || seen.contains p then pageAddrs seen t
    else a :: pageAddrs (p :: seen) t

/-- The translations of some addresses: the distinct ones, how many pages have none, and whether one migrates. -/
structure PinSet where
  pins  : List Tlb
  fails : Nat
  mig   : Bool
  st    : State

/-- Pages walked one by one (R336, R346). -/
def pinSet (s : State) (c : Nat) (as : List Word) : PinSet :=
  as.foldl (fun (r : PinSet) a =>
    let va := a.toNat % 2 ^ 56
    if r.pins.any fun t => tlbMatch t t.asid va then r else
    match translate r.st c va with
    | (.page t, s) => { r with pins := r.pins ++ [t], st := s }
    | (.migrating t, s) => { r with pins := r.pins ++ [t], mig := true, st := s }
    | (.fail _, s) => { r with fails := r.fails + 1, st := s }) ⟨[], 0, false, s⟩

/-- Pins that the vector memory unit holds on a core. -/
def unitPins (s : State) (c : Nat) : Nat := ((coreAt s c).pins.filter fun p => !p.atIssue).length

/-- The pins of an entry dropped, but for those the front took. -/
def dropUnitPins (s : State) (x seq : Nat) : State :=
  let c := ctxCore x
  let k := coreAt s c
  setCore s c { k with pins := k.pins.filter fun p => !(p.ctx == x && p.seq == seq && !p.atIssue) }

/-- The pinning step of entry `e` before its strip that ends below `top`: every page of the instruction where there are 256 or
fewer, else the strip's, unless `whole`. It waits behind earlier requests, for room, or for a page that migrates; true where it
ended with every pin taken (R342, R343, R346, R355). -/
def pinStep (s : State) (x : Nat) (e : QEntry) (whole : Bool) (all part : List Word) (top : Nat) (first : Bool) : State × Bool :=
  let c := ctxCore x
  let wait (s : State) (u : Nat) : State × Bool :=
    let k := coreAt s c
    (setCore s c { k with pinWait := k.pinWait ++ [⟨x, e.seq, u⟩] }, false)
  let a := pinSet s c (pageAddrs [] (if e.pinned = 0 then all else part))
  let serial := e.pinned ≠ 0 ∨ (!whole && decide (256 < a.pins.length + a.fails)) = true
  let p := if serial ∧ e.pinned = 0 then pinSet s c (pageAddrs [] part) else a
  if p.mig then wait p.st (cycleOf s c + 256)
  else if !first && !(coreAt s c).pinWait.isEmpty then wait p.st 0
  else if 3840 < unitPins s c + p.pins.length then wait p.st 0
  else
    let k := coreAt p.st c
    let s := setCore p.st c { k with pins := k.pins ++ p.pins.map fun t => ⟨t, x, e.seq, false⟩ }
    (setEntry s x { e with pinned := if serial then top else max e.vl top }, true)

/-- The addresses `vldw` pins: its window's pages (R355). -/
def windowAddrs (e : QEntry) : List Word :=
  let n := e.gc.toNat * elemBytes e.vtype
  if n = 0 then [] else
  tab ((e.ga.toNat % 65536 + n - 1) / 65536 + 1) 0 fun k => e.ga - BitVec.ofNat 64 (e.ga.toNat % 65536) + BitVec.ofNat 64 (65536 * k)

/-- The addresses of the accesses for elements lo to hi − 1, or of the window. -/
def memAddrs (y : Ctx) (e : QEntry) (lo hi : Nat) : List Word :=
  if e.op = .vldw then windowAddrs e else (pieces y e lo hi).map (·.ea)

/-! Where an access goes, and how it fails (R142, R349, R352, R355 to R359). -/

/-- What becomes of one access: a place, a fault with its code, or no access, marked as a scope miss (R359). -/
inductive Found where
  | place (l : Loc)
  | fault (cause : Nat)
  | miss
  deriving DecidableEq, Repr

/-- What a vector memory instruction needs of a page (R337). -/
def memNeed (o : VOp) : Need :=
  match o with
  | .vst | .vsts | .vstx | .vstrow => needW
  | .vstxa | .vamorow => needRW
  | _ => needR

/-- Whether an access of the instruction reads the line, and so meets its poison (R437). -/
def memReads (o : VOp) : Bool := (memNeed o).r

/-- Whether an instruction makes accesses no aperture takes: rows and atomics, which have their home in memory (R349, R356,
R386). -/
def memLocal (e : QEntry) : Bool := isRowForm e.op || e.op == .vstxa

/-- Whether a place holds poison for `n` bytes. -/
def badAt (s : State) (c : Nat) (l : Loc) (n : Nat) : Bool :=
  match l with
  | .phys pa => if n = 256 then rowPoisoned s c (rowOf pa) else coreLinePoisoned s c pa
  | _ => locPoisoned s c l

/-- The place an address of entry `e` reaches under its pins (R341, R349, R352). -/
def findVec (s : State) (x : Nat) (e : QEntry) (pins : List Pin) (n : Need) (ea : Word) : Found :=
  let c := ctxCore x
  let va := ea.toNat % 2 ^ 56
  if fld ea 55 9 != 0 && fld ea 55 9 != 511 then .fault 7
  else if isNear ea then
    let off := ea.toNat - nearBase
    if isRowForm e.op || decide (scratchSize s c (ctxProd x) ≤ off) then .fault 7 else .place (.scratch c (ctxProd x) off)
  else
    match pins.find? fun p => tlbMatch p.tlb p.tlb.asid va with
    | none => .fault 8
    | some p =>
      if !permits p.tlb.leaf n true then .fault 8 else
      let pa := tlbPhys p.tlb va
      if e.op = .vldsync ∧ (isAperture pa || isRemote c pa) = true then .miss
      else if isAperture pa && memLocal e then .fault 7
      else .place (.phys pa)

/-- The pins an entry's unit holds. -/
def pinsOf (s : State) (x seq : Nat) : List Pin :=
  (coreAt s (ctxCore x)).pins.filter fun p => p.ctx == x && p.seq == seq && !p.atIssue

/-- One access resolved: an index beyond its limit and a poisoned line are faults too (R355, R356, R437). -/
def resolve (s : State) (x : Nat) (e : QEntry) (pins : List Pin) (idx : Nat → Nat) (p : Piece) : Found :=
  if (e.op = .vldw ∨ e.op = .vstxa) ∧ e.gc.toNat ≤ idx p.elem then .fault 17 else
  match findVec s x e pins (memNeed e.op) p.ea with
  | .place l => if memReads e.op && (match p.got with
      | some g => g.bad
      | none => badAt s (ctxCore x) l p.n) then .fault 9 else .place l
  | r => r

/-- The physical address of an access through an aperture (R459). -/
def farOf (f : Found) : Option Nat :=
  match f with
  | .place (.phys pa) => if isAperture pa then some pa else none
  | _ => none

/-- How the work of one strip ends: done, with the entry as it now stands; stopped at an element; or waiting for packets. -/
inductive StripOut where
  | did (s : State) (e : QEntry)
  | stop (s : State) (cause : Nat) (addr : Word)
  | wait (s : State)

/-- The lowest fault among resolved accesses. -/
def firstFault (l : List (Piece × Found)) : Option (Piece × Nat) :=
  match l with
  | [] => none
  | (p, .fault c) :: _ => some (p, c)
  | _ :: t => firstFault t

/-- The faults among resolved accesses, as deferred element faults (R352). -/
def deferredFaults (l : List (Piece × Found)) : List ElemFault :=
  l.filterMap fun (p, f) => match f with
    | .fault c => some ⟨p.elem, c, p.ea⟩
    | _ => none

/-! Bytes moved. -/

/-- How often an access through an aperture stands among earlier ones. -/
def repeatsOf (seen : List (Nat × Nat)) (pa n : Nat) : Nat := (seen.filter (· == (pa, n))).length

/-- The number an access reads: what its instruction found there as it began, or now, through the L2; an aperture's from the answer
to its own READ, the one after those of `far` (R322, R329, R373, R459). -/
def readPiece (s : State) (c : Nat) (key : RKey) (far : List (Nat × Nat)) (p : Piece) (l : Loc) : Nat × State :=
  match l, p.got with
  | .phys pa, got =>
    if isAperture pa then (leNat ((remoteNth s key pa p.n false (repeatsOf far pa p.n)).elim [] (·.data)), s)
    else match got with
      | some g => (g.val, s)
      | none =>
        let s := readLine s c (lineOf pa) true
        (leNat (coreBytes s c pa p.n), s)
  | _, some g => (g.val, s)
  | _, none => (leNat (locBytes s c l p.n), s)

/-- Accesses read in order, each with its number; `far` are those gone through that went out through an aperture. -/
def readPieces (s : State) (c : Nat) (key : RKey) (far : List (Nat × Nat)) (l : List (Piece × Loc)) : List (Piece × Nat) × State :=
  match l with
  | [] => ([], s)
  | (p, a) :: t =>
    let (v, s) := readPiece s c key far p a
    let (rest, s) := readPieces s c key (match farOf (.place a) with
      | some pa => (pa, p.n) :: far
      | none => far) t
    ((p, v) :: rest, s)

/-- An element of `w` bits merged into the byte that holds it (R351). -/
def mergeBits (w : Nat) (p : Piece) (v : Nat) (old : Byte) : Byte :=
  let m : Byte := BitVec.ofNat 8 ((2 ^ w - 1) * 2 ^ p.bit)
  (old &&& ~~~m) ||| BitVec.ofNat 8 (v % 2 ^ w * 2 ^ p.bit)

/-- What a store writes, place by place in order; parts of one byte are merged into it (R351). -/
def storeBytes (s : State) (c : Nat) (w : Nat) (acc : List (Loc × List Byte)) (l : List (Piece × Loc × Nat)) :
    List (Loc × List Byte) :=
  match l with
  | [] => acc.reverse
  | (p, a, v) :: t =>
    if p.scale ∨ 8 ≤ w then storeBytes s c w ((a, leBytes p.n v) :: acc) t else
    let set := mergeBits w p v
    match acc with
    | (b, [o]) :: r => if b = a then storeBytes s c w ((b, [set o]) :: r) t
        else storeBytes s c w ((a, [set ((locBytes s c a 1).headD 0)]) :: acc) t
    | _ => storeBytes s c w ((a, [set ((locBytes s c a 1).headD 0)]) :: acc) t

/-- The offset of a place within its 32-byte line or block. -/
def locLow (l : Loc) : Nat :=
  match l with
  | .scratch _ _ o => o % 32
  | .phys a => a % 32

/-- Writes that follow one another within a line are made as one, as the unit builds a line from array rows (R164, R435, R436). -/
def coalesce (cur : Loc × List Byte) (l : List (Loc × List Byte)) : List (Loc × List Byte) :=
  match l with
  | [] => [cur]
  | (a, bs) :: t =>
    if locAdd cur.1 cur.2.length = a ∧ locLow cur.1 + cur.2.length < 32 then coalesce (cur.1, cur.2 ++ bs) t
    else cur :: coalesce (a, bs) t

/-- Writes made in order. -/
def writeRuns (s : State) (c : Nat) (l : List (Loc × List Byte)) : State := l.foldl (fun s r => locWrite s c r.1 r.2) s

/-! One access in the total order (R373, R378). -/

/-- The blocks of scratch that `n` bytes at an address of context `x` touch. -/
def scratchLines (x : Nat) (a : Word) (n : Nat) : List Loc :=
  let o := a.toNat - nearBase
  if n = 0 then [] else tab ((o % 32 + n + 31) / 32) 0 fun i => .scratch (ctxCore x) (ctxProd x) (o / 32 * 32 + 32 * i)

/-- The lines of an access, in order. -/
def pieceLines (p : Piece) (l : Loc) : List Loc :=
  tab ((locLow l + p.n + 31) / 32) 0 fun i => match l with
    | .scratch c k o => .scratch c k (o / 32 * 32 + 32 * i)
    | .phys a => .phys (a / 32 * 32 + 32 * i)

/-- The lines of some accesses, none listed twice in a row; an aperture has none (R459). -/
def linesFrom (last : Option Loc) (l : List Loc) : List Loc :=
  match l with
  | [] => []
  | a :: t => if last = some a then linesFrom last t else a :: linesFrom (some a) t

/-- The places among resolved accesses. -/
def placesOf (l : List (Piece × Found)) : List (Piece × Loc) :=
  l.filterMap fun (p, f) => match f with
    | .place a => some (p, a)
    | _ => none

/-- The lines that some resolved accesses reach (R378). -/
def linesOf (l : List (Piece × Found)) : List Loc :=
  linesFrom none (((placesOf l).filter fun q => (farOf (.place q.2)).isNone).map fun q => pieceLines q.1 q.2).flatten

/-- Whether another engine's instruction or operation owns one of some lines, of those that the entry does not own: the access waits
until it has written them (R378). -/
def ownedElsewhere (s : State) (x seq : Nat) (ls : List Loc) : Bool :=
  let own := (((ctxAt s x).queue.find? fun q => q.seq == seq).elim [] (·.owned))
  (ls.filter fun l => !own.contains l).any fun l =>
    (s.ctxs.any fun (k, y) => y.queue.any fun q => (k != x || q.seq != seq) && q.owned.contains l) || copierOwns s (fun _ => true) l 32

/-- What a load finds at its later accesses as its first strip begins: it counts as one access (R373). -/
def seeAhead (s : State) (c : Nat) (l : List (Piece × Found)) : List Seen × State :=
  match l with
  | [] => ([], s)
  | (p, f) :: t =>
    let (g, s) : Seen × State := match f with
      | .place (.phys pa) =>
        if isAperture pa then (⟨p.elem, p.scale, 0, false, false⟩, s)
        else if p.n = 256 then
          let (bs, old, s) := rowRead s c (rowOf pa)
          (⟨p.elem, p.scale, leNat bs, false, old⟩, s)
        else
          let s := readLine s c (lineOf pa) true
          (⟨p.elem, p.scale, leNat (coreBytes s c pa p.n), false, false⟩, s)
      | .place l => (⟨p.elem, p.scale, leNat (locBytes s c l p.n), false, false⟩, s)
      | .fault 9 => (⟨p.elem, p.scale, 0, true, false⟩, s)
      | _ => (⟨p.elem, p.scale, 0, false, false⟩, s)
    let (r, s) := seeAhead s c t
    (g :: r, s)

/-- Whether an entry's pages were pinned for the whole instruction: a strip-serial one is one access strip by strip (R342, R378). -/
def wholePinned (e : QEntry) : Bool := decide (e.vl ≤ e.pinned)

/-- The accesses of a strip from element `lo` up, with what the instruction's first strip found there (R373). -/
def withSeen (e : QEntry) (lo : Nat) (l : List Piece) : List Piece :=
  let g := e.seen.filter fun q => decide (lo ≤ q.elem)
  if l.length ≤ g.length then (l.zip g).map fun q => { q.1 with got := some q.2 } else l

/-- The entry once a strip's loads have performed: with the first, what its later accesses `rest` find (R373). -/
def sawAhead (s : State) (x : Nat) (e : QEntry) (rest : List (Piece × Found)) : QEntry × State :=
  if e.seen = [] ∧ wholePinned e = true then
    let (g, s) := seeAhead s (ctxCore x) rest
    ({ e with seen := g }, s)
  else (e, s)

/-- The lines an instruction owns while its accesses `rest` are still to make (R378). -/
def ownAhead (e : QEntry) (rest : List (Piece × Found)) : QEntry :=
  { e with owned := if wholePinned e then linesOf rest else [] }

/-- Packets for accesses through apertures, each repeated access a packet of its own (R459). -/
def packets (data : Piece → Option (List Byte)) (l : List (Piece × Loc)) : List (Nat × Nat × Option (List Byte)) :=
  l.filterMap fun (p, a) => (farOf (.place a)).map fun pa => (pa, p.n, data p)

/-- The accesses of a store that write part of a byte of an aperture, each with its address (R351, R459). -/
def farParts (w : Nat) (l : List (Piece × Loc)) : List (Nat × Piece) :=
  if 8 ≤ w then [] else l.filterMap fun (p, a) => if p.scale then none else (farOf (.place a)).map fun pa => (pa, p)

/-- The bytes of an aperture that a store writes in part, each once: they are read first (R351, R459; log 18). -/
def partReads (w : Nat) (l : List (Piece × Loc)) : List (Nat × Nat × Option (List Byte)) :=
  ((farParts w l).map (·.1)).eraseDups.map fun pa => (pa, 1, none)

/-- The packets of a store through apertures: each byte written in part goes whole, with the rest as its READ gave it (R351, R459;
log 18). -/
def storePackets (s : State) (key : RKey) (w : Nat) (val : Piece → Nat) (l : List (Piece × Loc)) :
    List (Nat × Nat × Option (List Byte)) :=
  packets (fun p => some (leBytes p.n (val p))) (l.filter fun q => q.1.scale || decide (8 ≤ w)) ++
    (partReads w l).map fun r =>
      let old := ((remoteGot s key r.1 1 false).elim [] (·.data)).headD 0
      (r.1, 1, some [((farParts w l).filter fun q => q.1 == r.1).foldl (fun b q => mergeBits w q.2 (val q.2) b) old])

/-- Records of the aperture stores that were refused or lost (R459). -/
def refusedStores (s : State) (x : Nat) (key : RKey) : State :=
  (s.door.remotes.filter fun r => r.key == key && r.write && r.status != some 0).foldl (fun s r =>
    faultRecord s (ctxCore x) ⟨8, 0, ctxProd x, BitVec.ofNat 64 r.pa, 0, 0, r.status.getD 0⟩) s

/-! Element strips (R350 to R355, R359). -/

/-- Bits of an element as a store sends it. -/
def storedValue (y : Ctx) (e : QEntry) : Piece → Nat :=
  let d := src y e.f.d.toNat
  let w := vtSew e.vtype
  fun p => if p.scale then scaleAt d w (p.elem / unitOf e * unitOf e) else d.at w p.elem

/-- Loaded numbers put into the destination: codes of the elements, and scale entries into the companion rows of whole blocks
(R350, R353). -/
def putLoaded (y : Ctx) (e : QEntry) (lo : Nat) (l : List (Piece × Nat)) : Ctx :=
  let w := vtSew e.vtype
  let d := e.f.d.toNat
  let n := unitOf e
  let y := (l.filter fun x => x.1.scale).foldl (fun y x =>
    let b0 := x.1.elem / n * n
    putScale y w d (scaleBytes e.vtype == 1) b0 (b0 + n) x.2) y
  let codes := l.filter fun x => !x.1.scale
  let top := codes.foldl (fun t x => max t (x.1.elem + 1)) lo
  putPairs y w d lo top (codes.map fun x => (x.1.elem, x.2 / 2 ^ x.1.bit))

/-- The accesses of a strip after its faults: those to make, and the entry with what it records; or where it stops (R352,
R354). -/
inductive Sifted where
  | go (e : QEntry) (l : List (Piece × Loc)) (missed : List Nat)
  | stop (cause : Nat) (addr : Word)

/-- The elements that missed their scope (R359). -/
def missesOf (l : List (Piece × Found)) : List Nat :=
  l.filterMap fun (p, f) => match f with
    | .miss => some p.elem
    | _ => none

/-- The faults of a strip taken by class (R352, R354). A `vldff` that has started keeps a 1 in `acc`. -/
def sift (e : QEntry) (l : List (Piece × Found)) : Sifted :=
  match firstFault l with
  | none => .go e (placesOf l) (missesOf l)
  | some (p, cause) =>
    match e.op with
    | .vldw | .vstxa => .go { e with faults := e.faults ++ deferredFaults l } (placesOf l) (missesOf l)
    | .vldff =>
      let below := l.filter fun x => decide (x.1.elem < p.elem)
      if e.acc = [] ∧ below = [] then .stop cause p.ea
      else .go { e with acc := [BitVec.ofNat 64 p.elem, BitVec.ofNat 64 cause], st := .done } (placesOf below) []
    | _ => .stop cause p.ea

/-- The answers of packets put in place of the accesses they refused: a seal fault; `far` are those gone through (R459, R352). -/
def withAnswers (s : State) (key : RKey) (write : Bool) (far : List (Nat × Nat)) (l : List (Piece × Found)) : List (Piece × Found) :=
  match l with
  | [] => []
  | (p, f) :: t =>
    match farOf f with
    | some pa =>
      let bad := (remoteNth s key pa p.n write (repeatsOf far pa p.n)).any fun r => r.status != some 0
      (p, if bad then .fault 9 else f) :: withAnswers s key write ((pa, p.n) :: far) t
    | none => (p, f) :: withAnswers s key write far t

/-- The accesses of elements lo to hi − 1, resolved. -/
def foundFor (s : State) (x : Nat) (e : QEntry) (lo hi : Nat) : List (Piece × Found) :=
  let y := ctxAt s x
  let pins := pinsOf s x e.seq
  let idx := indexOf y e
  (withSeen e lo (pieces y e lo hi)).map fun p => (p, resolve s x e pins idx p)

/-- The accesses of the strips after one that ends below `hi`, resolved. -/
def foundAhead (s : State) (x : Nat) (e : QEntry) (hi : Nat) : List (Piece × Found) :=
  if hi < e.vl then foundFor s x { e with seen := [] } hi e.vl else []

/-- One strip of an element form (R350 to R355, R359, R373, R378). -/
def stripElems (s : State) (x : Nat) (e : QEntry) (lo hi : Nat) : StripOut :=
  let c := ctxCore x
  let y := ctxAt s x
  let key := RKey.strip x e.seq
  let store := isVecStore e.op
  let found := foundFor s x e lo hi
  let rest := foundAhead s x e hi
  match sift e found with
  | .stop cause addr => .stop s cause addr
  | .go _ l _ =>
    if ownedElsewhere s x e.seq (linesOf (found ++ rest)) then .wait s else
    let val := storedValue y e
    let w := vtSew e.vtype
    let s := remoteSend s key (if store then partReads w l else packets (fun _ => none) l)
    let found := withAnswers s key false [] found
    let sent := if store ∧ remoteAll s key = true ∧ (firstFault found).isNone then remoteSend s key (storePackets s key w val l) else s
    if !remoteAll sent key then .wait (if store then setEntry sent x (ownAhead e (found ++ rest)) else sent) else
    let s := if store then refusedStores sent x key else sent
    match sift e (if store then withAnswers s key true [] found else found) with
    | .stop cause addr => .stop (remoteClear s key) cause addr
    | .go e l missed =>
      if store then
        let near := l.filter fun (_, a) => (farOf (.place a)).isNone
        let runs := match storeBytes s c w [] (near.map fun (p, a) => (p, a, val p)) with
          | [] => []
          | r :: t => coalesce r t
        .did (writeRuns (remoteClear s key) c runs) (ownAhead e rest)
      else
        let (vals, s) := readPieces s c key [] l
        let (e, s) := sawAhead s x e rest
        let s := match e.op, y.bound, firstFault found with
          | .vldff, some i, some (p, 8) => walkRecordAt s i p.ea
          | _, _, _ => s
        let y := putLoaded (ctxAt s x) e lo vals
        let m := touched y e lo hi
        let y := if e.op = .vldsync then putM y e.f.c.toNat lo hi fun i => if m.contains i then some (missed.contains i) else none else y
        let e := if e.op = .vldff ∧ e.st ≠ .done then { e with acc := [1] } else e
        .did (setCtx (remoteClear s key) x y) e

/-! vstxa (R356). -/

/-- ADD of R356 on patterns: integers wrap; floats round under VTYPE.RM, to nearest even under SR. -/
def addPat (e : QEntry) (p q : Nat) : Nat × BitVec 6 :=
  let w := vtSew e.vtype
  if vtFmt e.vtype ≤ 1 then ((p + q) % 2 ^ w, 0) else
  let f := fmtOf (vtFmt e.vtype)
  let c0 := entryRounding e
  let c : Rounding := { c0 with mode := if c0.mode = .sr then .rne else c0.mode }
  let r := addNum c.mode (flushNum c (decNum f p)) (flushNum c (decNum f q))
  let (bits, st) := encNum f c r.1 ⟨r.2, 0⟩
  (bits, st.flags)

/-- The contributions of a strip summed by place, in order of first appearance (R356). -/
def sumByPlace (e : QEntry) (acc : List (Loc × Nat)) (fl : BitVec 6) (l : List (Loc × Nat)) : List (Loc × Nat) × BitVec 6 :=
  match l with
  | [] => (acc, fl)
  | (a, v) :: t =>
    match acc.find? fun r => r.1 == a with
    | none => sumByPlace e (acc ++ [(a, v)]) fl t
    | some r =>
      let (b, f) := addPat e r.2 v
      sumByPlace e (acc.map fun q => if q.1 = a then (a, b) else q) (fl ||| f) t

/-- The sums added into memory at their homes, one atomic update each (R356). -/
def addAtHomes (s : State) (c : Nat) (e : QEntry) (fl : BitVec 6) (l : List (Loc × Nat)) : State × BitVec 6 :=
  match l with
  | [] => (s, fl)
  | (a, v) :: t =>
    let n := elemBytes e.vtype
    let (bs, s) := cardHome s c a n
    let (b, f) := addPat e (leNat bs) v
    addAtHomes (cardPut s c a (leBytes n b)) c e (fl ||| f) t

/-- Whether the FP32 word that `vstxa` would add to is a hook at its home (R88, R356). -/
def hookAtHome (s : State) (c : Nat) (e : QEntry) (l : Loc) : Bool :=
  vtFmt e.vtype == 3 && isHook (leNat (cardHome s c l 4).1)

/-- One strip of `vstxa`: faulting elements are recorded, hooks among the data and, for every element that would be added to one,
hooks in memory; the others contribute (R88, R356). -/
def stripAdd (s : State) (x : Nat) (e : QEntry) (lo hi : Nat) : StripOut :=
  let c := ctxCore x
  let y := ctxAt s x
  let d := src y e.f.d.toNat
  let w := vtSew e.vtype
  let found := (foundFor s x e lo hi).map fun (p, f) =>
    (p, match f with
      | .place l => if (vtFmt e.vtype == 3 && isHook (d.at 32 p.elem)) || hookAtHome s c e l then .fault 16 else .place l
      | r => r)
  let rest := foundAhead s x e hi
  if ownedElsewhere s x e.seq (linesOf (found ++ rest)) then .wait s else
  let (sums, f1) := sumByPlace e [] 0 ((placesOf found).map fun (p, a) => (a, d.at w p.elem))
  let (s, f2) := addAtHomes s c e f1 sums
  .did s (ownAhead { e with faults := e.faults ++ deferredFaults found, flags := e.flags ||| f2 } rest)

/-! Row forms (R357, R358). -/

/-- The bytes of row slot `i / E` as the destination register holds them. -/
def rowOut (y : Ctx) (e : QEntry) (i : Nat) : List Byte :=
  let d := src y e.f.d.toNat
  (tab (rowElems e.vtype) i fun k => leBytes (elemBytes e.vtype) (d.at (vtSew e.vtype) k)).flatten

/-- A row's bytes put into elements i to i + E − 1. -/
def rowIn (y : Ctx) (e : QEntry) (i : Nat) (bs : List Byte) : Ctx :=
  let n := elemBytes e.vtype
  let a := bs.toArray
  putV y (vtSew e.vtype) e.f.d.toNat i (i + rowElems e.vtype) fun k =>
    some (leNat (tab n ((k - i) * n) fun j => a.getD j 0))

/-- OP of R358 on BF16 patterns. -/
def rowOp (e : QEntry) (p q : Nat) : Nat × BitVec 6 :=
  let x := decNum bf16 p
  let z := decNum bf16 q
  if e.gc.toNat = 1 then minMaxPat bf16 true p q x z else
  let r := addNum .rne x z
  let (bits, st) := encNum bf16 ⟨.rne, false, false, fmtMin bf16⟩ r.1 ⟨r.2, 0⟩
  (bits, st.flags)

/-- OP over two rows of patterns. -/
def rowCombine (e : QEntry) (fl : BitVec 6) (a b : List Nat) : List Nat × BitVec 6 :=
  match a, b with
  | p :: s, q :: t =>
    let (r, f) := rowOp e p q
    let (rest, fl) := rowCombine e (fl ||| f) s t
    (r :: rest, fl)
  | _, _ => ([], fl)

/-- The rows a `vamorow` has combined so far, as `acc` holds them: index, physical address, patterns (R358). -/
def rowGroups (fuel : Nat) (acc : List Word) : List (Nat × Nat × List Nat) :=
  match fuel, acc with
  | fuel + 1, i :: pa :: t => (i.toNat, pa.toNat, (t.take 128).map BitVec.toNat) :: rowGroups fuel (t.drop 128)
  | _, _ => []

/-- The rows as `acc` holds them. -/
def groupWords (l : List (Nat × Nat × List Nat)) : List Word :=
  (l.map fun (i, pa, v) => BitVec.ofNat 64 i :: BitVec.ofNat 64 pa :: v.map fun p => BitVec.ofNat 64 p).flatten

/-- Halfword patterns of bytes. -/
def halves (fuel : Nat) (bs : List Byte) : List Nat :=
  match fuel, bs with
  | fuel + 1, a :: b :: t => (a.toNat + 256 * b.toNat) :: halves fuel t
  | _, _ => []

/-- Each combined row updated at its home, one atomic row-scope read-modify-write (R358, R381). -/
def rowUpdates (s : State) (c : Nat) (e : QEntry) (fl : BitVec 6) (l : List (Nat × Nat × List Nat)) : State × BitVec 6 :=
  match l with
  | [] => (s, fl)
  | (_, pa, v) :: t =>
    let s := dropRow s c (rowOf pa)
    let (r, fl) := rowCombine e fl (halves 129 (memBytes s.mem pa 256)) v
    rowUpdates (rowWrite s c pa ((r.map (leBytes 2)).flatten)) c e fl t

/-- The rows an entry has combined are updated; it keeps none, and owns no line any more (R358, R378). -/
def flushRows (s : State) (x : Nat) (e : QEntry) : State × QEntry :=
  let l := rowGroups (e.acc.length + 1) e.acc
  let (s, fl) := rowUpdates s (ctxCore x) e 0 l
  (s, { e with acc := [], flags := e.flags ||| fl, owned := [] })

/-- The entry as its last strip has run or been passed: a `vamorow` then updates its rows (R358). -/
def lastStripDone (s : State) (x : Nat) (e : QEntry) : State × QEntry :=
  if e.op = .vamorow ∧ (nextStrip (ctxAt s x) e).isNone then flushRows s x e else (s, e)

/-- A row slot joins the rows combined so far (R358). -/
def joinRow (e : QEntry) (idx pa : Nat) (v : List Nat) (l : List (Nat × Nat × List Nat)) :
    List (Nat × Nat × List Nat) × BitVec 6 :=
  match l with
  | [] => ([(idx, pa, v)], 0)
  | (i, q, u) :: t =>
    if i = idx then
      let (r, f) := rowCombine e 0 u v
      ((i, q, r) :: t, f)
    else
      let (r, f) := joinRow e idx pa v t
      ((i, q, u) :: r, f)

/-- The row slots of a strip moved, in ascending order (R357, R358). -/
def moveRows (s : State) (x : Nat) (e : QEntry) (idx : Nat → Nat) (l : List (Piece × Loc)) : State × QEntry :=
  match l with
  | [] => (s, e)
  | (p, .scratch _ _ _) :: t => moveRows s x { e with faults := e.faults ++ [⟨p.elem, 7, p.ea⟩] } idx t
  | (p, .phys pa) :: t =>
    let c := ctxCore x
    match e.op with
    | .vldrow =>
      let (bs, old, s) := match p.got with
        | some g => (leBytes 256 g.val, g.old, s)
        | none => rowRead s c (rowOf pa)
      let s := setCtx s x (rowIn (ctxAt s x) e p.elem bs)
      let e := if old then { e with acc := [e.acc.headD 0 + 1] } else e
      moveRows s x e idx t
    | .vstrow => moveRows (rowWrite s c pa (rowOut (ctxAt s x) e p.elem)) x e idx t
    | _ =>
      let (g, fl) := joinRow e (idx (p.elem / 128)) pa (halves 129 (rowOut (ctxAt s x) e p.elem))
        (rowGroups (e.acc.length + 1) e.acc)
      moveRows s x { e with acc := groupWords g, flags := e.flags ||| fl } idx t

/-- One strip of a row form (R357, R358, R373, R378). -/
def stripRows (s : State) (x : Nat) (e : QEntry) (lo hi : Nat) : StripOut :=
  let e := captureIndices (ctxAt s x) e
  let idx := indexOf (ctxAt s x) e
  let found := foundFor s x e lo hi
  let rest := foundAhead s x e hi
  match sift e found with
  | .stop cause addr =>
    if e.op = .vamorow then
      let (s, e) := flushRows s x e
      .stop (setEntry s x e) cause addr
    else .stop s cause addr
  | .go e l _ =>
    if ownedElsewhere s x e.seq (linesOf (found ++ rest)) then .wait s else
    let (s, e) := moveRows s x e idx l
    match e.op with
    | .vldrow =>
      let (e, s) := sawAhead s x e rest
      .did s e
    | .vstrow => .did s (ownAhead e rest)
    | _ =>
      let own := if e.owned = [] ∧ wholePinned e = true then linesOf (found ++ rest) else e.owned
      .did s { e with owned := own }

/-- One strip of a page 4 instruction, its pins held. -/
def stripMem (s : State) (x : Nat) (e : QEntry) (lo hi : Nat) : StripOut :=
  if isRowForm e.op then stripRows s x e lo hi
  else if e.op = .vstxa then stripAdd s x e lo hi
  else stripElems s x e lo hi

end Sys2Proof.Machine
end

