-- ==== Sys2Proof/Machine/Product.lean ====
section
/-! DEFINITION. Page 5 at issue: the checks and entries of product mode, verdict accumulations and the tile unit (10 R262 to
R287; 11 R288 to R304). -/

namespace Sys2Proof.Machine

/-! Format-types (R265, R266). -/

/-- Width of a product element, and whether its class is an integer one (R265). -/
structure FtInfo where
  w   : Nat
  int : Bool
  deriving DecidableEq, Repr

/-- What a format-type names, where it is one of R265. -/
def ftInfo (ft : Nat) : Option FtInfo :=
  match ft / 8, ft % 8 with
  | 0, 2 | 1, 2 => some ⟨4, true⟩
  | 8, 2 | 10, 2 => some ⟨4, false⟩
  | 0, 3 | 1, 3 => some ⟨8, true⟩
  | 6, 3 | 7, 3 | 9, 3 | 11, 3 => some ⟨8, false⟩
  | 2, 4 | 5, 4 => some ⟨16, false⟩
  | _, _ => none

/-- Bits of a product element. -/
def ftWidth (ft : Nat) : Nat :=
  match ftInfo ft with
  | some i => i.w
  | none => 4

/-- Whether a format-type is of an integer class. -/
def ftInt (ft : Nat) : Bool := (ftInfo ft).any fun i => i.int

/-- Bytes of a block's scale entry: 1 for MX, 2 for BX, 0 for a format with no scales (R85). -/
def ftScale (ft : Nat) : Nat :=
  match blockFmt (ft / 8) with
  | some b => if isMx b then 1 else 2
  | none => 0

/-- Array cycles per product (R265). -/
def ftRate (ft : Nat) : Nat := ftWidth ft / 4

/-- Block positions of a band (R267). -/
def bandBlocks (b : BandDesc) : Nat := if b.l = 0 then 0 else b.kc / b.l

/-- Rows a band of format-type `ft` needs (R269). -/
def bandRows (ft kc nb : Nat) (bnd : Bool) : Nat :=
  kc * ftWidth ft + (if ftScale ft = 0 then 0 else 16 * nb) + (if bnd then 8 * nb else 0)

/-- Gang size of an entry (R272). -/
def gangOf (e : QEntry) : Nat := 2 ^ e.logG

/-! pload (R269, R270) -/

/-- The band a `pload` would set (R269, R270). -/
def ploadBand (e : QEntry) : BandDesc :=
  ⟨e.f.d.toNat, fld e.gb 12 6, fld e.gb 0 7, fld e.gb 24 12, productLen (fld e.gb 0 7) e.vtype, bitOf e.gb 9⟩

/-- The checks of pload (R269). -/
def checkPload (s : State) (k : Nat) (e : QEntry) : Checked :=
  let y := ctxAt s k
  let b := ploadBand e
  let soff := fld e.gb 44 20
  let ok := fld e.gb 36 8 == 0 && fld e.gb 18 6 == 0 && fld e.gb 10 2 == 0 && fld e.gb 7 2 == 0 && (ftInfo b.ft).isSome &&
    decide (1 ≤ b.kc) && decide (b.kc ≤ 256) && b.kc % b.l == 0 && b.regs != 0 && decide (b.band + b.regs ≤ 32) &&
    decide (bandRows b.ft b.kc (bandBlocks b) b.bnd ≤ 32 * b.regs) && y.vl % 2 ^ y.logG == 0
  let sc := e.ga + BitVec.ofNat 64 soff
  if !ok then .trap 14 0
  else if e.ga.toNat % 8 ≠ 0 then .trap 6 e.ga
  else if ftScale b.ft = 2 ∧ sc.toNat % 2 ≠ 0 then .trap 6 sc
  else .ok { e with band := b } s

/-- PLOAD (R269, R270). -/
def execPload (d : VReg) (a b : GReg) (s : State) : Result :=
  issueVec s .pload ⟨d, a, b, 0, VMask.all⟩ ⟨some a, some b, none⟩ checkPload

/-! pgang and vdcfg (R272, R289, R291) -/

/-- A page 5 instruction that takes no entry: its value applies to what follows in program order (R272, R291). -/
def productSetting (s : State) (a : GReg) (ok : Word → Bool) (f : Ctx → Word → Ctx) : Result :=
  if (me s).handler then privTrap s else
  match myCtx s with
  | none => .next (takeTrap s 13 0)
  | some k =>
    if trimming (ctxAt s k) then .next (park s (.entry 0)) else
    withOps s [a] [] [] fun vs s' =>
      if ok (opnd vs 0) then .next (advance (setCtx s' k (f (ctxAt s' k) (opnd vs 0)))) else .next (takeTrap s 14 0)

/-- A power of two from 1 to 512. -/
def gangOk (x : Word) : Bool := (tab 10 0 fun n => 2 ^ n).contains x.toNat

/-- PGANG (R272). -/
def execPgang (a : GReg) (s : State) : Result :=
  productSetting s a gangOk fun y x => { y with logG := Nat.log2 x.toNat }

/-- Whether a VDCFG value is valid (R289). -/
def vdcfgValid (x : Word) : Bool :=
  match fld x 0 2, bitOf x 2 with
  | 1, false => fld x 3 29 == 0 && !isNan (decNum fp32 (fld x 32 32))
  | 1, true => true
  | 2, t => t
  | _, _ => true

/-- VDCFG (R291). -/
def execVdcfg (a : GReg) (s : State) : Result := productSetting s a vdcfgValid fun y x => { y with vdcfg := x }

/-! prow (R274, R275) -/

/-- Bytes of a `prow`'s rows. -/
def prowBytes (e : QEntry) : Nat := fld e.gb 16 5 * fld e.gb 24 16 * ftWidth (fld e.gb 0 7) / 8
/-- Bytes of a `prow`'s scales. -/
def prowScales (e : QEntry) : Nat :=
  fld e.gb 16 5 * (fld e.gb 24 16 / productLen (fld e.gb 0 7) e.vtype) * ftScale (fld e.gb 0 7)

/-- Whether `n` bytes at an address lie wholly in the slot's scratch (R274, R285). -/
def inScratch (s : State) (ea : Word) (n : Nat) : Bool :=
  isNear ea && decide (ea.toNat - nearBase + n ≤ scratchSize s (myCore s) (me s).prodid)

/-- The checks of prow (R274). -/
def checkProw (s : State) (_k : Nat) (e : QEntry) : Checked :=
  let ft := fld e.gb 0 7
  let m := fld e.gb 16 5
  let n := fld e.gb 24 16
  let ok := fld e.gb 40 4 == 0 && fld e.gb 21 3 == 0 && fld e.gb 9 7 == 0 && fld e.gb 7 1 == 0 && (ftInfo ft).isSome &&
    decide (1 ≤ m) && decide (m ≤ 16) && decide (1 ≤ n) && decide (n ≤ 16384) && n % productLen ft e.vtype == 0 &&
    decide (prowBytes e + prowScales e ≤ 8192)
  let sc := e.ga + BitVec.ofNat 64 (fld e.gb 44 20)
  if !ok then .trap 14 0
  else if e.ga.toNat % 8 ≠ 0 then .trap 6 e.ga
  else if !inScratch s e.ga (prowBytes e) then .trap 7 e.ga
  else if prowScales e ≠ 0 ∧ inScratch s sc (prowScales e) = false then .trap 7 sc
  else .ok e s

/-- PROW (R274, R275). -/
def execProw (a b : GReg) (s : State) : Result :=
  issueVec s .prow ⟨0, a, b, 0, VMask.all⟩ ⟨some a, some b, none⟩ checkProw

/-! mma and mmav (R278, R303) -/

/-- Whether two runs of registers overlap. -/
def runsOverlap (a n b k : Nat) : Bool := decide (a < b + k) && decide (b < a + n)

/-- The checks of R278 after the reserved bits: the entry with the buffer's row count. -/
def checkMma (y : Ctx) (e : QEntry) : Option QEntry :=
  let b := y.bandIssue
  let h := look y.holdsIssue (fld e.ga 0 1) hold0
  let d := e.f.d.toNat
  if b.regs != 0 && h.held && ftWidth h.ft == ftWidth b.ft && ftInt h.ft == ftInt b.ft && h.l == b.l &&
      h.k == 2 ^ y.logG * b.kc && y.vl % 2 ^ y.logG == 0 && decide (d + h.m ≤ 32) && !runsOverlap d h.m b.band b.regs then
    some { e with acc := [BitVec.ofNat 64 h.m] } else none

/-- MMA (R278). -/
def execMma (d : VReg) (a : GReg) (k : VMask) (s : State) : Result :=
  issueVec s .mma ⟨d, a, 0, 0, k⟩ ⟨some a, none, none⟩ fun s n e =>
    if fld e.ga 3 61 ≠ 0 then .trap 14 0 else
    match checkMma (ctxAt s n) e with
    | some e => .ok e s
    | none => .trap 14 0

/-- What mmav asks beyond mma (R303). -/
def mmavOk (y : Ctx) (e : QEntry) : Bool :=
  let b := y.bandIssue
  let r := fld e.ga 8 5
  !ftInt b.ft && y.logG == 0 && b.bnd && vdcfgValid e.vdcfg &&
  !(bitOf e.ga 7 && (runsOverlap r 1 e.f.d.toNat (e.acc.headD 0).toNat || runsOverlap r 1 b.band b.regs))

/-- MMAV (R302, R303). -/
def execMmav (d : VReg) (a : GReg) (k : VMask) (s : State) : Result :=
  issueVec s .mmav ⟨d, a, 0, 0, k⟩ ⟨some a, none, none⟩ fun s n e =>
    if fld e.ga 13 51 ≠ 0 ∨ fld e.ga 3 4 ≠ 0 then .trap 14 0 else
    match checkMma (ctxAt s n) e with
    | none => .trap 14 0
    | some e =>
      if !mmavOk (ctxAt s n) e then .trap 14 0
      else if readsVerdict e then pinAtIssue s n e needR (e.vdcfg &&& ~~~7) 8
      else .ok e s

/-! pbnd and ptree (R282, R296) -/

/-- PBND (R296). -/
def execPbnd (a b : GReg) (s : State) : Result :=
  issueVec s .pbnd ⟨0, a, b, 0, VMask.all⟩ ⟨some a, some b, none⟩ fun s n e =>
    let y := ctxAt s n
    operandCheck e s (fld e.gb 2 62 == 0 && y.bandIssue.regs != 0 && y.bandIssue.bnd)

/-- PTREE (R282). -/
def execPtree (d a : VReg) (s : State) : Result :=
  issueVec s .ptree ⟨d, a, 0, 0, VMask.all⟩ noG fun s n e =>
    let y := ctxAt s n
    let f := vtFmt e.vtype
    operandCheck e s (vtSew e.vtype == 32 && (f == 0 || f == 1 || f == 3) && y.vl % 2 ^ y.logG == 0)

/-! The tile unit (R285 to R287) -/

/-- Bytes of a `tmma` panel's value. -/
def tmmaSize (e : QEntry) : Nat := if fld e.gb 0 2 = 1 then 4 else 8
/-- K-steps of a `tmma`. -/
def tmmaSteps (e : QEntry) : Nat := fld e.gb 28 16
/-- The B panel's address. -/
def tmmaB (e : QEntry) : Word := e.ga + BitVec.ofNat 64 (fld e.gb 44 20)

/-- The checks of tmma (R285). -/
def checkTmma (s : State) (_k : Nat) (e : QEntry) : Checked :=
  let z := tmmaSize e
  let n := 8 * z * tmmaSteps e
  if fld e.gb 4 24 ≠ 0 ∨ fld e.gb 2 1 ≠ 0 ∨ 2 ≤ fld e.gb 0 2 then .trap 14 0
  else if bitOf e.gb 3 then .ok e s
  else if e.ga.toNat % z ≠ 0 then .trap 6 e.ga
  else if fld e.gb 44 20 % z ≠ 0 then .trap 6 (tmmaB e)
  else if n = 0 then .ok e s
  else if !inScratch s e.ga n then .trap 7 e.ga
  else if !inScratch s (tmmaB e) n then .trap 7 (tmmaB e)
  else .ok e s

/-- TMMA (R285). -/
def execTmma (d : AReg) (a b : GReg) (s : State) : Result :=
  issueVec s .tmma ⟨d.setWidth 5, a, b, 0, VMask.all⟩ ⟨some a, some b, none⟩ checkTmma

/-- TZERO (R286). -/
def execTzero (d : AReg) (s : State) : Result :=
  issueVec s .tzero ⟨d.setWidth 5, 0, 0, 0, VMask.all⟩ noG fun s _ e => .ok e s

/-- The checks of tld and tst (R286). -/
def checkTile (n : Need) (s : State) (k : Nat) (e : QEntry) : Checked :=
  if e.ga.toNat % 8 ≠ 0 then .trap 6 e.ga else pinAtIssue s k e n e.ga 512

/-- TLD (R286). -/
def execTld (d : AReg) (a : GReg) (s : State) : Result :=
  issueVec s .tld ⟨d.setWidth 5, a, 0, 0, VMask.all⟩ ⟨some a, none, none⟩ (checkTile needR)

/-- TST (R286). -/
def execTst (d : AReg) (a : GReg) (s : State) : Result :=
  issueVec s .tst ⟨d.setWidth 5, a, 0, 0, VMask.all⟩ ⟨some a, none, none⟩ (checkTile needW)

/-- The checks of tacc and trow (R287). -/
def checkTacc (s : State) (k : Nat) (e : QEntry) : Checked :=
  let y := ctxAt s k
  let rows := fld e.gb 4 4
  operandCheck e s (fld e.gb 48 16 == 0 && fld e.gb 8 8 == 0 && decide (1 ≤ rows) && decide (rows ≤ 8) &&
    decide (fld e.gb 0 4 ≤ 3) && !(fld e.gb 0 4 == 3 && e.f.a.toNat % 2 == 1) &&
    (y.vl == 0 || decide (fld e.gb 16 16 + fld e.gb 32 16 * (8 * rows - 1) < y.vl)))

/-- TACC (R287). -/
def execTacc (d : AReg) (a : VReg) (b : GReg) (s : State) : Result :=
  issueVec s .tacc ⟨d.setWidth 5, a, b, 0, VMask.all⟩ ⟨none, some b, none⟩ checkTacc

/-- TROW (R287). -/
def execTrow (d : AReg) (a : VReg) (b : GReg) (s : State) : Result :=
  issueVec s .trow ⟨d.setWidth 5, a, b, 0, VMask.all⟩ ⟨none, some b, none⟩ checkTacc

end Sys2Proof.Machine
end

