-- ==== Sys2Proof/Machine/ProductLanes.lean ====
section
/-! DEFINITION. What the strips of pload, pbnd, mma and mmav do, a prow's fill, and ptree (10 R267 to R282; 11 R294 to R307). -/

namespace Sys2Proof.Machine

/-! Columns of a band (R267, R268). -/

/-- The rows of a band's registers. -/
def bandRegs (y : Ctx) (b : BandDesc) : List (Array Row32) := tab b.regs b.band fun r => (look y.v r []).toArray

/-- The bits of column `j`: bit t is band row t (R267). -/
def columnBits (regs : List (Array Row32)) (j : Nat) : Nat :=
  match regs with
  | [] => 0
  | r :: t => (r.getD j 0).toNat + 2 ^ 32 * columnBits t j

/-- Columns lo to hi − 1 of a band written where `f` gives their bits (R267, R270). -/
def putColumns (y : Ctx) (b : BandDesc) (lo hi : Nat) (f : Nat → Option Nat) : Ctx :=
  let bits := (tab (hi - lo) lo f).toArray
  (tab b.regs 0 id).foldl (fun y r =>
    putV y 32 (b.band + r) lo hi fun j => (bits.getD (j - lo) none).map fun v => v / 2 ^ (32 * r) % 2 ^ 32) y

/-- The first bit of a band's scale rows (R267). -/
def scaleRow (b : BandDesc) : Nat := b.kc * ftWidth b.ft
/-- The first bit of a band's bound rows (R267). -/
def boundRow (b : BandDesc) : Nat := scaleRow b + (if ftScale b.ft = 0 then 0 else 16 * bandBlocks b)

/-- The value of an element code under a format-type and a scale word (R61, R79, R265). -/
def productValue (ft code scale : Nat) : Num :=
  match ft / 8 with
  | 0 => numOfInt (sInt (ftWidth ft) code)
  | 1 => numOfInt code
  | f => match blockFmt f with
    | some b => decBlock b code scale
    | none => decNum (fmtOf f) code

/-- The weights of a column at block position `q` (R267). -/
def columnBlock (b : BandDesc) (bits q : Nat) : List Num :=
  let w := ftWidth b.ft
  let sc := if ftScale b.ft = 0 then 0 else bits / 2 ^ (scaleRow b + 16 * q) % 65536
  tab b.l (q * b.l) fun k => productValue b.ft (bits / 2 ^ (k * w) % 2 ^ w) sc

/-- The bound byte of a block (R294). -/
def boundByte (xs : List Num) : Nat :=
  if anySpecial xs then 0 else
  match maxMag xs with
  | .fin _ m e =>
    if m = 0 then 0xFF else
    let g := ceilLog2 m e
    if 127 < g then 0 else (max g (-126) + 127).toNat
  | _ => 0

/-! The arrays of a strip (R169, R264). -/

/-- A strip's first element and its lane groups. -/
def stripGroups (y : Ctx) (way : Nat) : Nat × List Nat :=
  match ((stripsOf y).zip y.groups).find? fun p => p.1.1 == way with
  | some p => (p.1.2.1, p.2)
  | none => (0, [])

/-- The K-block at position `q` of logic array `a` (R264). -/
def blockAt (y : Ctx) (a q : Nat) : Nat := look y.blockMap (256 * a + q) q

/-- The array of column `j` of a strip (R169). -/
def arrayOf (g : Nat × List Nat) (j : Nat) : Nat := g.2.getD ((j - g.1) % max g.2.length 1) 0

/-- The maps of some arrays set to the identity (R270). -/
def identityMaps (y : Ctx) (arrays : List Nat) : Ctx :=
  { y with blockMap := y.blockMap.filter fun p => !arrays.contains (p.1 / 256) }

/-! pload and pbnd: the bytes they read (R270, R271, R296). -/

/-- Accesses to `n` bytes at `ea` for one element, each within a line. -/
def lineSplit (fuel : Nat) (elem : Nat) (ea : Word) (n : Nat) (scale : Bool) : List Piece :=
  match fuel with
  | 0 => []
  | fuel + 1 =>
    if n = 0 then [] else
    let k := min n (32 - ea.toNat % 32)
    ⟨elem, ea, k, 0, scale, none⟩ :: lineSplit fuel elem (ea + BitVec.ofNat 64 k) (n - k) scale

/-- The accesses of column `j` (R270, R296). -/
def columnPieces (e : QEntry) (j : Nat) : List Piece :=
  let b := e.band
  let nb := bandBlocks b
  match e.op with
  | .pload =>
    let n := b.kc * ftWidth b.ft / 8
    let sc := nb * ftScale b.ft
    lineSplit (n / 32 + 2) j (e.ga + BitVec.ofNat 64 (j * n)) n false ++
      lineSplit (sc / 32 + 2) j (e.ga + BitVec.ofNat 64 (fld e.gb 44 20 + j * sc)) sc true
  | _ => if bitOf e.gb 0 then [] else lineSplit (nb / 32 + 2) j (e.ga + BitVec.ofNat 64 (j * nb)) nb false

/-- The accesses of columns lo to hi − 1. -/
def bandPieces (e : QEntry) (lo hi : Nat) : List Piece := (tab (hi - lo) lo (columnPieces e)).flatten

/-- What was read for one column: its data and its scales as numbers, with their lengths in bytes. -/
structure ColumnIn where
  elem  : Nat
  data  : Nat
  dlen  : Nat
  scale : Nat
  slen  : Nat

/-- One read added to its column. -/
def ColumnIn.add (c : ColumnIn) (p : Piece) (v : Nat) : ColumnIn :=
  if p.scale then { c with scale := c.scale + v * 256 ^ c.slen, slen := c.slen + p.n }
  else { c with data := c.data + v * 256 ^ c.dlen, dlen := c.dlen + p.n }

/-- The reads gathered by column, in order. -/
def gatherColumns (acc : List ColumnIn) (l : List (Piece × Nat)) : List ColumnIn :=
  match l with
  | [] => acc.reverse
  | (p, v) :: t =>
    match acc with
    | c :: r => if c.elem = p.elem then gatherColumns (c.add p v :: r) t
        else gatherColumns ((ColumnIn.mk p.elem 0 0 0 0).add p v :: acc) t
    | [] => gatherColumns [(ColumnIn.mk p.elem 0 0 0 0).add p v] t

/-- The bits of a loaded column: weights, then 16 scale bits a block position, bound rows and the rest zero (R267, R270). -/
def loadedBits (b : BandDesc) (c : ColumnIn) : Nat :=
  let unit := ftScale b.ft
  let sc := (tab (if unit = 0 then 0 else bandBlocks b) 0 id).foldl (fun a q =>
    a + c.scale / 256 ^ (unit * q) % 256 ^ unit * 2 ^ (16 * q)) 0
  c.data + sc * 2 ^ scaleRow b

/-- How a strip's read ends. -/
inductive StripRead where
  | got (s : State) (e : QEntry) (l : List (Piece × Nat))
  | stop (s : State) (cause : Nat) (addr : Word)
  | wait (s : State)

/-- The accesses of columns lo to hi − 1 made as a vector load: faults stop it, apertures and lines that another instruction owns
make it wait (R271, R352, R373, R378, R459). -/
def stripRead (s : State) (x : Nat) (e : QEntry) (lo hi : Nat) : StripRead :=
  let key := RKey.strip x e.seq
  let pins := pinsOf s x e.seq
  let find (l : List Piece) : List (Piece × Found) := l.map fun p => (p, resolve s x e pins (fun _ => 0) p)
  let found := find (withSeen e lo (bandPieces e lo hi))
  let rest := if e.seen = [] ∧ hi < e.vl then find (bandPieces e hi e.vl) else []
  match sift e found with
  | .stop cause addr => .stop s cause addr
  | .go _ l _ =>
    if ownedElsewhere s x e.seq (linesOf (found ++ rest)) then .wait s else
    let s := remoteSend s key (packets (fun _ => none) l)
    if !remoteAll s key then .wait s else
    match sift e (withAnswers s key false [] found) with
    | .stop cause addr => .stop (remoteClear s key) cause addr
    | .go _ l _ =>
      let (vals, s) := readPieces s (ctxCore x) key [] l
      let (e, s) := sawAhead s x e rest
      .got (remoteClear s key) e vals

/-- The columns of a strip's elements that an array holds and that lie below VL. -/
def arrayColumns (g : Nat × List Nat) (vl i : Nat) : List Nat :=
  (tab 512 0 fun c => g.1 + c * g.2.length + i).filter fun j => decide (j < vl)

/-- One strip of pload: its columns, and identity maps for its arrays, the first strip for those below it too, the last for those
above it (R270). An entry that has begun holds a 1 in `acc`. -/
def stripPload (s : State) (x : Nat) (e : QEntry) (way lo hi : Nat) : StripOut :=
  match stripRead s x e lo hi with
  | .stop s c a => .stop s c a
  | .wait s => .wait s
  | .got s e l =>
    let cols := gatherColumns [] l
    let bits := pairsOf lo hi (cols.map fun c => (c.elem, loadedBits e.band c))
    let y := putColumns (ctxAt s x) e.band lo hi fun j => bits.getD (j - lo) none
    let g := stripGroups y way
    let below := if e.acc = [] then ((stripsOf y).zip y.groups).filter (fun p => decide (p.1.2.2 ≤ g.1)) |>.map (·.2) |>.flatten else []
    let above := if hi = e.vl then arraysAbove y (g.1 + 512 * g.2.length) else []
    .did (setCtx s x (identityMaps y (g.2 ++ below ++ above))) { e with acc := [1] }

/-! pbnd (R296). -/

/-- The rank of a bound byte: a greater number ranks higher (R296). -/
def boundRank (b : Nat) : Nat := if b = 0 then 256 else if b = 255 then 0 else b

/-- Bound byte at position `q` of a column (R267). -/
def boundAt (b : BandDesc) (bits q : Nat) : Nat := bits / 2 ^ (boundRow b + 8 * q) % 256

/-- Bits `at_` to `at_ + n − 1` of a number replaced. -/
def putField (x at_ n v : Nat) : Nat := x - x / 2 ^ at_ % 2 ^ n * 2 ^ at_ + v % 2 ^ n * 2 ^ at_

/-- The bounds of a column written, β by K-block into the position that holds it (R296). -/
def withBounds (y : Ctx) (b : BandDesc) (array : Nat) (bits : Nat) (beta : Nat → Nat) : Nat :=
  (tab (bandBlocks b) 0 id).foldl (fun v q => putField v (boundRow b + 8 * q) 8 (beta (blockAt y array q))) bits

/-- A position put into an order: higher rank first, equal ranks by K-block (R296). -/
def insertPos (key blk : Nat → Nat) (q : Nat) (l : List Nat) : List Nat :=
  match l with
  | [] => [q]
  | p :: t => if key p < key q ∨ (key p = key q ∧ blk q < blk p) then q :: p :: t else p :: insertPos key blk q t

/-- The new order of an array's positions (R296). -/
def bandOrder (b : BandDesc) (sort : Bool) (blk : Nat → Nat) (cols : List Nat) : List Nat :=
  let top (q : Nat) : Nat := if sort then cols.foldl (fun m c => max m (boundRank (boundAt b c q))) 0 else 0
  let ranks := (tab (bandBlocks b) 0 top).toArray
  (tab (bandBlocks b) 0 id).foldl (fun l q => insertPos (fun p => ranks.getD p 0) blk q l) []

/-- A column's weight, scale and bound rows permuted: position i takes what position `order i` held (R296). -/
def permuteColumn (b : BandDesc) (order : List Nat) (bits : Nat) : Nat :=
  let lw := b.l * ftWidth b.ft
  (order.mapIdx fun i q => (i, q)).foldl (fun v (i, q) =>
    let v := putField v (i * lw) lw (bits / 2 ^ (q * lw))
    let v := if ftScale b.ft = 0 then v else putField v (scaleRow b + 16 * i) 16 (bits / 2 ^ (scaleRow b + 16 * q))
    putField v (boundRow b + 8 * i) 8 (boundAt b bits q)) bits

/-- One array of a strip ordered: every column permuted, and its map (R296). -/
def orderArray (e : QEntry) (g : Nat × List Nat) (y : Ctx) (i : Nat) : Ctx :=
  let b := e.band
  let array := g.2.getD i 0
  let regs := bandRegs y b
  let live := arrayColumns g e.vl i
  if live = [] then y else
  let order := bandOrder b (bitOf e.gb 1) (blockAt y array) (live.map (columnBits regs))
  if order = tab (bandBlocks b) 0 id then y else
  let all := tab 512 0 fun c => g.1 + c * g.2.length + i
  let bits := pairsOf g.1 (g.1 + 512 * g.2.length) (all.map fun j => (j, permuteColumn b order (columnBits regs j)))
  let y' := putColumns y b g.1 (g.1 + 512 * g.2.length) fun j => bits.getD (j - g.1) none
  let blocks := order.map (blockAt y array)
  { y' with blockMap := (blocks.mapIdx fun q k => (q, k)).foldl (fun m (q, k) =>
      if k = q then m.filter fun p => p.1 != 256 * array + q else put m (256 * array + q) k) y'.blockMap }

/-- Whether the order of an array of a strip differs between two contexts: a block map changes with every change of order
(R296). -/
def orderChanged (e : QEntry) (g : Nat × List Nat) (y y' : Ctx) : Bool :=
  g.2.any fun a => (tab (bandBlocks e.band) 0 id).any fun q => blockAt y a q != blockAt y' a q

/-- The bounds of columns lo to hi − 1 loaded or computed (R296). -/
def loadBounds (y : Ctx) (e : QEntry) (g : Nat × List Nat) (lo hi : Nat) (cols : List ColumnIn) : Ctx :=
  let b := e.band
  let regs := bandRegs y b
  let given := pairsOf lo hi (cols.map fun c => (c.elem, c.data))
  putColumns y b lo hi fun j =>
    let bits := columnBits regs j
    let array := arrayOf g j
    let own := (tab (bandBlocks b) 0 fun q => (blockAt y array q, boundByte (columnBlock b bits q)))
    let beta (k : Nat) : Nat :=
      if bitOf e.gb 0 then ((own.find? fun p => p.1 == k).map (·.2)).getD 0
      else ((given.getD (j - lo) none).getD 0) / 256 ^ k % 256
    some (withBounds y b array bits beta)

/-- One strip of pbnd (R296). -/
def stripPbnd (s : State) (x : Nat) (e : QEntry) (way lo hi : Nat) : StripOut :=
  match stripRead s x e lo hi with
  | .stop s c a => .stop s c a
  | .wait s => .wait s
  | .got s e l =>
    let g := stripGroups (ctxAt s x) way
    let y := loadBounds (ctxAt s x) e g lo hi (gatherColumns [] l)
    .did (setCtx s x ((tab g.2.length 0 id).foldl (orderArray e g) y)) e

/-! prow (R273 to R275, R295). -/

/-- A hold's value of row `m`, element `k` under its bytes (R274). -/
def rowValue (ft kk l rows : Nat) (byte : Nat → Nat) (m k : Nat) : Num :=
  let w := ftWidth ft
  let i := m * kk + k
  let code := if w = 16 then byte (2 * i) + 256 * byte (2 * i + 1) else byte (i * w / 8) / 2 ^ (i * w % 8) % 2 ^ w
  let base := rows * kk * w / 8
  let j := m * (kk / l) + k / l
  let sc := match ftScale ft with
    | 0 => 0
    | 1 => byte (base + j)
    | _ => byte (base + 2 * j) + 256 * byte (base + 2 * j + 1)
  productValue ft code sc

/-- The bound bytes of a hold's rows, block by block (R295). -/
def rowBounds (ft kk l rows : Nat) (byte : Nat → Nat) : List Byte :=
  (tab rows 0 fun m => tab (kk / l) 0 fun b =>
    BitVec.ofNat 8 (boundByte (tab l (b * l) fun k => rowValue ft kk l rows byte m k))).flatten

/-- The blocks of scratch that a `prow` reads (R275). -/
def prowLines (x : Nat) (e : QEntry) : List Loc :=
  scratchLines x e.ga (prowBytes e) ++ scratchLines x (e.ga + BitVec.ofNat 64 (fld e.gb 44 20)) (prowScales e)

/-- A fill of a named buffer from scratch; poisoned data leave its earlier hold as it was, and the trap follows completion
(R275, R430). -/
def fillBuffer (s : State) (x : Nat) (e : QEntry) : State × QEntry :=
  let c := ctxCore x
  let n := prowBytes e
  let sc := e.ga + BitVec.ofNat 64 (fld e.gb 44 20)
  let at_ (a : Word) : Loc := .scratch c (ctxProd x) (a.toNat - nearBase)
  let bad (a : Word) (n : Nat) : Option Word :=
    ((tab (n / 32 + 2) 0 fun i => a - BitVec.ofNat 64 (a.toNat % 32) + BitVec.ofNat 64 (32 * i)).filter fun p =>
      decide (p.toNat < a.toNat + n)).find? fun p => locPoisoned s c (at_ p)
  match bad e.ga n, (if prowScales e = 0 then none else bad sc (prowScales e)) with
  | none, none =>
    let bytes := locBytes s c (at_ e.ga) n ++ (if prowScales e = 0 then [] else locBytes s c (at_ sc) (prowScales e))
    let arr := bytes.toArray
    let ft := fld e.gb 0 7
    let m := fld e.gb 16 5
    let k := fld e.gb 24 16
    let l := productLen ft e.vtype
    let h : Hold := ⟨true, ft, m, k, l, bytes, rowBounds ft k l m fun i => (arr.getD i 0).toNat⟩
    let y := ctxAt s x
    (setCtx s x { y with holds := put y.holds (fld e.gb 8 1) h }, { e with st := .done })
  | some a, _ => (s, { e with st := .done, late := some ⟨e.addr, 9, false, a⟩ })
  | none, some a => (s, { e with st := .done, late := some ⟨e.addr, 9, false, a⟩ })

/-! Products (R276, R277). -/

/-- Rounding in product mode: VTYPE.RM, to nearest even under SR; SAT has no effect (R277). -/
def productRounding (t : BitVec 20) : Rounding := ⟨noSr (vtMode t), false, vtFtz t, fmtMin fp32⟩

/-- A finite number toward zero to a multiple of 2^q. -/
def truncAt (q : Int) (x : Num) : Num :=
  match x with
  | .fin n m e => if q ≤ e then x else .fin n (m / 2 ^ (q - e).toNat) q
  | _ => x

/-- ⌊log2⌋ of the largest magnitude of products, where one is not zero. -/
def topExp (ps : List Num) : Option Int :=
  match maxMag ps with
  | .fin _ m e => if m = 0 then none else some (floorLog2 m e)
  | _ => none

/-- S_b of one block, with its flags (R276). -/
def blockSum (wide : Bool) (c : Rounding) (xs ys : List Num) : Num × BitVec 6 :=
  let xs := xs.map (flushNum c)
  let ys := ys.map (flushNum c)
  if xs.any isNan || ys.any isNan then (.nan false, flagIf (xs.any isSig || ys.any isSig) flagNV) else
  let ps := xs.zip ys |>.map fun (x, y) => (mulNum x y).1
  let both := (ps.any fun p => isInf p && signOf p) && (ps.any fun p => isInf p && !signOf p)
  if ps.any isNan || both then (.nan false, flagNV)
  else match ps.find? isInf with
    | some p => (p, 0)
    | none =>
      let ps := if wide then (match topExp ps with
        | some t => ps.map (truncAt (t - 120))
        | none => ps) else ps
      match ps.foldl (fun a p => (addNum .rne a p).1) (.fin false 0 0) with
      | .fin _ 0 _ => (.fin false 0 0, 0)
      | t => (t, 0)

/-- A held row as a column meets it: the value of element k, lost bytes where the hold has none (R268, R273). -/
def heldRow (h : Hold) (x seq buf : Nat) : Nat → Nat → Num :=
  let arr := h.data.toArray
  fun m k => rowValue h.ft h.k h.l h.m (fun i => (arr.getD i (Config.lostByte x seq buf i)).toNat) m k

/-- The hold an mma reads; where the buffer is not held, its shape is the band's (R273, R278). -/
def heldFor (y : Ctx) (e : QEntry) : Hold :=
  let h := look y.holds (fld e.ga 0 1) hold0
  if h.held then h else ⟨false, e.band.ft, (e.acc.headD 0).toNat, gangOf e * e.band.kc, e.band.l, [], []⟩

/-- The blocks of a hold's rows: by row, by K-block. -/
def heldBlocks (h : Hold) (x seq buf rows blocks l : Nat) : Array (Array (List Num)) :=
  let v := heldRow h x seq buf
  (tab rows 0 fun m => (tab blocks 0 fun b => tab l (b * l) (v m)).toArray).toArray

/-- One accumulation step: an integer wraps, a float rounds once (R277). -/
def accStep (int : Bool) (c : Rounding) (acc : Nat) (sum : Num × BitVec 6) : Nat × BitVec 6 :=
  if int then (wrapTo 32 (sInt 32 acc + unitsOf sum.1 0), 0) else
  let r := addNum c.mode (flushNum c (decNum fp32 acc)) sum.1
  let (p, st) := encNum fp32 c r.1 ⟨r.2 ||| sum.2, 0⟩
  (p, st.flags)

/-- Several steps, their flags joined. -/
def accSteps (int : Bool) (c : Rounding) (acc : Nat) (fl : BitVec 6) (sums : List (Num × BitVec 6)) : Nat × BitVec 6 :=
  match sums with
  | [] => (acc, fl)
  | t :: r =>
    let (a, f) := accStep int c acc t
    accSteps int c a (fl ||| f) r

/-- What a strip of mma or mmav reads, decoded once. -/
structure MmaIn where
  rows  : Array (Array (List Num))
  regs  : List (Array Row32)
  group : Nat × List Nat
  nb    : Nat
  m     : Nat

/-- The operands of a strip (R268, R277). -/
def mmaIn (y : Ctx) (x : Nat) (e : QEntry) (way : Nat) : MmaIn :=
  let b := e.band
  let h := heldFor y e
  let m := (e.acc.headD 0).toNat
  ⟨heldBlocks h x e.seq (fld e.ga 0 1) m (gangOf e * bandBlocks b) b.l, bandRegs y b, stripGroups y way, bandBlocks b, m⟩

/-- S_b at each position of column `j` for row `m`: positions by the array's map (R277). -/
def columnSums (y : Ctx) (e : QEntry) (t : MmaIn) (j m : Nat) : List (Num × BitVec 6) :=
  let b := e.band
  let c0 := productRounding e.vtype
  let c : Rounding := if ftInt b.ft then { c0 with ftz := false } else c0
  let bits := columnBits t.regs j
  let base := j % gangOf e * t.nb
  let row := t.rows.getD m #[]
  tab t.nb 0 fun q => blockSum (ftWidth b.ft == 16) c (row.getD (base + blockAt y (arrayOf t.group j) q) []) (columnBlock b bits q)

/-- Registers d to d + M − 1 of the strip's columns written where `f` gives patterns by row, old values passed (R277, R278). -/
def putRows (y : Ctx) (e : QEntry) (m lo hi : Nat) (out : Array (Option (List Nat))) : Ctx :=
  (tab m 0 id).foldl (fun y r => putV y 32 (e.f.d.toNat + r) lo hi fun j =>
    ((out.getD (j - lo) none).bind fun l => l[r]?)) y

/-- One strip of mma (R277 to R279). -/
def stripMma (s : State) (x : Nat) (e : QEntry) (way lo hi : Nat) : StripOut :=
  let y := ctxAt s x
  let t := mmaIn y x e way
  let int := ftInt e.band.ft
  let c := productRounding e.vtype
  let mk := maskBits y e.f.k.reg.toNat
  let olds := (tab t.m e.f.d.toNat fun r => (look y.v r []).toArray).toArray
  let old (r j : Nat) : Nat := ((olds.getD r #[]).getD j 0).toNat
  let screened := !bitOf e.ga 1 && !int
  let one (j : Nat) : Option (List Nat) × BitVec 6 × Bool :=
    if !predicate mk e.f.k j then (none, 0, false)
    else if screened && (tab t.m 0 id).any fun r => isHook (old r j) then (none, 0, true)
    else
      let rows := tab t.m 0 fun r => accSteps int c (if bitOf e.ga 1 then 0 else old r j) 0 (columnSums y e t j r)
      (some (rows.map (·.1)), rows.foldl (fun f r => f ||| r.2) 0, false)
  let outs := tab (hi - lo) lo fun j => (j, one j)
  let arr := (outs.map fun o => o.2.1).toArray
  .did (setCtx s x (putRows y e t.m lo hi arr)) { e with
    flags := e.flags ||| outs.foldl (fun f o => f ||| o.2.2.1) 0
    faults := e.faults ++ (outs.filter fun o => o.2.2.2).map fun o => ⟨o.1, 16, 0⟩ }

/-! The monitor (R298 to R300, R304). -/

/-- A number with the flags raised in reaching it. -/
abbrev Flagged := Num × BitVec 6

/-- round_up32, with the flags it raises and, under FTZ, the flush of R77 (R12, R13). -/
def up32 (ftz : Bool) (x : Num) : Flagged :=
  let r := roundNum fp32 ⟨.rup, false, ftz, fmtMin fp32⟩ x ⟨0, 0⟩
  (r.1, r.2.flags)
/-- round_dn32, in the same way (R13, R299). -/
def dn32 (ftz : Bool) (x : Num) : Flagged :=
  let r := roundNum fp32 ⟨.rdn, false, ftz, fmtMin fp32⟩ x ⟨0, 0⟩
  (r.1, r.2.flags)
/-- x + y before rounding, for numbers that give no NaN. -/
def plus (x y : Num) : Num := (addNum .rup x y).1

/-- T(m, q) of two bound bytes (R298). -/
def termBound (ftz : Bool) (l a b : Nat) : Flagged :=
  if a = 0 ∨ b = 0 then (.inf false, 0)
  else if a = 255 ∨ b = 255 then (.fin false 0 0, 0)
  else up32 ftz (.fin false l ((a : Int) + b - 254))

/-- SUF(0) to SUF(nb) from the terms and RB, and the flags raised (R298). -/
def suffixes (ftz : Bool) (rb : Num) (ts : List Flagged) : List Num × BitVec 6 :=
  match ts with
  | [] => ([rb], 0)
  | t :: r =>
    let (l, fl) := suffixes ftz rb r
    let u := up32 ftz (plus t.1 (l.headD rb))
    (u.1 :: l, fl ||| t.2 ||| u.2)

/-- n × ulp32(w), exact; w finite and not negative (R299). -/
def slack (n : Nat) (w : Num) : Num :=
  match w with
  | .fin _ m e => if m = 0 then .fin false n (-149) else .fin false n (max (floorLog2 m e) (-126) - 23)
  | _ => .inf false

/-- The monitor's test: the side of an abandonment and its bound, and the flags of its roundings (R13, R290, R299). -/
def monitorTest (ftz : Bool) (pred : Nat) (tau acc suf : Num) (n : Nat) : Option (Bool × Num) × BitVec 6 :=
  if isNan acc || isInf acc || isInf suf then (none, 0) else
  let (w, f0) := up32 ftz (plus (absNum acc) suf)
  if isInf w then (none, f0) else
  let s := slack n w
  let (u0, f1) := up32 ftz (plus acc suf)
  let (u, f2) := up32 ftz (plus u0 s)
  let (l0, f3) := dn32 ftz (addNum .rdn acc (negNum suf)).1
  let (lo, f4) := dn32 ftz (addNum .rdn l0 (negNum s)).1
  let zero : Num := .fin false 0 0
  (match pred with
   | 0 => if !ltNum zero u then some (true, u) else none
   | 3 => if ltNum u zero then some (true, u) else if ltNum zero lo then some (false, lo) else none
   | _ => if ltNum u tau then some (true, u) else none, f0 ||| f1 ||| f2 ||| f3 ||| f4)

/-- The hook of an abandonment after `k` blocks (R87, R300). -/
def hookPat (below : Bool) (k : Nat) (bound : Num) : Nat :=
  let b := (encNum bf16 ⟨if below then .rup else .rdn, false, false, 0⟩ bound ⟨0, 0⟩).1
  (if below then 2 ^ 31 else 0) + 0xFF * 2 ^ 23 + 2 ^ 21 + min k 31 * 2 ^ 16 + b

/-- How a row of a column ends under the monitor: its pattern, its flags, the positions accumulated, and whether it was abandoned. -/
structure Verdict where
  pat   : Nat
  flags : BitVec 6
  ran   : Nat
  hook  : Bool

/-- A row from position `k` on: tested, on the accumulator as R77 reads it, then accumulated (R304). -/
def monitorRow (pred : Nat) (tau : Nat → Num) (c : Rounding) (n k acc : Nat) (fl : BitVec 6) (sufs : List Num)
    (sums : List (Num × BitVec 6)) : Verdict :=
  match sums, sufs with
  | t :: r, s :: ss =>
    match monitorTest c.ftz pred (tau k) (flushNum c (decNum fp32 acc)) s (n - k) with
    | (some (below, b), f) => ⟨hookPat below k b, fl ||| f, k, true⟩
    | (none, f0) =>
      let (a, f) := accStep false c acc t
      monitorRow pred tau c n (k + 1) a (fl ||| f0 ||| f) ss r
  | _, _ => ⟨acc, fl, k, false⟩

/-- RB of column `j`, read as R77 reads an operand (R304). -/
def laterBound (y : Ctx) (e : QEntry) (j : Nat) : Num :=
  if !bitOf e.ga 7 then .fin false 0 0 else
  match flushNum (productRounding e.vtype) (decNum fp32 ((look y.v (fld e.ga 8 5) []).getD j 0).toNat) with
  | .nan _ => .inf false
  | x => if ltNum x (.fin false 0 0) then .inf false else absNum x

/-- The value of a key, unless it is a NaN or a hook (R292). -/
def keyValue (key : BitVec 32) : Option Num :=
  let x := if key.msb then key ^^^ 0x7FFFFFFF else key
  match decNum fp32 x.toNat with
  | .nan _ => none
  | v => some v

/-- An array's latch at array cycle `t` of its strip, from −∞: the largest key among the reads that it issued, at cycle 0 or one
of `mine`, and that have come back (R299). -/
def latchAt (reads : List VerdictRead) (mine : List Nat) (t : Nat) : Num :=
  (reads.filter fun r => decide (r.back ≤ t) && (r.issued == 0 || mine.contains r.issued)).foldl (fun a r =>
    match keyValue (r.key.setWidth 32) with
    | some v => if ltNum a v then v else a
    | none => a) (.inf true)

/-- τ at array cycle `t` for an array that has issued reads at cycles `mine` (R299). -/
def threshold (e : QEntry) (reads : List VerdictRead) (mine : List Nat) (t : Nat) : Num :=
  if readsVerdict e then latchAt reads mine t else decNum fp32 (fld e.vdcfg 32 32)

/-- The rows of one array of a strip of mmav: its columns' verdicts row by row, the array cycle at which each row is closed, and
those of its block boundaries (R299, R306). -/
structure ArrayRun where
  rows   : List (List Verdict)
  closed : List Nat
  bounds : List Nat

/-- Rows m to m + n − 1 of an array from array cycle `t` on: a suffix phase of `pre` cycles, the first longer by `wait`, then
positions of `pos` cycles; `row` gives a column's verdict on a row under thresholds by position (R304, R306). -/
def arrayRun (tau : List Nat → Nat → Num) (row : Nat → Nat → (Nat → Num) → Verdict) (js : List Nat) (nb pos pre : Nat)
    (n m t wait : Nat) (mine : List Nat) : ArrayRun :=
  match n with
  | 0 => ⟨[], [], mine⟩
  | n + 1 =>
    if js = [] then ⟨[], [], []⟩ else
    let t0 := t + pre + wait
    let here := mine ++ tab nb 1 fun k => t0 + k * pos
    let vs := js.map fun j => row j m fun k => tau here (t0 + k * pos)
    let ran := vs.foldl (fun p v => max p v.ran) 0
    let end_ := t0 + pos * ran
    let r := arrayRun tau row js nb pos pre n (m + 1) end_ 0 (mine ++ tab ran 1 fun k => t0 + k * pos)
    ⟨vs :: r.rows, end_ :: r.closed, r.bounds⟩

/-- What a strip of mmav did: its effect and its flags, its arrays' product time (R306), array by array and row by row the
positions each active column ran and whether it abandoned the row, the array cycles at which each row is closed on the way, and
those of its block boundaries (R281, R299). -/
structure MmavOut where
  st     : State
  flags  : BitVec 6
  cycles : Nat
  runs   : List (List (List (Nat × Bool)))
  closed : List Nat
  bounds : List Nat

/-- The accumulator registers as a strip of mmav found them: one that reads a verdict word keeps them beside its entry, since each
read that returns judges its later rows anew (R299, R304). -/
def mmavOld (y : Ctx) (e : QEntry) : Map (List Row32) := if readsVerdict e then e.snapV else y.v

/-- One strip of mmav with the reads of the verdict word that have come back: `front` array cycles go before its first suffix
phase, which lasts `wait` longer (R298 to R307). -/
def stripMmav (s : State) (x : Nat) (e : QEntry) (way lo hi front wait : Nat) (reads : List VerdictRead) : MmavOut :=
  let y := ctxAt s x
  let t := mmaIn y x e way
  let b := e.band
  let c := productRounding e.vtype
  let mk := maskBits y e.f.k.reg.toNat
  let h := heldFor y e
  let betas := h.bound.toArray
  let olds := (tab t.m e.f.d.toNat fun r => (look (mmavOld y e) r []).toArray).toArray
  let old (r j : Nat) : Nat := ((olds.getD r #[]).getD j 0).toNat
  let row (j r : Nat) (tau : Nat → Num) : Verdict :=
    if !bitOf e.ga 1 && isHook (old r j) then ⟨old r j, 0, 0, false⟩ else
    let bits := columnBits t.regs j
    let ts := tab t.nb 0 fun q =>
      let blk := blockAt y (arrayOf t.group j) q
      termBound c.ftz b.l ((betas.getD (r * t.nb + blk) (Config.lostByte x e.seq (2 + fld e.ga 0 1) (r * t.nb + blk))).toNat) (boundAt b bits q)
    let (sufs, fl) := suffixes c.ftz (laterBound y e j) ts
    monitorRow (fld e.vdcfg 0 2) tau c t.nb 0 (if bitOf e.ga 1 then 0 else old r j) fl sufs (columnSums y e t j r)
  let act := (tab (hi - lo) lo id).filter fun j => predicate mk e.f.k j
  let n := max t.group.2.length 1
  let columns (i : Nat) : List Nat := act.filter fun j => (j - t.group.1) % n == i
  let runs := tab n 0 fun i =>
    (columns i, arrayRun (threshold e reads) row (columns i) t.nb (b.l * ftRate b.ft) (t.nb + 4) t.m 0 front wait [])
  let outs := runs.map fun (js, r) => js.mapIdx fun k j => (j, r.rows.map fun vs => vs.getD k ⟨0, 0, 0, false⟩)
  let arr := outs.flatten.foldl (fun (a : Array (Option (List Nat))) o => a.setIfInBounds (o.1 - lo) (some (o.2.map (·.pat))))
    (Array.replicate (hi - lo) none)
  ⟨setCtx s x (putRows y e t.m lo hi arr),
   (outs.flatten.map fun o => o.2.foldl (fun f v => f ||| v.flags) 0).foldl (· ||| ·) 0,
   (runs.map fun r => (r.2.closed.getLastD front) - front).foldl max 0,
   runs.map fun r => if r.1 = [] then List.replicate t.m [] else r.2.rows.map fun vs => vs.map fun v => (v.ran, v.hook),
   tab t.m 0 fun m => (runs.map fun r => r.2.closed.getD m front).foldl max front,
   (runs.map fun r => r.2.bounds).flatten⟩

/-! ptree (R282). -/

/-- The sum of one gang's elements after its first (R282). -/
def gangSum (int : Bool) (c : Rounding) (acc : Nat) (fl : BitVec 6) (xs : List Nat) : Nat × BitVec 6 :=
  match xs with
  | [] => (acc, fl)
  | x :: t =>
    if int then gangSum int c ((acc + x) % 2 ^ 32) fl t else
    let (a, f) := accStep false c acc (flushNum c (decNum fp32 x), 0)
    gangSum int c a (fl ||| f) t

/-- ptree on the elements of `from_`, its source as it was drained, into context `y` (R65, R282). -/
def gangTree (from_ y : Ctx) (e : QEntry) : CrossOut :=
  let g := gangOf e
  let a := (look from_.v e.f.a.toNat []).toArray
  let c := productRounding e.vtype
  let int := vtFmt e.vtype ≤ 1
  let first := roundUp e.start g
  let heads := tab ((e.vl - first + g - 1) / g) 0 fun n => first + n * g
  let one (f : Nat) : Option Nat × BitVec 6 :=
    let xs := tab g f fun i => (a.getD i 0).toNat
    if !int && xs.any isHook then (none, 0) else
    match xs with
    | x :: t =>
      let (v, fl) := gangSum int c x (flagIf (!int && isSig (decNum fp32 x)) flagNV) t
      (some (if !int && isNan (decNum fp32 v) then fmtNan fp32 else v), fl)
    | [] => (none, 0)
  let outs := heads.map fun f => (f, one f)
  let t := pairsOf e.start e.vl (outs.filterMap fun o => o.2.1.map fun v => (o.1, v))
  ⟨putV y 32 e.f.d.toNat e.start e.vl fun i => t.getD (i - e.start) none, none,
   outs.foldl (fun f o => f ||| o.2.2) 0,
   outs.filterMap fun o => if o.2.1.isNone then some ⟨o.1, 16, 0⟩ else none⟩

end Sys2Proof.Machine
end

