-- ==== Sys2Proof/Machine/Tiles.lean ====
section
/-! DEFINITION. What the tile unit's instructions do (10 R283 to R287). -/

namespace Sys2Proof.Machine

/-- Rounding of the tile unit: round64 under VTYPE.RM, to nearest even under SR; FTZ never applies (R284). -/
def tileRounding (t : BitVec 20) : Rounding := ⟨noSr (vtMode t), false, false, 0⟩

/-- Element `n` of accumulator `a`, n = 8 × row + col (R283). -/
def accAt (y : Ctx) (a n : Nat) : Word := look y.accs (64 * a + n) 0

/-- The 64 elements of an accumulator. -/
def accWords (y : Ctx) (a : Nat) : List Word := tab 64 0 (accAt y a)

/-- Elements of an accumulator replaced from element 0 up. -/
def putAcc (y : Ctx) (a : Nat) (ws : List Word) : Ctx :=
  { y with accs := (ws.mapIdx fun n w => (n, w)).foldl (fun m p => put m (64 * a + p.1) p.2) y.accs }

/-- acc + A × B with one rounding, on patterns, and its flags (R285). -/
def tileFma (c : Rounding) (acc : Word) (a b : Num) : Word × BitVec 6 :=
  let r := fmaNum c.mode a b (decNum fp64 acc.toNat)
  let (p, st) := encNum fp64 c r.1 ⟨r.2, 0⟩
  (BitVec.ofNat 64 p, st.flags)

/-- One K-step over the 64 elements: A by rows, B by columns (R285). -/
def tileStep (c : Rounding) (as bs : Array Num) (acc : List Word) (fl : BitVec 6) : List Word × BitVec 6 :=
  let outs := acc.mapIdx fun n w => tileFma c w (as.getD (n / 8) (.fin false 0 0)) (bs.getD (n % 8) (.fin false 0 0))
  (outs.map (·.1), outs.foldl (fun f o => f ||| o.2) fl)

/-- K-steps in order (R285). -/
def tileSteps (c : Rounding) (steps : List (List Num × List Num)) (acc : List Word) (fl : BitVec 6) : List Word × BitVec 6 :=
  match steps with
  | [] => (acc, fl)
  | (a, b) :: t =>
    let (acc, fl) := tileStep c a.toArray b.toArray acc fl
    tileSteps c t acc fl

/-- Whether a `tmma` works on FP32 values. -/
def tmmaFp32 (e : QEntry) : Bool := tmmaSize e == 4

/-- A panel value as a number. -/
def panelNum (e : QEntry) (x : Nat) : Num := if tmmaFp32 e then decNum fp32 (x % 2 ^ 32) else decNum fp64 x

/-- The first poisoned block of a panel in scratch (R437). -/
def panelPoison (s : State) (x : Nat) (a : Word) (n : Nat) : Option Word :=
  ((tab (n / 32 + 2) 0 fun i => a - BitVec.ofNat 64 (a.toNat % 32) + BitVec.ofNat 64 (32 * i)).filter fun p =>
    decide (p.toNat < a.toNat + n)).find? fun p =>
      locPoisoned s (ctxCore x) (.scratch (ctxCore x) (ctxProd x) (p.toNat - nearBase))

/-- A panel's values from scratch, each with its address (R285). -/
def panelValues (s : State) (x : Nat) (a : Word) (z n : Nat) : List (Word × Nat) :=
  let bs := (scratchBytes s (ctxCore x) (ctxProd x) (a.toNat - nearBase) n).toArray
  tab (n / z) 0 fun i => (a + BitVec.ofNat 64 (z * i), leNat (tab z (z * i) fun k => bs.getD k 0))

/-- The entry done, with a trap that follows its completion (R430). -/
def lateTrap (e : QEntry) (cause : Nat) (addr : Word) : QEntry := { e with st := .done, late := some ⟨e.addr, cause, false, addr⟩ }

/-- `n` groups of eight of a list. -/
def eights {α : Type} (n : Nat) (l : List α) : List (List α) :=
  match n with
  | 0 => []
  | n + 1 => l.take 8 :: eights n (l.drop 8)

/-- A tmma from scratch: poison or an FP32 hook in a panel leaves aD unchanged (R285, R430). -/
def tmmaScratch (s : State) (x : Nat) (e : QEntry) : State × QEntry :=
  let z := tmmaSize e
  let k := tmmaSteps e
  let n := 8 * z * k
  if k = 0 then (s, { e with st := .done }) else
  match panelPoison s x e.ga n, panelPoison s x (tmmaB e) n with
  | some a, _ => (s, lateTrap e 9 a)
  | none, some a => (s, lateTrap e 9 a)
  | none, none =>
    let as := panelValues s x e.ga z n
    let bs := panelValues s x (tmmaB e) z n
    match (if tmmaFp32 e then (as ++ bs).find? fun p => isHook p.2 else none) with
    | some p => (s, lateTrap e 16 p.1)
    | none =>
      let y := ctxAt s x
      let num (l : List (Word × Nat)) : List (List Num) := eights k (l.map fun p => panelNum e p.2)
      let (acc, fl) := tileSteps (tileRounding e.vtype) ((num as).zip (num bs)) (accWords y e.f.d.toNat) 0
      (setCtx s x (putAcc y e.f.d.toNat acc), { e with st := .done, flags := e.flags ||| fl })

/-- A tmma fed from its operand queue takes the K-steps whose 16 items are there. `acc` holds the steps
taken and the elements so far, and `late` an FP32 hook met, after which aD stays unchanged (R117, R285). -/
def tmmaQueue (s : State) (x : Nat) (e : QEntry) : State × QEntry :=
  let y := ctxAt s x
  let done := (e.acc.headD 0).toNat
  let have_ := if e.acc = [] then accWords y e.f.d.toNat else e.acc.drop 1
  let n := min (tmmaSteps e - done) (y.tileQ.length / 16)
  let items := y.tileQ.take (16 * n)
  let hook := tmmaFp32 e && items.any fun w => isHook (w.toNat % 2 ^ 32)
  let rows := eights (2 * n) (items.map fun w => panelNum e w.toNat)
  let steps := tab n 0 fun i => (rows.getD (2 * i) [], rows.getD (2 * i + 1) [])
  let (acc, fl) := tileSteps (tileRounding e.vtype) steps have_ 0
  let e := { e with acc := BitVec.ofNat 64 (done + n) :: acc, flags := e.flags ||| fl }
  let e := if hook then { e with late := some ⟨e.addr, 16, false, 0⟩ } else e
  let s := setCtx s x { y with tileQ := y.tileQ.drop (16 * n) }
  if done + n < tmmaSteps e then (s, e) else
  let e := { e with st := .done, acc := [], flags := if e.late.isSome then 0 else e.flags }
  if e.late.isSome then (s, e) else (setCtx s x (putAcc (ctxAt s x) e.f.d.toNat acc), e)

/-- The 64 accesses of `tld` or `tst`, each with its place, where every page still translates (R286). -/
def tilePlaces (s : State) (x : Nat) (e : QEntry) (n : Need) : Option (List (Piece × Loc)) :=
  let ls := tab 64 0 fun i =>
    let ea := e.ga + BitVec.ofNat 64 (8 * i)
    ((⟨i, ea, 8, 0, false, none⟩ : Piece), pinnedLoc s x e.seq n ea)
  if ls.any fun q => q.2.isNone then none else some (ls.filterMap fun q => q.2.map fun l => (q.1, l))

/-- The first access that an aperture's answer refuses (R459). -/
def tileRefused (s : State) (key : RKey) (write : Bool) (l : List (Piece × Loc)) : Option Word :=
  (firstFault (withAnswers s key write [] (l.map fun q => (q.1, .place q.2)))).map fun r => r.1.ea

/-- tld: what it reads through an aperture comes in packets (R286, R430, R459). -/
def tileLoad (s : State) (x : Nat) (e : QEntry) : State × QEntry :=
  let c := ctxCore x
  let key := RKey.strip x e.seq
  match tilePlaces s x e needR with
  | none => (s, lateTrap e 8 e.ga)
  | some l =>
    match l.find? fun q => locPoisoned s c q.2 with
    | some q => (s, lateTrap e 9 q.1.ea)
    | none =>
      let s := remoteSend s key (packets (fun _ => none) l)
      if !remoteAll s key then (s, e) else
      match tileRefused s key false l with
      | some a => (remoteClear s key, lateTrap e 9 a)
      | none =>
        let (vals, s) := readPieces s c key [] l
        (setCtx (remoteClear s key) x (putAcc (ctxAt s x) e.f.d.toNat (vals.map fun v => BitVec.ofNat 64 v.2)), { e with st := .done })

/-- tst: what it writes through an aperture goes out in packets (R286, R459). -/
def tileStore (s : State) (x : Nat) (e : QEntry) : State × QEntry :=
  let key := RKey.strip x e.seq
  match tilePlaces s x e needW with
  | none => (s, lateTrap e 8 e.ga)
  | some l =>
    let ws := accWords (ctxAt s x) e.f.d.toNat
    let bytes (p : Piece) : List Byte := leBytes 8 (ws.getD p.elem 0).toNat
    let s := remoteSend s key (packets (fun p => some (bytes p)) l)
    if !remoteAll s key then (s, e) else
    let runs := match (l.filter fun q => (farOf (.place q.2)).isNone).map fun q => (q.2, bytes q.1) with
      | [] => []
      | r :: t => coalesce r t
    (writeRuns (remoteClear (refusedStores s x key) key) (ctxCore x) runs, { e with st := .done })

/-- What tacc or trow writes to one element, and its flags (R287). -/
def tileConvert (c : Rounding) (mode : Nat) (add : Bool) (acc : Word) (x : Nat) : Word × BitVec 6 :=
  let enc (v : Num) (fl : BitVec 6) : Word × BitVec 6 :=
    let (p, st) := encNum fp64 c v ⟨fl, 0⟩
    (BitVec.ofNat 64 p, st.flags)
  let sum (v : Num) : Word × BitVec 6 :=
    let r := addNum c.mode (decNum fp64 acc.toNat) v
    enc r.1 r.2
  let i : Word := BitVec.ofInt 64 (sInt 32 (x % 2 ^ 32))
  match mode with
  | 0 => if add then sum (decNum fp32 x) else enc (decNum fp32 x) 0
  | 1 => (if add then acc + i else i, 0)
  | 2 => (if add then ((acc + i).setWidth 32).signExtend 64 else i, 0)
  | _ => if add then sum (decNum fp64 x) else (BitVec.ofNat 64 x, 0)

/-- tacc and trow; VSTART has no part in them (R287). -/
def tileMove (s : State) (x : Nat) (e : QEntry) (add : Bool) : State × QEntry :=
  let y := ctxAt s x
  let mode := fld e.gb 0 4
  let a := src y e.f.a.toNat
  let is := tab (8 * fld e.gb 4 4) 0 fun n => fld e.gb 16 16 + fld e.gb 32 16 * n
  if e.vl = 0 then (s, { e with st := .done }) else
  let hooks := if mode = 0 then is.filter fun i => isHook (a.at 32 i) else []
  if hooks ≠ [] then
    (s, { e with st := .done, faults := e.faults ++ (hooks.eraseDups).map fun i => ⟨i, 16, 0⟩ }) else
  let outs := is.mapIdx fun n i => tileConvert (tileRounding e.vtype) mode add (accAt y e.f.d.toNat n) (a.at (if mode = 3 then 64 else 32) i)
  (setCtx s x (putAcc y e.f.d.toNat (outs.map (·.1))),
   { e with st := .done, flags := e.flags ||| outs.foldl (fun f o => f ||| o.2) 0 })

/-- The blocks of scratch that a `tmma` reads its panels from (R285). -/
def panelLines (x : Nat) (e : QEntry) : List Loc :=
  let n := 8 * tmmaSize e * tmmaSteps e
  scratchLines x e.ga n ++ scratchLines x (tmmaB e) n

/-- The lines that a tile instruction reads or writes: a load or a store of its bytes (R285, R286). -/
def tileLines (s : State) (x : Nat) (e : QEntry) : List Loc :=
  if e.op = .tmma then panelLines x e
  else ((((tilePlaces s x e needNone).getD []).filter fun q => (farOf (.place q.2)).isNone).map fun q => pieceLines q.1 q.2).flatten

/-- Whether a page of a `tld` or a `tst` that has lost its pin is being migrated (R346). -/
def tileMigrates (s : State) (x : Nat) (e : QEntry) : Bool :=
  (e.op == .tld || e.op == .tst) && (pinMigrates s x e.seq e.ga || pinMigrates s x e.seq (e.ga + 511))

/-- A tile instruction's work, once it has the unit (R284 to R287). -/
def tileWork (s : State) (x : Nat) (e : QEntry) : State × QEntry :=
  match e.op with
  | .tmma => if bitOf e.gb 3 then tmmaQueue s x e else tmmaScratch s x e
  | .tzero => (setCtx s x (putAcc (ctxAt s x) e.f.d.toNat (List.replicate 64 0)), { e with st := .done })
  | .tld => tileLoad s x e
  | .tst => tileStore s x e
  | .trow => tileMove s x e false
  | _ => tileMove s x e true

/-- Array cycles of a tile instruction (R285, R287). R286 gives no number for the others: one cycle (log 6). -/
def tileBeats (e : QEntry) : Nat :=
  match e.op with
  | .tmma => (tmmaSteps e + (if tmmaFp32 e then 3 else 1)) / (if tmmaFp32 e then 4 else 2) + 8
  | .tacc | .trow => 12 + 2 * fld e.gb 4 4
  | _ => 1

end Sys2Proof.Machine
end

