-- ==== Sys2Proof/Machine/Beats.lean ====
section
/-! DEFINITION. Array cycles of strips, passes and fills, and what they add to the lane-cycle counters (09 R243 to R250, R259,
R260; 10 R271, R275, R280; 11 R296, R306; 19 R468). They decide timing, arbitration and those counters alone. -/

namespace Sys2Proof.Machine

/-- n × max(1, log2 n) of a shift (R247). -/
def shiftSteps (n : Nat) : Nat := n * max 1 (Nat.log2 n)

/-- Steps of the integer families (R247). -/
def intSteps (op : VOp) (n : Nat) : Nat :=
  let c := Nat.log2 n + 1
  match op with
  | .vadd | .vsub | .vaddS | .vsubS | .vrsubS | .vneg => n + 1
  | .vabs => n + 2
  | .vceq | .vcne | .vclt | .vcltu | .vcle | .vcleu | .vceqS | .vcltS => n + 1
  | .vmin | .vmax | .vminu | .vmaxu | .vminS | .vmaxS | .vsadd | .vssub | .vsaddu | .vssubu => 2 * n + 1
  | .vsll | .vsrl | .vsra => shiftSteps n
  | .vmul | .vmulS => n * (n + 1) / 2
  | .vmulhu => n * (n + 1)
  | .vmulh => n * (n + 2)
  | .vmacc | .vnmsac => n * (n + 1) / 2 + n + 1
  | .vpopc => c * (n + 1)
  | .vclz | .vctz => n + c
  | .mand | .mor | .mxor | .mandn | .mnot | .mmv | .mset | .mclr => 1
  | _ => n

/-- Steps of the floating families, in FP32 or FP64 (R248). The forms that table leaves out take their SEW (log 6). -/
def floatSteps (op : VOp) (wide : Bool) (n : Nat) : Nat :=
  let pick (a b : Nat) : Nat := if wide then b else a
  match op with
  | .vfadd | .vfsub | .vfaddS | .vfsubS | .vfrsubS => pick 352 821
  | .vfmul | .vfmulS => pick 673 2999
  | .vfma | .vfms | .vfnma | .vfnms => pick 953 3684
  | .vfdiv => pick 829 3329
  | .vfsqrt => pick 856 3385
  | .vfmin | .vfmax => pick 65 129
  | .vfceq | .vfclt | .vfcle | .vfcun => pick 34 66
  | .vfabs | .vfneg | .vfsgnj => pick 32 64
  | .vfclass => pick 36 68
  | .vfround | .vfcvt | .vf2i | .vf2iT | .vi2f | .vqunpack | .vqscale | .vqpack => pick 162 392
  | _ => n

/-- 2 for a register in v16 to v31, 1 below (R243). -/
def loftTimes (r : Nat) : Nat := if 16 ≤ r then 2 else 1

/-- Array cycles in which a way's leaves drain register `r` (R259). -/
def drainBeats (t : BitVec 20) (r : Nat) : Nat := 64 * (if vtSew t = 64 then 2 else 1) * loftTimes r

/-- Array cycles of one pass over register `r` (R259). -/
def passBeats (t : BitVec 20) (r : Nat) : Nat := drainBeats t r + 12

/-- Whether the b field names a v source. -/
def readsB (op : VOp) : Bool :=
  match op with
  | .vadd | .vsub | .vand | .vor | .vxor | .vandn | .vmin | .vmax | .vminu | .vmaxu | .vmul | .vmulh | .vmulhu | .vsll | .vsrl
  | .vsra | .vsadd | .vssub | .vsaddu | .vssubu | .vmacc | .vnmsac | .vsel | .vceq | .vcne | .vclt | .vcltu | .vcle | .vcleu
  | .vfadd | .vfsub | .vfmul | .vfdiv | .vfmin | .vfmax | .vfsgnj | .vfma | .vfms | .vfnma | .vfnms | .vfceq | .vfclt
  | .vfcle | .vfcun | .vhksel | .vfdotO => true
  | _ => false

/-- The v registers that an instruction of the lanes names (R243). -/
def namedV (e : QEntry) : List Nat :=
  let d := if regsWritten e = 0 then [] else [e.f.d.toNat]
  let a := match e.op with
    | .vmvS | .vid | .mand | .mor | .mxor | .mandn | .mnot | .mmv | .mset | .mclr | .mpopc => []
    | _ => [e.f.a.toNat]
  d ++ a ++ (if readsB e.op then [e.f.b.toNat] else []) ++ (if floatSources e.op = 3 then [e.f.c.toNat] else [])

/-- Whether an instruction names a register in v16 to v31 (R243). -/
def namesLoft (e : QEntry) : Bool := (namedV e).any fun r => decide (16 ≤ r)

/-- Steps of the hook screen over `r` sources (R249). -/
def screenSteps (r : Nat) : Nat := 1 + 10 * ((r + 1) / 2)

/-- Steps of an entry's hook screen, 0 for one that runs none (R249, R279). -/
def entryScreen (e : QEntry) : Nat :=
  match e.op with
  | .mma | .mmav => if bitOf e.ga 1 || ftInt e.band.ft then 0 else screenSteps (e.acc.headD 0).toNat
  | .vfdotO => if hooksFault e then screenSteps 2 else 0
  | op => if isFloatOp op && hooksFault e then screenSteps (floatSources op) else 0

/-- Steps of the hook screen of a strip: twice as many where the entry names a register of v16 to v31 (R243, R249). -/
def screenBeats (e : QEntry) : Nat := (if isFloatOp e.op && opKind e.op == .lane && namesLoft e then 2 else 1) * entryScreen e

/-- Steps of a strip's relay: from a register of v16 to v31 each is a loft step (R243, R251). -/
def relayBeats (e : QEntry) : Nat := if relayNeed e = 0 then 0 else vtSew e.vtype * loftTimes e.f.d.toNat

/-- Array cycles of one product row of a strip of mma (R280). -/
def productBeats (e : QEntry) : Nat := e.band.kc * ftRate e.band.ft

/-- λ of register `r` times 32: the write-back of a row (R280). -/
def writeBack (r : Nat) : Nat := 32 * loftTimes r

/-- Whether an entry takes tree passes for its blocks or groups within its own strips (R248, R260). -/
def blockPasses (op : VOp) : Bool := op == .vqscale || op == .vqpack || op == .vfwht

/-- Tree passes that an entry takes: for a strip of `n` elements, where its passes are a strip's, and else for the whole (R248, R259,
R260). -/
def treePasses (e : QEntry) (n : Nat) : Nat :=
  match e.op with
  | .vqscale | .vqpack => (n + unitOf e - 1) / unitOf e
  | .vfwht => e.gb.toNat % 16
  | .vtopk => e.gb.toNat % 65536 + 1
  | .vslideup | .vslidedn | .vslideupS | .vslidednS | .vxchg | .vcompress | .vexpand => 2
  | _ => 1

/-- Registers that a `vgath8` can reach: those its index names, up to eight and up to v31 (R204). -/
def reachedRegs (e : QEntry) : Nat :=
  let w := vtSew e.vtype
  max 1 (min (min 8 ((32 - e.f.a.toNat) / (if w = 64 then 2 else 1))) ((2 ^ min w 32 - 1) / max e.vl 1 + 1))

/-- The bound of R260 for the instructions whose bound is no number of whole passes. -/
def pointBound (e : QEntry) : Option Nat :=
  let n := vtSew e.vtype
  let w := if n = 64 then 2 else 1
  let v8 := (e.vl + 7) / 8
  match e.op with
  | .vperm => some (w * v8 + 12)
  | .vgath8 => some (w * v8 * reachedRegs e + 12)
  | .vconflict => some (v8 * (n + 1) + 12)
  | .vmatch => some ((e.gc.toNat + 7) / 8 + 12 + e.gc.toNat * (n + 1))
  | _ => none

/-- Array cycles in which a way drains for an entry, within its bound (R259, R260). -/
def entryDrain (e : QEntry) : Nat :=
  let d := drainBeats e.vtype e.f.a.toNat
  (pointBound e).elim d (min d)

/-- Beats of a strip: all of them, and those of the fixed phases it begins and ends with (R243 to R251, R271, R280,
R296, R306, R350); tree passes are not among them. DESIGN CHOICE: the screen of an instruction that R260 bounds runs within the bound,
beside its first drain, and so do the relay and the loft steps of `vfwht` (log 6). -/
def stripBeats (e : QEntry) : Nat × Nat × Nat :=
  let w := vtSew e.vtype
  let b := e.band
  let nb := bandBlocks b
  let k := if namesLoft e then 2 else 1
  let relay := relayBeats e
  match e.op with
  | .pload => (32 * b.regs, 0, 0)
  | .pbnd => (if bitOf e.gb 0 then nb * (b.l * ftWidth b.ft + 8) + 8 * nb else 8 * nb, 0, 0)
  | .mma | .mmav =>
    let m := (e.acc.headD 0).toNat
    let front := entryScreen e + 4
    let back := writeBack (e.f.d.toNat + m - 1)
    (front + back + m * (productBeats e + if e.op = .mmav then nb + 4 else 0), front, back)
  | op =>
    if isMemOp op then (w + (if movesScales e then 16 else 0), 0, 0)
    else if opKind op = .cross ∨ opKind op = .tree then (max (entryDrain e) (entryScreen e), entryScreen e, 0)
    else if isFloatOp op then
      let steps := floatSteps op (isWide e) w
      let scr := k * entryScreen e
      match op with
      | .vqscale | .vqpack =>
        let trials := if vtGap e.vtype = 0 ∧ ftScale (vtFmt e.vtype * 8) = 2 then 8 * steps else 0
        (k * (steps + trials) + scr + relay, scr + relay, 0)
      | .vfwht => (max 1 (e.gb.toNat % 16 * floatSteps .vfadd (isWide e) w), scr + relay, 0)
      | _ => (k * steps + scr + relay, scr + relay, 0)
    else
      let steps := intSteps op w
      let steps := if k = 1 then steps else
        match op with
        | .vadd | .vsub | .vaddS | .vsubS | .vrsubS | .vneg | .vceq | .vcne | .vclt | .vcltu | .vcle | .vcleu | .vceqS | .vcltS =>
          steps + w
        | _ => 2 * steps
      (steps + relay, relay, 0)

/-- Array cycles that restoring or sorting an array's order adds to a strip of pbnd: two for each row moved, four for a row in v16 to
v31 (R296). -/
def orderBeats (b : BandDesc) : Nat :=
  let rows := b.kc * ftWidth b.ft + bandBlocks b * (if ftScale b.ft = 0 then 8 else 24)
  2 * (rows + (rows - 32 * (16 - b.band)))

/-- Whether a number is a subnormal of the computation format (R250). -/
def isSubnormal (c : Rounding) (x : Num) : Bool :=
  match x with
  | .fin _ m e => m != 0 && decide (floorLog2 m e < c.cmin)
  | _ => false

/-- The instructions whose strips may take the normalisation pass (R250). -/
def normalises (op : VOp) : Bool :=
  match op with
  | .vfadd | .vfsub | .vfaddS | .vfsubS | .vfrsubS | .vfmul | .vfmulS | .vfma | .vfms | .vfnma | .vfnms | .vfdiv | .vfsqrt
  | .vfround | .vfcvt | .vf2i | .vf2iT | .vi2f | .vqunpack => true
  | _ => false

/-- Beats of the normalisation pass of a strip, 0 where none of its active elements needs it (R243, R250). -/
def subnormalBeats (y : Ctx) (e : QEntry) (lo hi : Nat) : Nat :=
  if !normalises e.op then 0 else
  let w := vtSew e.vtype
  let c := entryRounding e
  let a := src y e.f.a.toNat
  let b := src y e.f.b.toNat
  let g := src y e.f.c.toNat
  let m := maskBits y e.f.k.reg.toNat
  let n := floatSources e.op
  let scalar := e.op == .vfaddS || e.op == .vfsubS || e.op == .vfmulS || e.op == .vfrsubS
  let gy := flushNum c (decNum fp64 e.gb.toNat)
  let one (i : Nat) : Bool :=
    predicate m e.f.k i && !(hooksFault e && (isHook (a.at w i) || (n != 1 && isHook (b.at w i)) || (n == 3 && isHook (g.at w i)))) &&
    (let val (s : Src) : Num := flushNum c (elemNum e.vtype s i)
     let x := if e.op = .vi2f then .fin false 0 0 else val a
     let z := if n = 1 then gy else val b
     let u := if n = 3 then val g else .fin false 0 0
     isSubnormal c x || ((decide (2 ≤ n) || scalar) && isSubnormal c z) || isSubnormal c u ||
       isSubnormal c (arithNum e.op c.mode x z u).1)
  if (tab (hi - lo) lo id).any one then (if isWide e then 336 else 135) * (if namesLoft e then 2 else 1) else 0

/-- Array cycles of a cross-element or tree-fed instruction. DESIGN CHOICE: R260 gives bounds, and each takes exactly its bound
(log 6). -/
def crossBeats (y : Ctx) (e : QEntry) : Nat :=
  let n := vtSew e.vtype
  let p := passBeats e.vtype e.f.a.toNat
  let strips := ((stripsOf y).filter fun t => anyActive y e (max t.2.1 e.start) (min t.2.2 e.vl)).length
  match e.op with
  | .mfirst | .msbf | .msif => p + 1
  | .vprobe => p + n + 2
  | .vfredsumO | .vfdotO => p + 2 * (actives y e).length
  | op => (pointBound e).getD (if opKind op = .tree then p + 4 * strips else treePasses e 0 * p)

/-- Array cycles of one tree pass of an entry (R258 to R260). -/
def treeBeats (y : Ctx) (e : QEntry) : Nat :=
  if blockPasses e.op then passBeats e.vtype e.f.a.toNat else crossBeats y e / treePasses e 0

/-- Array cycles of a prow's fill (R275). -/
def fillBeats (e : QEntry) : Nat := (prowBytes e + prowScales e + 511) / 512 + 4

/-! Lane cycles (R468). -/

/-- The charges of a strip over its way's [first, hi) with `act` active elements: `front` and `back` array cycles of overhead
about the others of `beats`. -/
def stripTrack (vl first hi act beats front back : Nat) : List (List Phase) :=
  let inr := min hi vl - first
  let out := hi - first - inr
  [[⟨front, 0, 0, out, inr, 0⟩, ⟨beats - front - back, act, inr - act, out, 0, 0⟩, ⟨back, 0, 0, out, inr, 0⟩]]

/-- The active elements of a strip. -/
def activeCount (y : Ctx) (e : QEntry) (lo hi : Nat) : Nat :=
  let k := if e.op = .vsel then VMask.all else e.f.k
  let m := maskBits y k.reg.toNat
  ((tab (hi - lo) lo id).filter fun i => predicate m k i).length

/-- The charges of an instruction that runs on every way of its context that has an active element (R170, R468). -/
def crossTrack (y : Ctx) (e : QEntry) (beats : Nat) : List (List Phase) :=
  let l := (stripsOf y).filter fun t => anyActive y e (max t.2.1 e.start) (min t.2.2 e.vl)
  let sum (f : Nat → Nat → Nat) : Nat := (l.map fun t => f t.2.1 t.2.2).sum
  let act := sum fun lo hi => activeCount y e (max lo e.start) (min hi e.vl)
  let inr := sum fun lo hi => min hi e.vl - lo
  let all := sum fun lo hi => hi - lo
  [[⟨beats, act, inr - act, all - inr, 0, 0⟩]]

/-- What draining a way adds to the charges of track `i` of the `n` of the strip that runs on it: the lanes from `first` to hi − 1 that
the track is of, as though a strip of entry `e` ran there (R281, R468). -/
def drainPhase (y : Ctx) (e : QEntry) (beats first hi lo top n i : Nat) : Phase :=
  let mine := (tab (hi - first) first id).filter fun j => n ≤ 1 || (j - first) % n == i
  let m := maskBits y e.f.k.reg.toNat
  let act := (mine.filter fun j => decide (lo ≤ j) && decide (j < top) && predicate m e.f.k j).length
  let inr := (mine.filter fun j => decide (j < e.vl)).length
  ⟨beats, act, inr - act, mine.length - inr, 0, 0⟩

/-- The charges of one array of an `mmav` strip (R306, R307, R468): `inr` of its 512 columns below VL, of which `runs` holds,
row by row, the positions run by each active one and whether it abandoned; `wait` is what a verdict read adds, `most` the
longest array's product time. -/
def arrayTrack (nb pos inr wait front back most : Nat) (runs : List (List (Nat × Bool))) : List Phase :=
  let act := (runs.headD []).length
  let rows := if act = 0 then [] else (runs.mapIdx fun m r =>
    let last := r.foldl (fun p x => max p x.1) 0
    ⟨nb + 4 + (if m = 0 then wait else 0), 0, 0, 512 - inr, inr, 0⟩ :: tab (last + 1) 0 fun k =>
      (⟨if k < last then pos else 0, (r.filter fun x => decide (k < x.1)).length, inr - act, 512 - inr, 0,
        (r.filter fun x => x.1 == k && x.2).length * (pos * (nb - k))⟩ : Phase)).flatten
  let used := (rows.map (·.cycles)).sum
  ⟨front, 0, 0, 512 - inr, inr, 0⟩ :: rows ++ [⟨most - used, 0, 0, 512 - inr, 0, 0⟩, ⟨back, 0, 0, 512 - inr, inr, 0⟩]

end Sys2Proof.Machine
end

