-- ==== Sys2Proof/Machine/Prompter.lean ====
section
/-! DEFINITION. The prompter: which strip, pass, tile instruction or fill starts next, what starting one does, and the events of
chapters 09 to 11 and 13 that carry entries to completion (09 R238 to R261; 10 R273, R284; 11 R299; 13 R342, R343; 17 R425). -/

namespace Sys2Proof.Machine

/-! Contexts in round order (R257). -/

/-- The lowest way of a context, 16 for one that holds none. -/
def lowestWay (y : Ctx) : Nat := y.ways.headD 16

/-- A context put into round order. -/
def insertRound (s : State) (x : Nat) (l : List Nat) : List Nat :=
  match l with
  | [] => [x]
  | y :: t => if lowestWay (ctxAt s x) < lowestWay (ctxAt s y) then x :: y :: t else y :: insertRound s x t

/-- The contexts of a core with entries, in round order (R257). -/
def roundOrder (s : State) (c : Nat) : List Nat :=
  ((s.ctxs.filter fun (x, y) => ctxCore x == c && !y.queue.isEmpty).map (·.1)).foldl (fun l x => insertRound s x l) []

/-- Whether a context may start anything: not frozen, and no trap due (R424). -/
def mayStart (y : Ctx) : Bool := !y.frozen && y.trap.isNone

/-! Deficit round robin (R257, R258, R284). -/

/-- The shared resources arbitrated by the rule of R257 (R258, R284, R400). -/
inductive Arb where
  | strips | tree | rows | tile | sfu
  deriving DecidableEq, Repr

/-- DEF of a context for a resource. -/
def defOf (y : Ctx) (a : Arb) : Int :=
  match a with
  | .strips => y.defStrip | .tree => y.defTree | .rows => y.defRow | .tile => y.defTile | .sfu => y.defSfu

/-- SKIP of a context for a resource. -/
def skipOf (y : Ctx) (a : Arb) : Nat :=
  match a with
  | .strips => y.skipStrip | .tree => y.skipTree | .rows => y.skipRow | .tile => y.skipTile | .sfu => y.skipSfu

/-- DEF and SKIP replaced. -/
def setAccount (y : Ctx) (a : Arb) (d : Int) (k : Nat) : Ctx :=
  match a with
  | .strips => { y with defStrip := d, skipStrip := k }
  | .tree => { y with defTree := d, skipTree := k }
  | .rows => { y with defRow := d, skipRow := k }
  | .tile => { y with defTile := d, skipTile := k }
  | .sfu => { y with defSfu := d, skipSfu := k }

/-- PTR of a resource: a context's number and one, 0 while undefined. -/
def ptrOf (k : Core) (a : Arb) : Nat :=
  match a with
  | .strips => k.stripPtr | .tree => k.treePtr | .rows => k.rowPtr | .tile => k.tilePtr | .sfu => k.sfuPtr

/-- PTR replaced. -/
def setPtr (k : Core) (a : Arb) (p : Nat) : Core :=
  match a with
  | .strips => { k with stripPtr := p } | .tree => { k with treePtr := p } | .rows => { k with rowPtr := p }
  | .tile => { k with tilePtr := p }
  | .sfu => { k with sfuPtr := p }

/-- A contender: its context and the cost of what it would have next. -/
structure Contender where
  ctx  : Nat
  cost : Nat
  deriving DecidableEq, Repr

/-- The quantum of a context (R257). -/
def quantum (s : State) (x : Nat) : Int :=
  match prodAt s (ctxProd x) with
  | some p => p.share * 65536
  | none => 65536

/-- The contenders in round order from a context on, or from the first after it. -/
def fromPtr (s : State) (l : List Contender) (p : Nat) (after : Bool) : List Contender :=
  let w := lowestWay (ctxAt s p)
  let ahead (k : Contender) : Bool := if after then decide (w < lowestWay (ctxAt s k.ctx)) else decide (w ≤ lowestWay (ctxAt s k.ctx))
  l.filter ahead ++ l.filter fun k => !ahead k

/-- A context's quantum added to its deficit. -/
def addQuantum (s : State) (a : Arb) (x : Nat) : State :=
  let y := ctxAt s x
  setCtx s x (setAccount y a (defOf y a + quantum s x) (skipOf y a))

/-- Visits within which the loop of R257 finds a contender that can pay: each round adds every contender's quantum. -/
def drrFuel (s : State) (a : Arb) (l : List Contender) : Nat :=
  l.length * ((l.map fun k => ((k.cost : Int) - defOf (ctxAt s k.ctx) a).toNat / (max (quantum s k.ctx) 1).toNat).foldl max 0 + 2)

/-- The loop of R257: contenders in round order from PTR, each visited with its quantum, until one can pay; `fuel` bounds it. -/
def drrLoop (fuel : Nat) (s : State) (a : Arb) (l : List Contender) (at_ : Contender) : State × Contender :=
  match fuel with
  | 0 => (s, at_)
  | fuel + 1 =>
    if (at_.cost : Int) ≤ defOf (ctxAt s at_.ctx) a then (s, at_) else
    let next := (fromPtr s l at_.ctx true).headD at_
    drrLoop fuel (addQuantum s a next.ctx) a l next

/-- PTR brought up to date with who contends: its context, or the next after it, which receives its quantum on arrival (R257). -/
def trackPtr (s : State) (c : Nat) (a : Arb) (l : List Contender) : State × Option Contender :=
  let p := ptrOf (coreAt s c) a
  match l.find? fun k => k.ctx + 1 == p with
  | some k => (s, some k)
  | none =>
    match (if p = 0 then l else fromPtr s l (p - 1) true).head? with
    | none => (setCore s c (setPtr (coreAt s c) a 0), none)
    | some k => (addQuantum (setCore s c (setPtr (coreAt s c) a (k.ctx + 1))) a k.ctx, some k)

/-- The pick of R257 among contenders in round order, with PTR, deficits and skips as it leaves them; none of none. -/
def drrPick (s : State) (c : Nat) (a : Arb) (l : List Contender) : State × Option Contender :=
  match trackPtr s c a l with
  | (s, none) => (s, none)
  | (s, some at_) =>
    let hot := (fromPtr s l at_.ctx false).find? fun k => skipOf (ctxAt s k.ctx) a == 15
    let (s, pick) := match hot with
      | some k => (s, k)
      | none =>
        let (s, k) := drrLoop (drrFuel s a l) s a l at_
        (setCore s c (setPtr (coreAt s c) a (k.ctx + 1)), k)
    let s := l.foldl (fun s k =>
      let y := ctxAt s k.ctx
      if k.ctx = pick.ctx then setCtx s k.ctx (setAccount y a (defOf y a - pick.cost) 0)
      else setCtx s k.ctx (setAccount y a (defOf y a) (min (skipOf y a + 1) 15))) s
    (s, some pick)

/-- The contexts with elements of a `vsfu` strip to send, in round order, each with the cost of its next batch (R258, R400). -/
def sfuContenders (s : State) (c : Nat) : List Contender :=
  let k := coreAt s c
  let left (x : Nat) : Nat := ((k.sfuVec.filter fun v => v.ctx == x && v.left != 0).map (·.left)).headD 0
  ((roundOrder s c).filter fun x => left x != 0).map fun x => ⟨x, min 64 (left x)⟩

/-! What an entry reads and writes (R252, R255, R342). -/

/-- The m register an instruction writes, where it writes one. -/
def maskDest (e : QEntry) : Option Nat :=
  match e.op with
  | .vceq | .vcne | .vclt | .vcltu | .vcle | .vcleu | .vceqS | .vcltS | .mand | .mor | .mxor | .mandn | .mnot | .mmv | .mset
  | .mclr | .msbf | .msif | .vmatch | .vfceq | .vfclt | .vfcle | .vfcun | .vhktest => some e.f.d.toNat
  | .vldsync => some e.f.c.toNat
  | _ => none

/-- Whether an instruction writes v register `r`. -/
def writesV (e : QEntry) (r : Nat) : Bool :=
  if e.op = .pload then decide (e.band.band ≤ r) && decide (r < e.band.band + e.band.regs)
  else decide (e.f.d.toNat ≤ r) && decide (r < regsWritten e)

/-- The v registers an instruction names: those of the lanes, a store's data, an index, a band and its accumulators. -/
def touchesV (e : QEntry) : List Nat :=
  let wide (l : List Nat) : List Nat := if vtSew e.vtype = 64 then l ++ l.map (· + 1) else l
  match e.op with
  | .mma | .mmav => tab (e.acc.headD 0).toNat e.f.d.toNat id ++ tab e.band.regs e.band.band id ++
      (if e.op = .mmav ∧ bitOf e.ga 7 = true then [fld e.ga 8 5] else [])
  | .pload | .pbnd => tab e.band.regs e.band.band id
  | .tacc | .trow | .ptree => [e.f.a.toNat, e.f.a.toNat + 1]
  | op => if isMemOp op then wide [e.f.d.toNat, e.f.b.toNat] else wide (namedV e)

/-- Whether an instruction reads indices from vB (R350, R357). -/
def indexed (op : VOp) : Bool :=
  match op with
  | .vldx | .vstx | .vstxa | .vldsync | .vldrow | .vstrow | .vamorow => true
  | _ => false

/-- Whether an earlier entry writes what tells which addresses a memory instruction touches: its mask, or its indices (R342). -/
def feedsAddresses (f e : QEntry) : Bool :=
  (e.f.k.en && maskDest f == some e.f.k.reg.toNat) || (indexed e.op && writesV f e.f.b.toNat)

/-- The m registers an instruction names: its mask or selection, the sources of the mask algebra, and its destination. -/
def touchesM (e : QEntry) : List Nat :=
  let sources := match e.op with
    | .mand | .mor | .mxor | .mandn => [e.f.a.toNat, e.f.b.toNat]
    | .mnot | .mmv | .mpopc | .mfirst | .msbf | .msif => [e.f.a.toNat]
    | .vsel | .vcompress | .vexpand => [e.f.k.reg.toNat]
    | _ => []
  (if e.f.k.en then [e.f.k.reg.toNat] else []) ++ sources ++ (maskDest e).toList

/-- Whether an earlier load writes what a later entry names, in v or in m registers (R255). -/
def consumes (e f : QEntry) : Bool :=
  (touchesV e).any (writesV f) || (maskDest f).any (touchesM e).contains

/-! What may start (R251 to R256, R259, R263, R273, R281, R351). -/

/-- The strips of an entry that run. -/
def runningOf (k : Core) (x seq : Nat) : List Strip := k.strips.filter fun t => t.ctx == x && t.seq == seq

/-- Whether nothing of an entry is left to start or run. -/
def entryOver (k : Core) (y : Ctx) (x : Nat) (e : QEntry) : Bool := allStarted y e && (runningOf k x e.seq).isEmpty

/-- Whether an entry's unit pins pages before its strips (R342, R296). -/
def pinsPages (e : QEntry) : Bool :=
  match e.op with
  | .mma | .mmav | .prow | .tmma | .tld | .tst => false
  | .pbnd => !bitOf e.gb 0
  | op => isMemOp op

/-- The addresses an entry pins for elements lo to hi − 1 (R270, R296, R342). -/
def pinAddrs (y : Ctx) (e : QEntry) (lo hi : Nat) : List Word :=
  match e.op with
  | .pload | .pbnd => (bandPieces e lo hi).map (·.ea)
  | _ => memAddrs y e lo hi

/-- The strip's pages pinned, where its entry's unit pins any and has not pinned these; true where the strip may go on (R342). -/
def pinnedFor (s : State) (x : Nat) (e : QEntry) (p : StripPart) (first : Bool) : State × Bool :=
  if !pinsPages e || decide (p.top ≤ e.pinned) then (s, true) else
  let y := ctxAt s x
  pinStep s x e (e.op == .vldw) (pinAddrs y e p.lo e.vl) (pinAddrs y e p.lo p.top) p.top first

/-- Whether an access of entry `e` may begin: every earlier access of the context's entries made, the slot's earlier stores
drained, its acquires answered, and its own packets answered (R146, R183, R351, R373, R459). -/
def memReady (s : State) (x : Nat) (e : QEntry) (before : List QEntry) : Bool :=
  let k := coreAt s (ctxCore x)
  let y := ctxAt s x
  (before.all fun f => !(isMemOp f.op && accessesMemory f) || entryOver k y x f) &&
  (match y.bound with
   | some i => ((slotAt s i).sbuf.all fun t => decide (e.seq ≤ t.after)) && !acqWaits s i &&
     !(slotAt s i).arrivals.any fun a => a.load.any fun q => decide (q.seq < e.seq)
   | none => true) &&
  remoteAll s (.strip x e.seq)

/-- Whether an earlier entry keeps a strip that ends at `hi` from starting: it has a strip at or below that one still to start,
or it is of a kind whose effect comes first; a `ptree` writes its results as its pass ends, and a `pload` with no strip sets its product
state as it completes (R240, R252, R254, R263, R270, R281,
R282, R287). -/
def holdsBack (k : Core) (y : Ctx) (x : Nat) (f e : QEntry) (hi : Nat) : Bool :=
  let before : Bool := (nextStrip y f).any fun q => decide (q.hi ≤ hi)
  match entryKind f with
  | .row => f.st != .done && (e.op == .mma || e.op == .mmav) && fld f.gb 8 1 == fld e.ga 0 1
  | .tile => f.st != .done && (f.op == .tacc || f.op == .trow)
  | .lane => f.st != .done && (before || (f.op == .pload && f.acc == []))
  | .tree => if f.op = .ptree then f.st != .done || !(runningOf k x f.seq).isEmpty else f.st != .done && before
  | .cross => true

/-- The chains that power control or the dimmer has withdrawn on a core (R255, R408). -/
def chainsOff (s : State) (c : Nat) : BitVec 4 := (coreAt s c).chainOff ||| chOffNow s

/-- Whether a withdrawn chain makes an entry wait: for an earlier load whose result it takes, or, of a tree-fed instruction or of
`vsfu`, for every earlier entry (R255). -/
def chainHolds (off : BitVec 4) (e : QEntry) (before : List QEntry) : Bool :=
  (bitOf off 0 && before.any fun f => isVecLoad f.op && accessesMemory f && consumes e f) ||
  (bitOf off 1 && opKind e.op == .tree && !before.isEmpty) || (bitOf off 3 && e.op == .vsfu && !before.isEmpty)

/-- Relay buffers a context has been granted that no running strip holds (R251, R258). -/
def grantedRelays (k : Core) (x : Nat) : Nat :=
  (k.rowHold.filter fun h => isRelay x h).length - ((k.strips.filter fun t => t.ctx == x).map (·.relay)).sum

/-- Whether an entry's strips use the tree: it is a cross-element or tree-fed instruction, or takes passes for its blocks (R248,
R254, R259). -/
def usesTree (e : QEntry) : Bool := opKind e.op == .cross || opKind e.op == .tree || blockPasses e.op

/-- The tree as a cross-element or tree-fed entry holds it, before its last strip has drained (R258, R259). -/
def treeHeld (k : Core) (x : Nat) (e : QEntry) : Option Strip :=
  k.strips.find? fun t => t.way == 16 && t.endAt == 0 && t.ctx == x && t.seq == e.seq

/-- Whether a tree pass of an entry runs. -/
def passRuns (k : Core) (x : Nat) (e : QEntry) : Bool := k.strips.any fun t => t.way == 16 && t.ctx == x && t.seq == e.seq

/-- Array cycles of a strip that have gone by. -/
def elapsed (s : State) (c : Nat) (t : Strip) : Nat := t.spent + arrayCycles s c t.begun (cycleOf s c)

/-- The strip of an `mma` or `mmav` that runs on a way, where each of these registers that it writes has its row-m chaining bit set
there, and it writes one (R281, R305). -/
def rowsReady (s : State) (x way : Nat) (rs : List Nat) : Option Strip :=
  let c := ctxCore x
  ((coreAt s c).strips.find? fun t => t.ctx == x && t.way == way).filter fun t =>
    match (ctxAt s x).queue.find? fun f => f.seq == t.seq with
    | some f =>
      let mine := rs.filter (writesV f)
      (f.op == .mma || f.op == .mmav) && !mine.isEmpty && mine.all fun r => (t.rows[r - f.f.d.toNat]?).any fun n => decide (n ≤ elapsed s c t)
    | none => false

/-- The v registers a tree-fed instruction drains. -/
def drainedV (e : QEntry) : List Nat :=
  let l := match e.op with
    | .mpopc => []
    | .vfdotO => [e.f.a.toNat, e.f.b.toNat]
    | _ => [e.f.a.toNat]
  if vtSew e.vtype = 64 then l ++ l.map (· + 1) else l

/-- How near a strip is to starting: it may start; it wants its relay's buffers or the tree; or it may not. -/
inductive Readiness where
  | yes | relay | tree | no
  deriving DecidableEq, Repr

/-- Whether an earlier entry still needs a resource that strips wait for while a tree-fed instruction holds the tree. -/
def wantsTreeOrRelay (y : Ctx) (f : QEntry) : Bool := !allStarted y f && (usesTree f || relayNeed f != 0)

/-- Whether the way of a strip is free for it: no strip of the context runs there, or one of an `mma` whose rows a tree-fed
instruction can take; an adaptive `vqpack` relays (R251, R252, R281). -/
def wayFree (s : State) (x : Nat) (e : QEntry) (p : StripPart) : Bool :=
  let k := coreAt s (ctxCore x)
  !(k.strips.any fun t => t.ctx == x && t.way == p.way) || (opKind e.op == .tree && (rowsReady s x p.way (drainedV e)).isSome)

/-- What a strip that may start but for the tree waits for: a pass of its own, which other entries may have to go before, or the
end of one (R248, R258, R259). -/
def treeReady (k : Core) (y : Ctx) (x : Nat) (e : QEntry) (p : StripPart) (before : List QEntry) : Readiness :=
  let ask : Readiness := if before.any (wantsTreeOrRelay y) then .no else .tree
  if blockPasses e.op then
    if passRuns k x e then .no else if e.passes < treePasses e (p.top - p.lo) then ask else .yes
  else if usesTree e && (treeHeld k x e).isNone then ask
  else .yes

/-- Whether a strip may start, but for the strip slot and its pages (R251 to R256, R299, R342, R343). -/
def stripReady (s : State) (x : Nat) (e : QEntry) (p : StripPart) (before : List QEntry) : Readiness :=
  let c := ctxCore x
  let k := coreAt s c
  let y := ctxAt s x
  let mem := isMemOp e.op && accessesMemory e
  let hi := if e.op = .pload ∧ p.top = e.vl then 2 ^ 64 else p.hi
  if !wayFree s x e p || (before.any fun f => holdsBack k y x f e hi) ||
      chainHolds (chainsOff s c) e before || ((mem || isAdaptive e) && !memReady s x e before) || cardWaits s x e ||
      (k.pinWait.any fun w => w.ctx == x && w.seq == e.seq) ||
      (pinsPages e && e.pinned == 0 && before.any fun f => feedsAddresses f e && !allStarted y f) ||
      (pinsPages e && e.pinned != 0 && decide (e.pinned < p.top) && !(runningOf k x e.seq).isEmpty) then .no
  else if grantedRelays k x < relayNeed e then .relay
  else treeReady k y x e p before

/-- What a context may do next for its strips: start one; ask for the tree or a relay's buffers; or go on without starting any, as
when a strip with no active element is passed, and stand as `t`. -/
inductive Candidate where
  | strip (e : QEntry) (p : StripPart)
  | held (t : State)
  | tree (e : QEntry) (p : Option StripPart)
  | relay (e : QEntry) (p : StripPart)

/-! Starting. -/

/-- When an entry's strip starts: now, or 4 array cycles after it reached the prompter unless it is replayed (R241). -/
def startTime (s : State) (x : Nat) (e : QEntry) : Nat :=
  let now := cycleOf s (ctxCore x)
  if (ctxAt s x).loopBuf.contains (expKey e) then now
  else max now e.readyAt

/-- The end of `beats` array cycles from a time (R405). -/
def endTime (s : State) (c t beats : Nat) : Nat := cyclesEnd (coreAt s c).halfRate t beats

/-- A strip, pass or fill runs. -/
def addStrip (s : State) (c : Nat) (t : Strip) : State :=
  let k := coreAt s c
  setCore s c { k with strips := k.strips ++ [t] }

/-- A running strip replaced. -/
def setStrip (s : State) (c : Nat) (old new : Strip) : State :=
  let k := coreAt s c
  setCore s c { k with strips := k.strips.map fun q => if q = old then new else q }

/-- A strip of entry `e`, or a pass of it, that runs from now on. -/
def stripOf (s : State) (x : Nat) (e : QEntry) (way relay first last beats : Nat) (tracks : List (List Phase)) : Strip :=
  let t0 := startTime s x e
  ⟨x, e.seq, way, relay, first, last, t0, endTime s (ctxCore x) t0 beats, tracks, 0, [], [], 0⟩

/-- What an element-wise entry does to elements lo to hi − 1 (R188, R211). -/
def laneWork (y : Ctx) (e : QEntry) (lo hi : Nat) : LaneEffect :=
  if !isFloatOp e.op then ⟨laneInt y e lo hi, 0, []⟩ else
  match e.op with
  | .vqscale | .vqpack => (laneQuant y e 0 lo hi).1
  | .vfwht => laneWht y e lo hi
  | .vfceq | .vfclt | .vfcle | .vfcun | .vhktest => laneCompare y e lo hi
  | _ => laneFloat y e lo hi

/-- The work of one strip, but for `mmav` (R170, R188, R270, R277, R296, R350). -/
def stripWork (s : State) (x : Nat) (e : QEntry) (p : StripPart) : StripOut :=
  let y := ctxAt s x
  match e.op with
  | .pload => stripPload s x e p.way p.lo p.top
  | .pbnd => stripPbnd s x e p.way p.lo p.top
  | .mma => stripMma s x e p.way p.lo p.top
  | op =>
    if isMemOp op then stripMem s x e p.lo p.top else
    let o := laneWork y e p.lo p.top
    .did (setCtx s x o.ctx) { e with flags := e.flags ||| o.flags, faults := e.faults ++ o.faults }

/-- A context's deficit for strips charged, or credited (R257, R306). -/
def debit (s : State) (x : Nat) (n : Int) : State :=
  let y := ctxAt s x
  setCtx s x { y with defStrip := y.defStrip - n }

/-! Cross-element and tree-fed instructions (R188, R229, R254, R259). -/

/-- What a tree-fed strip drains: the elements and mask bits that the instruction reads (R254). -/
def drainInto (y : Ctx) (e : QEntry) (lo hi : Nat) : QEntry :=
  let ms := (if e.f.k.en then [e.f.k.reg.toNat] else []) ++ (if e.op = .mpopc then [e.f.a.toNat] else [])
  { e with
    snapV := (drainedV e).foldl (fun m r => snapRow m y r lo hi) e.snapV
    snapM := ms.foldl (fun m r => snapMask m y r lo hi) e.snapM
    faults := e.faults ++ (if hooksFault e && isFloatOp e.op then (reduced y { e with start := lo, vl := hi }).2 else []) }

/-- The effect of a cross-element or tree-fed instruction whose strips have all drained: the context, and the entry done. An
adaptive `vqpack` reads its card; DESIGN CHOICE: one whose card no longer translates after a restore packs with OFFSET 0 and faults
as it completes, and the OFFSET of a card whose line is poisoned is used as it stands: the poison is met at the update (R229;
log 15). -/
def crossEffect (s : State) (x : Nat) (e : QEntry) : State :=
  let c := ctxCore x
  let y := ctxAt s x
  let src := if opKind e.op = .tree then { y with v := e.snapV, m := e.snapM } else y
  let (y', e') : Ctx × QEntry :=
    if isAdaptive e then
      let ea := e.acc.headD 0
      let offset : Int := match pinnedLoc s x e.seq needRW ea with
        | some l => sInt 8 (fld (BitVec.ofNat 64 (leNat (cardHome s c l 8).1)) 8 8)
        | none => 0
      let (o, k) := laneQuant y e offset (firstElem e) e.vl
      let amax := (encNum fp32 ⟨.rup, false, false, 0⟩ k.amax ⟨0, 0⟩).1
      (o.ctx, { e with flags := o.flags, faults := o.faults, acc := [ea, BitVec.ofNat 64 amax, BitVec.ofNat 64 k.sat] })
    else if e.op = .ptree then
      let o := gangTree src y e
      (o.ctx, { e with flags := o.flags, faults := o.faults })
    else if isFloatOp e.op then
      let o := crossFloat src e
      (if opKind e.op = .tree then y else o.ctx, { e with flags := o.flags, faults := o.faults, result := o.result })
    else
      let (z, r, fs) := crossInt src e
      (if opKind e.op = .tree then y else z, { e with faults := fs, result := r })
  setEntry (setCtx s x y') x { e' with st := .done, restart := e.vl }

/-- The context whose masks say which elements of an entry are active: those a tree-fed one has drained. -/
def passSource (y : Ctx) (e : QEntry) : Ctx := if opKind e.op = .tree then { y with m := e.snapM } else y

/-- An entry in its last tree pass has its effect; one with passes to come waits for the next (R258). -/
def lastPass (s : State) (x : Nat) (e : QEntry) : State :=
  if treePasses e 0 ≤ e.passes then crossEffect s x e else setEntry s x e

/-- A cross-element or tree-fed instruction whose last strip has drained, by `drained` at the latest: the rest of its first pass (R258
to R260). -/
def finishCross (s : State) (x : Nat) (e : QEntry) (drained : Nat) : State :=
  let c := ctxCore x
  match treeHeld (coreAt s c) x e with
  | none => setEntry s x e
  | some t =>
    let src := passSource (ctxAt s x) e
    let at_ := (runningOf (coreAt s c) x e.seq).foldl (fun m q => max m q.endAt) drained
    let rest := treeBeats src e - entryDrain e
    let s := setStrip s c t { t with
      begun := at_
      endAt := max (endTime s c at_ rest) 1
      spent := 0
      tracks := if opKind e.op = .cross then crossTrack src e rest else [] }
    lastPass s x { e with begun := true, passes := 1 }

/-- A strip of a cross-element or tree-fed instruction drains into the tree, on its way or through the leaves of a way whose `mma`
has written the rows it reads; each leaf read of eight elements lengthens that strip by a cycle (R254, R259, R281). -/
def startDrain (s : State) (x : Nat) (e : QEntry) (p : StripPart) : State :=
  let c := ctxCore x
  let y := ctxAt s x
  let first := (stripGroups y p.way).1

  let (beats, front, back) := stripBeats e
  let act := activeCount y e p.lo p.top
  let t0 := startTime s x e
  let s := match (coreAt s c).strips.find? fun t => t.ctx == x && t.way == p.way with
    | some t =>
      let gone := elapsed s c t
      setStrip s c t { t with
        endAt := endTime s c t.endAt beats
        tracks := t.tracks.mapIdx fun i l => l ++ [drainPhase y e beats first p.hi p.lo p.top t.tracks.length i]
        rows := t.rows.map fun r => if r ≤ gone then r else r + beats }
    | none => addStrip (setCtx s x (setLatches y x e p.way first p.hi p.lo p.top)) c
        (stripOf s x e p.way (relayNeed e) p.lo p.top beats
          (stripTrack e.vl first p.hi act beats front back))
  let e := { (if opKind e.op = .tree then drainInto y e p.lo p.top else e) with restart := p.hi, begun := true, passes := 0 }
  if (nextStrip y e).isSome then setEntry s x e
  else if isAdaptive e then crossEffect s x e
  else finishCross s x e (endTime s c t0 beats)

/-! Strips of `mmav` (R299, R305, R306). -/

/-- The array cycles of an mmav strip and the charges of its lanes, where `wait` cycles are awaited beyond the first suffix
phase (R306, R468). -/
def mmavTracks (y : Ctx) (e : QEntry) (way wait : Nat) (o : MmavOut) : Nat × List (List Phase) :=
  let (first, groups) := stripGroups y way
  let n := max groups.length 1
  let (_, front, back) := stripBeats e
  let below := min (first + 512 * n) e.vl - first
  (front + o.cycles + back, o.runs.mapIdx fun i r =>
    arrayTrack (bandBlocks e.band) (e.band.l * ftRate e.band.ft) ((below + n - 1 - i) / n) wait front back o.cycles r)

/-- What a strip of mmav over elements lo to hi − 1 does with the reads that have come back, and how long its first suffix phase
waits for the first of them (R299, R306). -/
def mmavWith (s : State) (x : Nat) (e : QEntry) (way lo hi : Nat) (reads : List VerdictRead) : Nat × MmavOut :=
  let (_, front, _) := stripBeats e
  let wait := (reads.head?.elim 0 (·.back)) - (front + bandBlocks e.band + 4)
  (wait, stripMmav s x e way lo hi front wait reads)

/-- The array cycles after which each row of a strip of mma or mmav has been written, from those at which it is closed (R280, R281). -/
def rowTimes (e : QEntry) (closed : List Nat) : List Nat := closed.mapIdx fun m t => t + writeBack (e.f.d.toNat + m)

/-- The array cycles of a strip of mmav as far as they are known before any read has come back (R306). -/
def mmavBeats (s : State) (x : Nat) (e : QEntry) (p : StripPart) : Nat :=
  let y := ctxAt s x
  let (w, o) := mmavWith s x { e with snapV := y.v } p.way p.lo p.top []
  (mmavTracks y e p.way w o).1

/-- A strip of `mmav` starts: one that reads a verdict word keeps its accumulators and waits for its first read; another does its
work at once (R299, R304). -/
def startMmav (s : State) (x : Nat) (e : QEntry) (p : StripPart) : State :=
  let c := ctxCore x
  let y := ctxAt s x
  let first := (stripGroups y p.way).1
  let e := { e with restart := p.hi }
  if readsVerdict e then
    let snap := (tab (e.acc.headD 0).toNat e.f.d.toNat id).foldl (fun m r => snapRow m y r p.lo p.top) e.snapV
    let t := stripOf s x e p.way 0 p.lo p.top 0 (stripTrack e.vl first p.hi 0 (2 ^ 64) (2 ^ 64) 0)
    addStrip (setEntry s x { e with snapV := snap }) c { t with endAt := 0 }
  else
    let (w, o) := mmavWith s x e p.way p.lo p.top []
    let (total, l) := mmavTracks y e p.way w o
    addStrip (setEntry o.st x { e with flags := e.flags ||| o.flags }) c
      { stripOf s x e p.way 0 p.lo p.top total l with rows := rowTimes e o.closed }

/-- One acquire read of a verdict word: its key, or a key that nothing latches where its line is poisoned or its packet refused;
none while its packet is on its way, its page migrates or an engine owns its line. DESIGN CHOICE: that of a restored `mmav`, which
has lost its pin, is discarded without a fault, a record or a new pin where its page no longer translates (R299, R303, R346, R378,
R437, R459; log 29). -/
def verdictRead (s : State) (x : Nat) (e : QEntry) : Option Word × State :=
  let c := ctxCore x
  let key := RKey.strip x e.seq
  let void : Word := 0x7FC00000
  if pinWaits s x e.seq (e.vdcfg &&& ~~~7) then (none, s) else
  match pinnedLoc s x e.seq needR (e.vdcfg &&& ~~~7) with
  | none => (some void, acquireAt s c .package)
  | some l =>
    match apertureOf l with
    | some pa =>
      let s := remoteSend s key [(pa, 8, none)]
      match remoteGot s key pa 8 false with
      | none => (none, s)
      | some r =>
        (some (if r.status = some 0 then BitVec.ofNat 64 (leNat (r.data.take 4)) else void), acquireAt (remoteClear s key) c .package)
    | none =>
      let s := acquireAt s c .package
      if locPoisoned s c l then
        (some void, sealRecord s c 5 (ctxProd x) l)
      else (some (BitVec.ofNat 64 (leNat (locBytes s c l 4))), s)

/-- The array cycle of a strip at which its next read of the verdict word is issued, where one is due by now: at its start, then at
each block boundary of one of its arrays (R299). -/
def readDue (s : State) (x : Nat) (e : QEntry) (t : Strip) : Option Nat :=
  let c := ctxCore x
  let now := elapsed s c t
  match t.reads.getLast? with
  | none => if t.begun ≤ cycleOf s c then some 0 else none
  | some r =>
    let o := (mmavWith s x e t.way t.first t.last t.reads).2
    ((o.bounds.filter fun b => decide (r.issued < b) && decide (b ≤ now)).min?).filter fun _ => decide (cycleOf s c < t.endAt)

/-- Charges of a strip's lanes with what its leaf reads have added to them: `old` are those of the strip alone. -/
def withLeafReads (new old all : List (List Phase)) : List (List Phase) :=
  new.mapIdx fun i l => l ++ (all.getD i []).drop (old.getD i []).length

/-- A read of the verdict word returns to a strip: its later tests use the latch it raises, and the strip's time and the cost that
its context has paid follow; a strip that was waiting for it goes on (R257, R299, R304, R306). -/
def verdictReturn (s : State) (x : Nat) (e : QEntry) (t : Strip) (issued : Nat) (key : Word) : State :=
  let c := ctxCore x
  let y := ctxAt s x
  let reads := t.reads ++ [⟨issued, elapsed s c t, key⟩]
  let (w0, o0) := mmavWith s x e t.way t.first t.last t.reads
  let (old, l0) := mmavTracks y e t.way w0 o0
  let (w, o) := mmavWith s x e t.way t.first t.last reads
  let (total, l) := mmavTracks y e t.way w o
  let s := debit o.st x ((t.last - t.first : Nat) * ((total : Int) - old))
  let end_ := if t.endAt = 0 then endTime s c t.begun (total - t.spent)
    else endTime s c t.endAt total - (endTime s c t.endAt old - t.endAt)
  setStrip s c t { t with
    reads := reads
    endAt := max end_ (cycleOf s c + 1)
    tracks := if t.endAt = 0 then l else withLeafReads l l0 t.tracks
    rows := rowTimes e o.closed }

/-- The reads of verdict words that are due by now on a core: the strip, its entry, and the array cycle of the strip at which the
read was issued (R299). -/
def dueReads (s : State) (c : Nat) : List (Strip × QEntry × Nat) :=
  (coreAt s c).strips.filterMap fun t =>
    if t.way < 16 then
      ((ctxAt s t.ctx).queue.find? fun e => e.seq == t.seq && e.op == .mmav && readsVerdict e).bind fun e =>
        (readDue s t.ctx e t).map fun n => (t, e, n)
    else none

/-- Whether two due reads are one: of one word of one production, issued in the same array cycle (R299). -/
def sharedRead (s : State) (c : Nat) (p q : Strip × QEntry × Nat) : Bool :=
  let issued (r : Strip × QEntry × Nat) : Nat := endTime s c r.1.begun (r.2.2 - r.1.spent)
  ctxProd p.1.ctx == ctxProd q.1.ctx && (p.2.1.vdcfg >>> 3) == (q.2.1.vdcfg >>> 3) && issued p == issued q

/-- VERDICT_READ_RETURN: the oldest read due of a running strip of context `x` returns, to every strip of the core that shares it (R299,
R304, R306). -/
def execVerdictReadReturn (c x : Nat) (s : State) : Result :=
  let l := dueReads s c
  match l.find? fun r => r.1.ctx == x with
  | none => .next s
  | some r =>
    match verdictRead s x r.2.1 with
    | (none, s) => .next s
    | (some key, s') =>
      .next ((l.filter (sharedRead s c r)).foldl (fun s q => verdictReturn s q.1.ctx q.2.1 q.1 q.2.2 key) s')

/-! Strips, started and passed (R170, R241 to R257). -/

/-- The array cycles after which each row of a strip of mma has been written (R280, R281). -/
def mmaRows (e : QEntry) (front : Nat) : List Nat :=
  rowTimes e (tab (e.acc.headD 0).toNat 1 fun m => front + m * productBeats e)

/-- A strip of `vsfu` with `n` active elements sends them to the special-function unit in batches, and ends no earlier than their
results have come (R400, R404). -/
def sendStrip (s : State) (x way n beats : Nat) (t : Strip) : State :=
  let c := ctxCore x
  let s := addStrip s c { t with endAt := 0 }
  let k := coreAt s c
  let s := setCore s c { k with sfuVec := k.sfuVec ++ [⟨x, way, n, 0, beats⟩] }
  (trackPtr s c .sfu (sfuContenders s c)).1

/-- An entry that stops at a strip, which is not started (R170, R352). -/
def stopStrip (s : State) (x : Nat) (e : QEntry) (p : StripPart) (cause : Nat) (addr : Word) : State :=
  let e := ((ctxAt s x).queue.find? fun q => q.seq == e.seq).getD e
  setEntry s x { e with restart := p.lo, st := .stopped cause addr }

/-- A strip of a lane entry starts: its work, its way for the time of its beats, with what its data add to them (R170, R242,
R250, R257, R296). -/
def startStrip (s : State) (x : Nat) (e : QEntry) (p : StripPart) : State :=
  let c := ctxCore x
  let y := ctxAt s x
  let g := stripGroups y p.way
  let s := setCtx s x (setLatches y x e p.way g.1 p.hi p.lo p.top)
  if e.op = .mmav then startMmav s x e p else
  let (b, front, back) := stripBeats e
  let extra := subnormalBeats y e p.lo p.top
  match stripWork s x e p with
  | .wait s => s
  | .stop s cause addr => stopStrip s x e p cause addr
  | .did s' e' =>
    let order := if e.op = .pbnd ∧ orderChanged e g y (ctxAt s' x) = true then orderBeats e.band else 0
    let beats := b + extra + order
    let (s', e') := lastStripDone s' x { e' with restart := p.hi, passes := 0 }
    let s' := setEntry s' x e'
    let t := stripOf s' x e p.way (relayNeed e) p.lo p.top beats (stripTrack e.vl g.1 p.hi (activeCount y e p.lo p.top) beats front back)
    let t := { t with owes := (p.top - p.lo) * extra }
    if e.op = .vsfu then sendStrip s' x p.way (activeCount y e p.lo p.top) beats t
    else addStrip s' c { t with rows := if e.op = .mma then mmaRows e front else [] }

/-- A strip with no active element is passed: it takes no steps and costs nothing; of a tree-fed one the mask alone is taken (R170,
R209, R257). -/
def passStrip (s : State) (x : Nat) (e : QEntry) (p : StripPart) : State :=
  let y := ctxAt s x
  let e := if opKind e.op = .tree then drainInto y e p.lo p.top else captureIndices y e
  let (s, e) := lastStripDone s x { e with restart := p.hi, passes := if usesTree e && entryKind e != .lane then e.passes else 0 }
  if (nextStrip (ctxAt s x) e).isSome ∨ entryKind e = .lane then setEntry s x e
  else if isAdaptive e then crossEffect s x e
  else if usesTree e then finishCross s x e (cycleOf s (ctxCore x))
  else setEntry s x e

/-- What a strip that may start, but for its slot, comes to: it is passed, it takes its pages first, or waits for packets or for
lines that another instruction owns, or stops; or it can start (R170, R342, R378, R459). -/
def prepare (s : State) (x : Nat) (e : QEntry) (p : StripPart) : Option Candidate :=
  if !stripActive (ctxAt s x) e p then some (.held (passStrip s x e p)) else
  match pinnedFor s x e p false with
  | (t, false) => some (.held t)
  | (t, true) =>
    if pinsPages e && decide (e.pinned < p.top) then some (.held t)
    else if isMemOp e.op && e.op != .mmav then
      match stripWork s x e p with
      | .wait t => if t = s then none else some (.held t)
      | .stop t cause addr => some (.held (stopStrip t x e p cause addr))
      | .did _ _ => some (.strip e p)
    else some (.strip e p)

/-- Whether an entry's strips have all run their hook screens by now (R249, R253). -/
def screened (s : State) (x : Nat) (e : QEntry) : Bool :=
  let c := ctxCore x
  (runningOf (coreAt s c) x e.seq).all fun t => decide (16 ≤ t.way) || decide (screenBeats e ≤ elapsed s c t)

/-- Whether an entry that is not complete is settled by now: a screen finds its strip clean once its steps are over (R253). -/
def settledNow (s : State) (x : Nat) (e : QEntry) : Bool :=
  settled (ctxAt s x) e && (!canFault e || screened s x e)

/-- What an entry itself may do next. -/
def ownStep (s : State) (x : Nat) (before : List QEntry) (e : QEntry) : Option Candidate :=
  let y := ctxAt s x
  match nextStrip y e with
  | none =>
    if before ≠ [] ∨ opKind e.op = .lane ∨ passRuns (coreAt s (ctxCore x)) x e = true then none
    else if isAdaptive e then (if cardWaits s x e then none else some (.held (crossEffect s x e)))
    else some (.tree e none)
  | some p =>
    match stripReady s x e p before with
    | .yes => prepare s x e p
    | .relay => if stripActive y e p then some (.relay e p) else some (.held (passStrip s x e p))
    | .tree => if stripActive y e p then some (.tree e (some p)) else some (.held (passStrip s x e p))
    | .no => none

/-- What may start or be asked for among entries in order, where every earlier one is settled (R253, R254, R256). -/
def candidatesFrom (s : State) (x : Nat) (before : List QEntry) (l : List QEntry) : List Candidate :=
  match l with
  | [] => []
  | e :: t =>
    let next := if settledNow s x e then candidatesFrom s x (before ++ [e]) t else []
    match e.st, entryKind e with
    | .stopped _ _, _ => []
    | .done, .cross => []
    | .done, _ => next
    | .queued, .cross => if before = [] then (ownStep s x before e).toList else []
    | .queued, .tile => next
    | .queued, .row => next
    | .queued, _ => (ownStep s x before e).toList ++ next

/-- A context's candidates; of one that stops, what the entry that goes on does (R252 to R256, R261). -/
def candidates (s : State) (x : Nat) : List Candidate :=
  let y := ctxAt s x
  if mayStart y then candidatesFrom s x [] y.queue
  else match runsOn s x with
    | some e => candidatesFrom s x (y.queue.takeWhile fun f => f.seq != e.seq) [e]
    | none => []

/-- E × B of a strip (R257, R306). -/
def stripCost (s : State) (x : Nat) (e : QEntry) (p : StripPart) : Nat :=
  (p.top - p.lo) * (if e.op = .mmav then mmavBeats s x e p else (stripBeats e).1)

/-- The contexts of a core that are backlogged, in round order, each with its strip (R256). -/
def stripContenders (s : State) (c : Nat) : List (Contender × QEntry × StripPart) :=
  (roundOrder s c).filterMap fun x =>
    (candidates s x).findSome? fun k => match k with
      | .strip e p => some (⟨x, stripCost s x e p⟩, e, p)
      | _ => none

/-- What a context does beside starting a strip: the first of the core's, in round order. -/
def heldStep (s : State) (c : Nat) : Option State :=
  (roundOrder s c).findSome? fun x =>
    (candidates s x).findSome? fun k => match k with
      | .held t => some t
      | _ => none

/-- The strip that a context was picked for starts. -/
def startPicked (s : State) (x : Nat) (e : QEntry) (p : StripPart) : State :=
  if opKind e.op = .cross ∨ opKind e.op = .tree then startDrain s x e p
  else if isAdaptive e then startDrain s x e p
  else startStrip s x e p

/-- STRIP_START: a strip with no active element is passed, or a strip's pages are asked for; else the strip that R257 picks
starts, when a strip slot is free (R170, R256, R257, R342). -/
def execStripStart (c : Nat) (s : State) : Result :=
  match heldStep s c with
  | some t => .next t
  | none =>
    let k := coreAt s c
    let l := stripContenders s c
    let full := min k.stripSlots (slotsNow s) ≤ (k.strips.filter fun t => decide (t.way < 16)).length
    if full then .next (trackPtr s c .strips (l.map (·.1))).1 else
    match drrPick s c .strips (l.map (·.1)) with
    | (s', none) => .next s'
    | (s', some pick) =>
      match l.find? fun p => p.1.ctx == pick.ctx with
      | some (_, e, p) => .next (startPicked s' pick.ctx e p)
      | none => .next s'

/-- A relay's buffers given back, as many as `n` copies (R251). -/
def dropRelays (n x : Nat) (l : List Nat) : List Nat :=
  match n, l with
  | 0, l => l
  | _, [] => []
  | n + 1, h :: t => if isRelay x h then dropRelays n x t else h :: dropRelays (n + 1) x t

/-- What an entry gains as one of its strips ends: the flags of an `mmav` that read a verdict word (R299, R304). -/
def stripEnded (s : State) (t : Strip) (e : QEntry) : State :=
  if e.op = .mmav ∧ readsVerdict e = true ∧ t.way < 16 then
    setEntry s t.ctx { e with flags := e.flags ||| (mmavWith s t.ctx e t.way t.first t.last t.reads).2.flags }
  else if pinsPages e && decide (e.pinned < e.vl) && decide (t.way < 16) then dropUnitPins s t.ctx t.seq
  else s

/-- STRIP_END: what runs on a way, or on a unit by its number, ends: its buffers are free, its lane cycles and its subnormal
pass are charged, and the pins of a strip-serial strip drop (R251, R257, R342, R468). -/
def execStripEnd (c w : Nat) (s : State) : Result :=
  let k := coreAt s c
  let ended (t : Strip) : Bool := t.way == w && t.endAt != 0 &&
    (w != 17 || ((ctxAt s t.ctx).queue.find? fun e => e.seq == t.seq).all fun e => e.st == .done)
  match k.strips.find? ended with
  | none => .next s
  | some t =>
    let q := clusterAt s (coreCluster c)
    let s := setCluster s (coreCluster c) { q with cycle := max q.cycle t.endAt }
    let s := setCore s c { k with strips := k.strips.filter (· != t), rowHold := dropRelays t.relay t.ctx k.rowHold }
    let y := ctxAt s t.ctx
    let s := debit (setCtx s t.ctx (addLcy y 0 (stripCharges s c t))) t.ctx t.owes
    match y.queue.find? fun e => e.seq == t.seq with
    | some e => .next (stripEnded s t e)
    | none => .next s

/-! The tree, the tile unit and the row-buffer pair (R258, R259, R273, R275, R284). -/

/-- Whether the tree is taken: a pass runs or has it granted, or the tile unit takes elements through it (R259, R287). -/
def treeBusy (s : State) (c : Nat) : Bool :=
  (coreAt s c).strips.any fun t => t.way == 16 || (t.way == 17 &&
    ((ctxAt s t.ctx).queue.find? fun e => e.seq == t.seq).any fun e => e.op == .tacc || e.op == .trow)

/-- E × the beats of one tree pass: over the strip it is for, or over the whole of a cross-element or tree-fed instruction (R258). -/
def treeCost (y : Ctx) (e : QEntry) (p : Option StripPart) : Nat :=
  let n := if blockPasses e.op then p.elim 0 fun p => p.top - p.lo else e.vl - e.start
  max n 1 * treeBeats y e

/-- The contexts that contend for the tree, in round order, each with what it would have it for (R258). -/
def treeContenders (s : State) (c : Nat) : List (Contender × QEntry × Option StripPart) :=
  (roundOrder s c).filterMap fun x =>
    (candidates s x).findSome? fun k => match k with
      | .tree e p => some (⟨x, treeCost (ctxAt s x) e p⟩, e, p)
      | _ => none

/-- One tree pass for context `x`: of a strip's own passes; or the first of a cross-element or tree-fed instruction, which lasts until
its last strip has drained, and is over at once where it has none; or a later one (R209, R234, R248, R258, R259, R282). -/
def runPass (s : State) (x : Nat) (e : QEntry) (p : Option StripPart) : State :=
  let c := ctxCore x
  let y := ctxAt s x
  let src := passSource y e
  let n := treeBeats src e
  match p with
  | some p =>
    if blockPasses e.op then
      let first := (stripGroups y p.way).1
      setEntry (addStrip s c (stripOf s x e 16 0 p.lo p.top n (stripTrack e.vl first p.hi (activeCount y e p.lo p.top) n 0 0))) x
        { e with passes := e.passes + 1 }
    else addStrip s c { stripOf s x e 16 0 p.lo p.top 0 [] with endAt := 0 }
  | none =>
    if e.passes = 0 then
      let t := { stripOf s x e 16 0 e.start e.vl 0 [] with endAt := 0 }
      finishCross (addStrip s c t) x e (endTime s c t.begun (entryDrain e))
    else
      let s := addStrip s c (stripOf s x e 16 0 e.start e.vl n (if opKind e.op = .cross then crossTrack src e n else []))
      lastPass s x { e with passes := e.passes + 1 }

/-- TREE_PASS: the tree is granted, for one pass, to the contender R257 picks (R258, R259). -/
def execTreePass (c : Nat) (s : State) : Result :=
  let l := treeContenders s c
  if treeBusy s c then .next (trackPtr s c .tree (l.map (·.1))).1 else
  match drrPick s c .tree (l.map (·.1)) with
  | (s, none) => .next s
  | (s, some k) =>
    match l.find? fun p => p.1.ctx == k.ctx with
    | none => .next s
    | some (_, e, p) => .next (runPass s k.ctx e p)

/-- Whether a tile instruction has what it needs to go on: K-steps in its queue, or its accesses in order, on lines that no
other owns and that do not migrate (R285, R286, R346, R351, R378). -/
def tileReady (s : State) (x : Nat) (e : QEntry) : Bool :=
  let y := ctxAt s x
  if e.op == .tmma && bitOf e.gb 3 then
    decide ((e.acc.headD 0).toNat = tmmaSteps e) || decide (16 ≤ y.tileQ.length)
  else !(isMemOp e.op && accessesMemory e) || (memReady s x e [] && !tileMigrates s x e &&
    !ownedElsewhere s x e.seq (tileLines s x e))

/-- Whether `tacc` or `trow` may take elements from an earlier entry that is still under way: rows of an `mma` that are written on
every way, or the output of a `ptree` in the tree (R255, R281, R287, R305). -/
def tileChains (s : State) (x : Nat) (e f : QEntry) : Bool :=
  let rs := if fld e.gb 0 4 = 3 then [e.f.a.toNat, e.f.a.toNat + 1] else [e.f.a.toNat]
  allStarted (ctxAt s x) f &&
  ((f.op == .ptree && f.st == .done) ||
   ((f.op == .mma || f.op == .mmav) &&
    (runningOf (coreAt s (ctxCore x)) x f.seq).all fun t => (rowsReady s x t.way rs).isSome))

/-- The next tile instruction of a context that the unit can take, with the earlier entries it takes its elements from (R255, R281,
R284). -/
def tileFrom (s : State) (x : Nat) (before : List QEntry) (l : List QEntry) : Option (QEntry × List QEntry) :=
  match l with
  | [] => none
  | e :: t =>
    if opKind e.op = .tile ∧ e.st = .queued then
      let chained := (e.op == .tacc || e.op == .trow) && !bitOf (chainsOff s (ctxCore x)) 2 && before.all (tileChains s x e)
      if tileReady s x e && (before.isEmpty || chained) then some (e, before) else none
    else if settledNow s x e then tileFrom s x (before ++ [e]) t else none

/-- What the tile unit can take of a context: `tacc` and `trow` take their elements through the tree, which must be free but for the
`ptree` that feeds them (R259, R287). -/
def tileNext (s : State) (x : Nat) : Option (QEntry × List QEntry) :=
  if !mayStart (ctxAt s x) then none else
  (tileFrom s x [] (ctxAt s x).queue).filter fun q =>
    !(q.1.op == .tacc || q.1.op == .trow) || !treeBusy s (ctxCore x) || q.2.any fun f => f.op == .ptree && f.st == .done

/-- The contexts that the tile unit can take an instruction of (R284). -/
def tileContenders (s : State) (c : Nat) : List (Contender × QEntry × List QEntry) :=
  (roundOrder s c).filterMap fun x => (tileNext s x).map fun q => (⟨x, 64 * tileBeats q.1⟩, q)

/-- The leaf reads of a `tacc` or `trow` lengthen the strips of the `mma` whose rows it takes: a row of eight elements, one cycle
(R281, R287). -/
def leafReads (s : State) (c x : Nat) (e f : QEntry) : State :=
  if f.op = .mma ∨ f.op = .mmav then
    (runningOf (coreAt s c) x f.seq).foldl (fun s t =>
      let y := ctxAt s x
      let g := stripGroups y t.way
      let hi := g.1 + 512 * g.2.length
      setStrip s c t { t with
        endAt := endTime s c t.endAt (fld e.gb 4 4)
        tracks := t.tracks.mapIdx fun i l => l ++ [drainPhase y e (fld e.gb 4 4) g.1 hi g.1 e.vl t.tracks.length i] }) s
  else s

/-- A tile instruction's work done, and the unit held until it ends; one that takes the output of a `ptree` ends no earlier than its
pass (R284, R285, R287). -/
def runTile (s : State) (c x : Nat) (e : QEntry) (before : List QEntry) (held : Bool) : State :=
  let (t, e') := tileWork s x e
  let t := setEntry t x e'
  if held then t else
  let q := stripOf s x e 17 0 0 0 (tileBeats e) []
  let pass := (before.map fun f => (runningOf (coreAt s c) x f.seq).filter fun u => u.way == 16).flatten.foldl (fun m u => max m u.endAt) 0
  addStrip (before.foldl (fun t f => leafReads t c x e f) t) c { q with endAt := max q.endAt pass }

/-- TILE_START: the unit takes an instruction, or goes on with one that its operand queue feeds or that awaits packets (R284, R285,
R459). -/
def execTileStart (c : Nat) (s : State) : Result :=
  let l := tileContenders s c
  match (coreAt s c).strips.find? fun t => t.way == 17 with
  | some t =>
    match (ctxAt s t.ctx).queue.find? fun e => e.seq == t.seq with
    | some e =>
      if e.st == .queued && mayStart (ctxAt s t.ctx) && tileReady s t.ctx e then .next (runTile s c t.ctx e [] true)
      else .next (trackPtr s c .tile (l.map (·.1))).1
    | none => .next s
  | none =>
    match drrPick s c .tile (l.map (·.1)) with
    | (s, none) => .next s
    | (s, some k) =>
      match l.find? fun p => p.1.ctx == k.ctx with
      | some (_, e, before) => .next (runTile s c k.ctx e before false)
      | none => .next s

/-- The first fill of a context that may start: every earlier entry that reads or fills its buffer complete, every earlier one
settled and no cross-element one, its accesses in order and on blocks that no other instruction owns (R253, R254, R275, R373,
R378). -/
def fillFrom (s : State) (x : Nat) (before : List QEntry) (l : List QEntry) : Option QEntry :=
  match l with
  | [] => none
  | e :: t =>
    let uses (f : QEntry) : Bool :=
      ((f.op == .mma || f.op == .mmav) && fld f.ga 0 1 == fld e.gb 8 1) || (f.op == .prow && fld f.gb 8 1 == fld e.gb 8 1)
    let next := if settledNow s x e ∧ entryKind e ≠ .cross then fillFrom s x (before ++ [e]) t else none
    match e.op, e.st with
    | .prow, .queued =>
      if !before.any uses && memReady s x e before && !ownedElsewhere s x e.seq (prowLines x e) then some e else next
    | _, .stopped _ _ => none
    | _, _ => next

/-- What a context asks of the row-buffer pair: a fill, or the buffers of a relay. -/
inductive RowWant where
  | fill (e : QEntry)
  | relay (e : QEntry) (p : StripPart)

/-- Buffers a want needs that its context does not hold (R251, R273). -/
def rowNeed (k : Core) (x : Nat) (w : RowWant) : Nat :=
  match w with
  | .fill e => if k.rowHold.contains (2 * x + fld e.gb 8 1) then 0 else 1
  | .relay e _ => relayNeed e

/-- The contenders for the row-buffer pair. DESIGN CHOICE: a context with both a fill and a relay waiting asks for the fill first
(R258, R275; log 6). -/
def rowContenders (s : State) (c : Nat) : List (Contender × RowWant) :=
  (roundOrder s c).filterMap fun x =>
    let y := ctxAt s x
    match (if mayStart y then fillFrom s x [] y.queue else none) with
    | some e => some (⟨x, 512 * fillBeats e⟩, .fill e)
    | none =>
      (candidates s x).findSome? fun k => match k with
        | .relay e p => some (⟨x, (p.top - p.lo) * relayBeats e⟩, .relay e p)
        | _ => none

/-- ROW_BUFFER_GRANT: the contender R257 picks gets its buffers when enough are free; a fill runs for so many core cycles (R258, R273,
R275). -/
def execRowBufferGrant (c : Nat) (s : State) : Result :=
  let l := rowContenders s c
  let waits := (trackPtr s c .rows (l.map (·.1))).1
  match drrPick s c .rows (l.map (·.1)) with
  | (s, none) => .next s
  | (s', some pick) =>
    match l.find? fun p => p.1.ctx == pick.ctx with
    | none => .next waits
    | some (_, w) =>
      let k := coreAt s' c
      let need := rowNeed k pick.ctx w
      if 2 < k.rowHold.length + need then .next waits else
      match w with
      | .relay _ _ => .next (setCore s' c { k with rowHold := k.rowHold ++ List.replicate need (2 ^ 32 + pick.ctx) })
      | .fill e =>
        let (t, e') := fillBuffer s' pick.ctx e
        let t := if e'.late.isSome then t else
          let k := coreAt t c
          setCore t c { k with rowHold := k.rowHold ++ List.replicate need (2 * pick.ctx + fld e.gb 8 1) }
        let t := setEntry t pick.ctx e'
        let now := cycleOf t c
        .next (addStrip t c ⟨pick.ctx, e.seq, 18, 0, 0, 0, now, now + fillBeats e, [], 0, [], [], 0⟩)

/-! Pins, completion and traps (R239, R343, R425, R430). -/

/-- PIN_GRANT: the oldest request that may walk again takes its pins, or goes on waiting (R343, R346). -/
def execPinGrant (c : Nat) (s : State) : Result :=
  let k := coreAt s c
  match k.pinWait.find? fun w => decide (w.until_ ≤ cycleOf s c) with
  | none => .next s
  | some w =>
    let y := ctxAt s w.ctx
    let s0 := setCore s c { k with pinWait := k.pinWait.filter (· != w) }
    match y.queue.find? fun e => e.seq == w.seq with
    | none => .next s0
    | some e =>
      match nextStrip y e with
      | none => .next s0
      | some p =>
        match pinnedFor s0 w.ctx e p true with
        | (t, true) => .next t
        | (t, false) =>
          if (coreAt t c).pinWait.any fun v => v.ctx == w.ctx && v.seq == w.seq && v.until_ == 0 then .next s else .next t

/-- ENTRY_COMPLETE: the oldest entry of context `x` has ended and completes; a debug stop may fall due with it (R239, R473). -/
def execEntryComplete (c x : Nat) (s : State) : Result :=
  let y := ctxAt s x
  match y.queue with
  | e :: _ =>
    if ctxCore x = c ∧ entryEnded s x e ∧ y.trap.isNone ∧ (y.frozen = false ∨ (runsOn s x).isSome = true) then
      let s := completeHead s x e
      match y.bound with
      | some i => .next (debugDue s i)
      | none => .next s
    else .next s
  | [] => .next s

/-- TRAP_ENTRY: slot `i` begins to stop for the trap its context's instructions have brought about, or, its context frozen and
no strip running any more, enters the handler (R424, R425, R430, R437, R452). -/
def execTrapEntry (c i : Nat) (s : State) : Result :=
  let n := 16 * c + i
  match ctxOf s n with
  | none => .next s
  | some x =>
    let z := slotAt s n
    let can := match z.st with
      | .ready | .parked _ | .stopped (.preempting _) _ => true
      | _ => false
    match z.freezing, trapDue (ctxAt s x) with
    | some f, _ => if stripsRun s x then .next s else .next (endFreeze { s with cur := n } n x f)
    | none, none => .next s
    | none, some _ =>
      if !can || z.handler || (ctxAt s x).frozen then .next s else
      let s := { s with cur := n }
      .next (beginFreeze s n x .vector)

end Sys2Proof.Machine
end

