-- ==== Sys2Proof/Machine/Debug.lean ====
section
/-! DEFINITION. The debug block: HALT, RESUME and STEP on the slot that DBGSEL selects, and its registers (19 R472 to R475). -/

namespace Sys2Proof.Machine

/-- The slot DBGSEL selects (R472). -/
def dbgSlot (s : State) : Nat := 16 * fld s.mgmt.dbgSel 16 10 + fld s.mgmt.dbgSel 0 4

/-- Whether the debug block answers: from stage 5 on, for a slot of a core that exists (R483). -/
def dbgAnswers (s : State) : Bool := decide (5 ≤ s.mgmt.stage) && s.mgmt.error == 0

/-- HALT on the selected slot: a ready slot stops now; a parked one once its instruction has completed, and a free one
before its next task's first instruction (R473, R483). -/
def haltSel (s : State) : State :=
  if !dbgAnswers s then s else
  let i := dbgSlot s
  let x := slotAt s i
  match x.st with
  | .ready => if x.since.isNone then debugStop s i 4 else setSlot s i { x with dbg := { x.dbg with haltReq := true } }
  | .free | .parked _ => setSlot s i { x with dbg := { x.dbg with haltReq := true } }
  | .stopped _ _ => s

/-- The context of slot `i` runs again, its entries from their restart points, unless the handler state keeps it frozen
(R424, R428, R474). -/
def thawFor (s : State) (i : Nat) : State :=
  if (slotAt s i).handler then s else
  match ctxOf s i with
  | some x =>
    let y := ctxAt s x
    setCtx s x { y with frozen := false, queue := y.queue.map againEntry }
  | none => s

/-- A stopped slot goes on as it was, its waiting time counted on from where it stood. -/
def goOn (s : State) (i : Nat) (d : SlotDbg) : State :=
  let x := slotAt s i
  match x.st with
  | .stopped (.debug _) was =>
    setSlot s i { x with
      st := match was with
        | some w => .parked w
        | none => .ready
      since := x.since.map fun t => cycleOf s (slotCore i) - t
      dbg := d }
  | _ => s

/-- RESUME on the selected slot (R474). -/
def resumeSel (s : State) : State :=
  if !dbgAnswers s then s else
  let i := dbgSlot s
  let x := slotAt s i
  match x.st with
  | .stopped (.debug _) _ => goOn (thawFor s i) i { x.dbg with skipPc := true }
  | _ => s

/-- STEP on the selected slot: one instruction; with STEPV the context also runs until its oldest entry completes, the instruction's own
where it holds none (R474). -/
def stepSel (s : State) (stepv : Bool) : State :=
  if !dbgAnswers s then s else
  let i := dbgSlot s
  let x := slotAt s i
  match x.st with
  | .stopped (.debug _) _ =>
    let vec := stepv && !x.handler && (ctxOf s i).isSome
    goOn (if vec then thawFor s i else s) i { x.dbg with skipPc := true, stepping := true, stepReq := true, stepVec := vec }
  | _ => s

/-- HALT (R473). -/
def execHalt (s : State) : Result := .next (haltSel s)

/-- RESUME (R474). -/
def execResume (s : State) : Result := .next (resumeSel s)

/-- STEP, with STEPV or without (R474). -/
def execStepOne (stepv : Bool) (s : State) : Result := .next (stepSel s stepv)

/-- The instruction of slot `i`'s turn has issued, or waits to: a STEP's instruction that has issued stops the slot (R474). -/
def afterTurn (s : State) (i : Nat) : State :=
  let x := slotAt s i
  let issued := x.since.isNone || x.waiting != .none || x.st == .free
  if !issued then s else
  let s := setSlot s i { x with dbg := { x.dbg with skipPc := false, stepReq := false } }
  if x.dbg.stepReq then debugDue s i else s

/-- The stop that falls due before slot `i` issues at its pc: HALT, which lets a parked instruction complete, DBGVC, a STEP whose `retire`
has issued, then DBGPC (R473, R474; log 28). -/
def stopBefore (s : State) (i : Nat) : Option Nat :=
  let x := slotAt s i
  let d := x.dbg
  if x.waiting ≠ .none then none
  else if d.haltReq && x.since.isNone then some 4
  else if d.vcHit then some 2
  else if d.stepping && !d.stepReq then some 5
  else if d.pcen && !d.skipPc && d.pc == x.pc then some 1
  else none

/-- Whether a STEP's instruction of slot `i` has issued while an entry has still to complete: the slot issues nothing more (R474). -/
def stepHeld (s : State) (i : Nat) : Bool :=
  let d := (slotAt s i).dbg
  d.stepping && !d.stepReq && d.stepVec && entriesLeft s i

/-- DBGCTL as it reads (R472). -/
def dbgCtlWord (s : State) : Word :=
  let d := (slotAt s (dbgSlot s)).dbg
  BitVec.ofNat 64 ((if d.brk then 8 else 0) + (if d.vcen then 4 else 0) + if d.pcen then 2 else 0)

/-- DBGSTAT (R472). -/
def dbgStatWord (s : State) : Word :=
  let i := dbgSlot s
  let x := slotAt s i
  let why := match x.st with
    | .stopped (.debug w) _ => 8 + w
    | _ => 0
  let count := match ctxOf s i with
    | some k => (ctxAt s k).queue.length
    | none => 0
  BitVec.ofNat 64 (count * 2 ^ 8 + (if x.dbg.lost then 16 else 0) + why)

/-- Byte `n` of the entries: entry e at 64e, oldest first, in the layout of R449 (R472). -/
def dbgEntryByte (s : State) (n : Nat) : Byte :=
  match ctxOf s (dbgSlot s) with
  | some k =>
    match (ctxAt s k).queue[n / 64]? with
    | some e => (entryBytes e (settled (ctxAt s k) e)).getD (n % 64) 0
    | none => 0
  | none => 0

/-- A register of the debug block read (R472). -/
def dbgRead (s : State) (off : Nat) : Word :=
  let x := slotAt s (dbgSlot s)
  match off with
  | 0x400 => s.mgmt.dbgSel
  | 0x408 => dbgCtlWord s
  | 0x410 => x.dbg.pc
  | 0x418 => x.dbg.vc
  | 0x420 => dbgStatWord s
  | 0x428 => x.pc
  | 0x430 => trapVc s (dbgSlot s) none
  | _ => if 0x800 ≤ off ∧ off < 0xC00 then BitVec.ofNat 64 (leNat (tab 8 (off - 0x800) (dbgEntryByte s))) else 0

/-- A register of the debug block written (R472). -/
def dbgWrite (s : State) (off : Nat) (v : Word) : State :=
  if !dbgAnswers s then s else
  let i := dbgSlot s
  let x := slotAt s i
  let setDbg (d : SlotDbg) : State := setSlot s i { x with dbg := d }
  match off with
  | 0x400 => { s with mgmt := { s.mgmt with dbgSel := v &&& 0x3FF000F } }
  | 0x408 =>
    let s := setDbg { x.dbg with brk := bitOf v 3, vcen := bitOf v 2, pcen := bitOf v 1 }
    let s := if bitOf v 4 then haltSel s else s
    let s := if bitOf v 5 then resumeSel s else s
    if bitOf v 6 then stepSel s (bitOf v 7) else s
  | 0x410 => setDbg { x.dbg with pc := evenAddr v }
  | 0x418 => setDbg { x.dbg with vc := evenAddr v }
  | 0x420 => if bitOf v 4 then setDbg { x.dbg with lost := false } else s
  | _ => s

end Sys2Proof.Machine
end

