-- ==== Sys2Proof/Machine/BringUp.lean ====
section
/-! DEFINITION. Bring-up, attestation and the management interface (20 R476 to R483). What the spec leaves to the firmware's
layout, the image's place in flash and memory among it, is the model's (log 10). -/

namespace Sys2Proof.Machine

/-! Images (R477, R478). -/

/-- An image as its header gives it, with its signed bytes and its body (R477). -/
structure Image where
  magic   : Nat
  svn     : Nat
  length  : Nat
  entry   : Word
  keyIdx  : Nat
  supMask : BitVec 16
  trapVec : Word
  key     : List Byte
  sig     : List Byte
  reserved : List Byte
  signed  : List Byte
  whole   : List Byte
  body    : List Byte
  deriving DecidableEq, Repr

/-- Bytes of the boot flash. -/
def flashBytes (s : State) (off n : Nat) : List Byte := tab n off fun i => look s.mgmt.flash i 0

/-- The image at an offset of the boot flash; a LENGTH above 16 MiB reads no body (R477). -/
def imageAt (s : State) (off : Nat) : Image :=
  let h := flashBytes s off 256
  let n := leNat ((h.drop 0x0C).take 4)
  let body := if n ≤ 2 ^ 24 then flashBytes s (off + 256) n else []
  { magic := leNat (h.take 8)
    svn := leNat ((h.drop 8).take 4)
    length := n
    entry := BitVec.ofNat 64 (leNat ((h.drop 0x10).take 8))
    keyIdx := leNat ((h.drop 0x18).take 1)
    supMask := BitVec.ofNat 16 (leNat ((h.drop 0x19).take 2))
    trapVec := BitVec.ofNat 64 (leNat ((h.drop 0x1B).take 8))
    key := (h.drop 0x23).take 57
    sig := (h.drop 0x5C).take 114
    reserved := h.drop 0xCE
    signed := h.take 0x5C ++ h.drop 0xCE ++ body
    whole := h ++ body
    body := body }

/-- "marari-kr8" (R478). -/
def signContext : List Byte := [0x6D, 0x61, 0x72, 0x61, 0x72, 0x69, 0x2D, 0x6B, 0x72, 0x38]

/-- Slots a SUPMASK selects. -/
def maskSlots (m : BitVec 16) : List Nat := (tab 16 0 id).filter fun i => bitOf m i

/-- The first check of R478 that an image fails, 0 where none does; a supervisor image must select 1 to 4 slots (R480). -/
def imageError (s : State) (sup : Bool) (m : Image) : Nat :=
  let magic := if sup then 0x38424D4952414D01 else 0x38424D4952414D00
  let slots := (maskSlots m.supMask).length
  if m.magic ≠ magic ∨ 2 ^ 24 < m.length ∨ (m.reserved.any fun b => b != 0) ∨ (sup ∧ (slots = 0 ∨ 4 < slots)) then 1
  else if !(match s.mgmt.keys[m.keyIdx]? with
    | some (digest, revoked) => digest == shake256 m.key 64 && !revoked && decide (m.keyIdx < 4)
    | none => false) then 2
  else if m.svn < s.mgmt.minSvn then 3
  else if !ed448phVerify m.key m.sig signContext m.signed then 4
  else 0

/-- Where the firmware image lies in the boot flash (log 10). -/
def firmwareOffset : Nat := 0
/-- Where the supervisor image lies in the boot flash (log 10). -/
def supervisorOffset : Nat := 0x2000000

/-! The sequence (R476). -/

/-- Bring-up starts at stage 1: nothing of what ran survives but the part's own fuses, flash, retirement marks and spares,
its dies, its I3C address and physical time (R443, R476, R483). -/
def restart (s : State) : State :=
  { State.reset with
    dies := s.dies.map fun (d, x) => (d, { die0 with present := x.present, spares := x.spares })
    errors := { State.reset.errors with marks := s.errors.marks, spared := s.errors.spared }
    mgmt := { State.reset.mgmt with
      minSvn := s.mgmt.minSvn
      keys := s.mgmt.keys
      flash := s.mgmt.flash
      i3cAddr := s.mgmt.i3cAddr
      stageAt := s.now }
    now := s.now
    refillAt := s.now
    door := { State.reset.door with outbox := s.door.outbox } }

/-- A stage fails: the sequence stops with its code, and an interrupt is raised (R476, R483). -/
def failStage (s : State) (code : Nat) : State := emit { s with mgmt := { s.mgmt with error := code } } (.interrupt 2)

/-- The next stage. -/
def nextStage (s : State) : State := { s with mgmt := { s.mgmt with stage := s.mgmt.stage + 1, stageAt := s.now } }

/-- The time limit of a stage in microseconds (R476). -/
def stageLimit (stage : Nat) : Nat :=
  match stage with
  | 1 => 150000
  | 2 => 400000
  | 3 => 300000
  | 4 => 100000
  | _ => 50000

/-- A stage that has passed its time limit fails; the spec gives the failure no code of its own (R476, R483; log 10). -/
def stageOut (s : State) : State :=
  let s := { s with now := max s.now (s.mgmt.stageAt + stageLimit s.mgmt.stage) }
  failStage s (1 + Config.timeoutError s.mgmt.stage % 8)

/-- Stage 1: the ROM verifies the firmware (R476 to R478). -/
def stageFirmware (s : State) : State :=
  let m := imageAt s firmwareOffset
  let e := imageError s false m
  if e ≠ 0 then failStage s e
  else nextStage { s with mgmt := { s.mgmt with running := some m.svn, measured := [shake256 m.whole 64] } }

/-- Stage 2: links, stacks and die numbers (R26, R476, R479). -/
def stageTraining (s : State) (f : StageFind) : State :=
  if f.error = 5 ∨ f.error = 6 then failStage s f.error
  else if f.error = 8 ∨ !(dieAt s 0).present then failStage s 8
  else nextStage s

/-- A failing near-store block of a core is mapped to a spare block of its bank, or its granule withheld where the bank has none left:
block b is block b mod 256 of its granule, in bank b mod 16 (R309, R441, R479; log 16). -/
def spareBlock (s : State) (c b : Nat) : State :=
  let bank (r : Nat × Nat) : Bool := r.1 == 4 && r.2 / 10240 == c && r.2 % 16 == b % 16
  if (s.errors.spared.filter bank).length < Config.bankSpares then
    { s with errors := { s.errors with spared := s.errors.spared ++ [(4, 10240 * c + b)] } }
  else setCore s c { coreAt s c with gran := put (coreAt s c).gran (b / 256) .withheld }

/-- Stage 3: the marks and spares kept are applied, failing lane groups leave service, failing near-store blocks are spared, and
granules that no spare can mend are withheld (R443, R479). -/
def stageTest (s : State) (f : StageFind) : State :=
  let gone := s.errors.marks ++ f.groups
  let s := gone.foldl (fun s (c, g) =>
    setCore s c { coreAt s c with outGroups := (coreAt s c).outGroups ||| BitVec.twoPow 64 g }) s
  let s := (f.blocks.filter fun r => decide (r.2 < 10240)).foldl (fun s (c, b) => spareBlock s c b) s
  nextStage { s with errors := { s.errors with marks := gone } }

/-- Stage 4: every row, block and line zeroed with valid seals, every full/empty bit empty, every CYCLE reset, and each
stack's level set from its first reading (R370, R476). -/
def stageZero (s : State) (f : StageFind) : State :=
  let dies := (tab 8 0 id).filter fun d => (dieAt s d).present
  let reading (d k : Nat) : Thermal := ⟨f.temps.getD (4 * d + k) 0, firstLevel (f.temps.getD (4 * d + k) 0)⟩
  let s := dies.foldl (fun s d => setDie s d { dieAt s d with thermal := (tab 4 0 id).map (fun k => (k, reading d k)) }) s
  nextStage { s with mem := [], full := [], poisoned := [], clusters := [] }

/-- Cores that exist. -/
def allCores (s : State) : List Nat := (tab 1024 0 id).filter fun c => coreExists s c

/-- Lane groups out of service in the package (R481). -/
def groupsOut (s : State) : Nat :=
  ((allCores s).map fun c => ((tab 64 0 id).filter fun g => bitOf (coreAt s c).outGroups g).length).sum

/-- Near-store granules withheld in the package (R481). -/
def granulesOut (s : State) : Nat :=
  ((allCores s).map fun c => ((tab 40 0 id).filter fun g => look (coreAt s c).gran g .l1 == .withheld).length).sum

/-- The first address of the frame of CD0 that holds the image, at its start, the page table and the boot record (log 10). -/
def bootBase : Nat := Config.bootFrame % 1024 * 2 ^ 26
/-- The identity page table (log 10). -/
def bootTable : Nat := bootBase + 0x2000000
/-- The boot record (log 10). -/
def bootRecord : Nat := bootBase + 0x3000000

/-- The 64 bytes of the boot record (R481). -/
def bootBytes (s : State) (supSvn : Nat) : List Byte :=
  leBytes 4 (s.mgmt.running.getD 0) ++ leBytes 4 supSvn ++
  leBytes 8 (((tab 8 0 id).filter fun d => (dieAt s d).present).map (2 ^ ·)).sum ++
  leBytes 8 (groupsOut s) ++ leBytes 8 (granulesOut s) ++ leBytes 8 bootTable ++ List.replicate 24 0

/-- The image, the identity table over its frame, and the boot record in memory (R480, R481). -/
def bootMemory (s : State) (m : Image) : List Host.Cell :=
  let mem := memPutAll s.mem bootBase m.body
  let mem := memPutAll mem bootTable (leBytes 8 (bootTable + 0x2000 + 1))
  let mem := memPutAll mem (bootTable + 0x2000) (leBytes 8 (bootTable + 0x4000 + 1))
  let mem := memPutAll mem (bootTable + 0x4000 + 8 * (bootBase / 2 ^ 26)) (leBytes 8 (bootBase + 0x73))
  memPutAll mem bootRecord (bootBytes s m.svn)

/-- A supervisor slot as bring-up leaves it; bit 0 of TRAPVEC is reserved (R426, R480). -/
def supervisorSlot (m : Image) : Slot :=
  { slot0 with st := .ready, sup := true, pc := m.entry, g := slot0.g.set 3 (BitVec.ofNat 64 bootRecord), trapvec := evenAddr m.trapVec }

/-- The slots of core `c` at the end of stage 5: those that SUPMASK selects start, each with what was asked of it through the debug
block, and the others are free (R480, R483). -/
def bootSlots (s : State) (m : Image) (c : Nat) : List (Nat × Slot) :=
  (tab 16 (16 * c) id).filterMap fun i =>
    if bitOf m.supMask (i % 16) then some (i, { supervisorSlot m with dbg := (slotAt s i).dbg })
    else s.slots.find? fun x => x.1 == i

/-- Stage 5: the supervisor image verified and its slots started on every core; an image that fails stops bring-up with code
7. DESIGN CHOICE: the dimmer's TIMEOUT counts from here until a frame has been accepted (R417, R476, R478, R480, R483; log 6). -/
def stageSupervisor (s : State) (f : StageFind) : State :=
  let m := imageAt s supervisorOffset
  if imageError s true m ≠ 0 then failStage s 7 else
  let cs := allCores s
  let s := { s with
    mem := bootMemory s m
    cores := cs.map fun c => (c, { coreAt s c with ptroot := BitVec.ofNat 64 bootTable })
    clusters := ((cs.map coreCluster).eraseDups).map fun q => (q, cluster0)
    slots := (cs.map (bootSlots s m)).flatten
    dimmer := { s.dimmer with present := f.shelf, lastTime := s.now }
    mgmt := { s.mgmt with done := true, measured := s.mgmt.measured ++ [shake256 m.whole 64] } }
  emit s (.interrupt 1)

/-- RESET_RELEASE: power is good, and bring-up starts at stage 1 (R476). -/
def execResetRelease (s : State) : Result := .next (restart s)

/-- STAGE_COMPLETE: the current stage ends with what it found, or fails where that is past its time limit (R476). -/
def execStageComplete (f : StageFind) (s : State) : Result :=
  if s.mgmt.done || s.mgmt.error != 0 || s.mgmt.stage == 0 then .next s
  else if s.mgmt.stageAt + stageLimit s.mgmt.stage < max s.now f.time then .next (stageOut s) else
  let s := atTime s f.time
  match s.mgmt.stage with
  | 1 => .next (stageFirmware s)
  | 2 => .next (stageTraining s f)
  | 3 => .next (stageTest s f)
  | 4 => .next (stageZero s f)
  | 5 => .next (stageSupervisor s f)
  | _ => .next s

/-- STAGE_TIMEOUT: the stage passes its time limit and fails (R476). -/
def execStageTimeout (s : State) : Result :=
  if s.mgmt.done || s.mgmt.error != 0 || s.mgmt.stage == 0 then .next s else .next (stageOut s)

/-- The fused minimum SVN raised to the running firmware's; it never falls (R478, R483). -/
def svnUp (s : State) : State := { s with mgmt := { s.mgmt with minSvn := max s.mgmt.minSvn (s.mgmt.running.getD 0) } }

/-- MCTL_SVNUP (R483). -/
def execMctlSvnup (s : State) : Result := .next (svnUp s)

/-- MCTL_RESET: the package restarts at stage 1 (R483). -/
def execMctlReset (s : State) : Result := .next (restart s)

/-! Attestation (R482). -/

/-- Bytes cut or filled with zeros to `n`. -/
def toBytes (n : Nat) (d : List Byte) : List Byte := d.take n ++ List.replicate (n - d.length) 0

/-- The 16 bytes of the fuse state (log 10). -/
def fuseBytes (s : State) : List Byte := toBytes 16 (Config.fuseState (s.mgmt.keys.map (·.2)) s.mgmt.minSvn)

/-- A digest in its 64 bytes. -/
def digestBytes (d : List Byte) : List Byte := toBytes 64 d

/-- The 320 bytes of a report (R482). -/
def reportBytes (s : State) : List Byte :=
  digestBytes Config.romDigest ++ digestBytes (s.mgmt.measured.getD 0 []) ++ digestBytes (s.mgmt.measured.getD 1 []) ++
  fuseBytes s ++ leBytes 8 (groupsOut s) ++ s.mgmt.nonce.take 32 ++ leBytes 8 s.mgmt.reports ++ List.replicate 64 0

/-- A report asked for: its signing starts; a request before stage 5 ends is answered busy (R482). -/
def attest (s : State) : State :=
  if !s.mgmt.done then emit s .attestBusy else
  let s := { s with mgmt := { s.mgmt with reports := s.mgmt.reports + 1 } }
  let r := reportBytes s
  { s with mgmt := { s.mgmt with report := r ++ ed448Sign Config.deviceKey r, ready := false } }

/-- A byte of MNONCE written (R483). -/
def nonceByte (s : State) (n : Nat) (b : Byte) : State := { s with mgmt := { s.mgmt with nonce := s.mgmt.nonce.set n b } }

/-- ATTESTATION: MNONCE's last byte written (R482, R483). -/
def execAttestation (last : Byte) (s : State) : Result := .next (attest (nonceByte s 31 last))

/-- ATTESTATION_READY: a report that was asked for becomes readable, with an interrupt (R483). -/
def execAttestationReady (s : State) : Result :=
  if s.mgmt.report = [] ∨ s.mgmt.ready then .next s
  else .next (emit { s with mgmt := { s.mgmt with ready := true } } (.interrupt 3))

/-! The management interface (R483). -/

/-- MSTATUS (R483). -/
def mstatusWord (s : State) : Word :=
  BitVec.ofNat 64 (s.mgmt.error * 2 ^ 16 + s.mgmt.stage * 2 + if s.mgmt.done then 1 else 0)

/-- Eight bytes of a table. -/
def tableWord (bs : List Byte) (i : Nat) : Word := BitVec.ofNat 64 (leNat ((bs.drop i).take 8))

/-- What the board controller reads at an offset: eight bytes from it (R472, R482, R483). -/
def mgmtRead (s : State) (off : Nat) : Word :=
  if off = 0 then 0x4B52000800000001
  else if off = 8 then mstatusWord s
  else if 0x100 ≤ off ∧ off < 0x120 then tableWord s.mgmt.nonce (off - 0x100)
  else if 0x400 ≤ off ∧ off < 0xC00 then (if dbgAnswers s then dbgRead s off else 0)
  else if 0x1000 ≤ off ∧ off < 0x11B2 then (if s.mgmt.ready then tableWord s.mgmt.report (off - 0x1000) else 0)
  else if 0x2000 ≤ off ∧ off < 0x3000 then tableWord (ed448Public Config.deviceKey ++ Config.certificates) (off - 0x2000)
  else 0

/-- MGMT_REGISTER_WRITE: MCTL, a byte of MNONCE, or the debug block; any other offset ignores it (R7, R472, R483). -/
def execMgmtRegisterWrite (off : Nat) (v : Word) (s : State) : Result :=
  if off = 0x10 then
    let s := if bitOf v 1 then svnUp s else s
    .next (if bitOf v 0 then restart s else s)
  else if off = 0x11F then .next (attest (nonceByte s 31 (v.setWidth 8)))
  else if 0x100 ≤ off ∧ off < 0x11F then .next (nonceByte s (off - 0x100) (v.setWidth 8))
  else if 0x400 ≤ off ∧ off < 0xC00 then .next (dbgWrite s off v)
  else .next s

/-- DYNAMIC_ADDRESS_ASSIGNMENT (R483). -/
def execDynamicAddressAssignment (addr : BitVec 7) (s : State) : Result :=
  .next { s with mgmt := { s.mgmt with i3cAddr := addr } }

end Sys2Proof.Machine
end

