-- ==== Sys2Proof/Machine/Stagehand.lean ====
section
/-! DEFINITION. The stagehand and the base dies' near-memory reduction: cpy, cpy2d, cpyg, nmr, the command queue, and an
operation's end (13 R360 to R368). -/

namespace Sys2Proof.Machine

/-! Operands (R361, R363, R367). -/

/-- SCOPE of a count word (R361). -/
def cwScope (w : Word) : Nat := fld w 60 3
/-- OP of a count word. -/
def cwOp (w : Word) : Nat := fld w 56 4
/-- COUNT of a count word. -/
def cwCount (w : Word) : Nat := fld w 0 48

/-- Whether a count word is good for an operation (R361, R367). -/
def countWordOk (k : SgKind) (w : Word) : Bool :=
  !bitOf w 63 && fld w 48 8 == 0 && decide (1 ≤ cwScope w) && decide (cwScope w ≤ 5) &&
  (match k with
   | .nearReduce => decide (cwOp w ≤ 6)
   | _ => cwOp w == 0)

/-- Rows of an operation, all of COUNT bytes (R362, R363, R367). -/
def sgRows (o : SgOp) : Nat :=
  match o.kind with
  | .copy | .nearReduce => 1
  | .copy2d => (o.blk.getD 3 0).toNat
  | .gather => o.blk.length

/-- Destination and source of row `q` (R363). -/
def sgRow (o : SgOp) (q : Nat) : Word × Word :=
  let n := BitVec.ofNat 64 q
  match o.kind with
  | .copy | .nearReduce => (o.dst, o.src)
  | .copy2d => (o.dst + n * o.blk.getD 2 0, o.blk.getD 0 0 + n * o.blk.getD 1 0)
  | .gather => (o.dst + n * BitVec.ofNat 64 (cwCount o.ctl), o.blk.getD q 0)

/-! Reaching the bytes of an operation (R360, R364, R365). -/

/-- How far an operation's bytes can be reached: all, up to a fault with its CAUSE, or not before a migration ends (R346, R364). -/
inductive Reach where
  | all
  | fault (cause : Nat)
  | migrating
  deriving DecidableEq, Repr

/-- The poison that ended a walk: of a line, or at an address whose page-table walk failed (R437). -/
inductive Note where
  | none
  | line (l : Loc)
  | walk (ea : Word)
  deriving DecidableEq, Repr

/-- Pieces reached so far, latest first, how far they go, how the walk ended, and the poison it met. -/
structure Reached where
  pieces : List (Loc × Nat)
  upTo   : Nat
  how    : Reach
  note   : Note
  deriving DecidableEq, Repr

/-- Nothing reached yet. -/
def reached0 : Reached := ⟨[], 0, .all, .none⟩

/-- The CAUSE of a token for a trap code (R364). -/
def sgCause (trap : Nat) : Nat := if trap = 7 then 1 else 2

/-- The record of the poison that ends an operation: kind 4 for its source, kind 2 for a page-table walk (R437). -/
def noteRecord (s : State) (o : SgOp) (n : Note) : State :=
  let c := slotCore o.owner.slot
  match n with
  | .none => s
  | .line l => sealRecord s c 4 o.owner.prod l
  | .walk ea =>
    match walk s c (ea.toNat % 2 ^ 56) with
    | .fail (some pa) => faultRecord s c ⟨2, 0, o.owner.prod, BitVec.ofNat 64 (pa / 32 * 32), 0, 0, 0⟩
    | _ => s

/-- The lines of `len` bytes at `ea`, reached in order with the issuing slot's privilege; `r` holds what was reached before
(R360, R364). A source line that holds poison ends the walk, CAUSE 3 (R365). -/
def reachRow (s : State) (o : SgOp) (n : Need) (fuel : Nat) (ea : Word) (len : Nat) (r : Reached) : Reached × State :=
  match fuel with
  | 0 => (r, s)
  | fuel + 1 =>
    if len = 0 then (r, s) else
    let c := slotCore o.owner.slot
    let k := min len (32 - ea.toNat % 32)
    match checkAddr s c o.owner.prod o.sup o.user n ea with
    | (.ok l _, s) =>
      if n.r && !n.w && (apertureOf l).isNone && locPoisoned s c l then
        ({ r with how := .fault 3, note := .line l }, s)
      else if o.kind == .nearReduce && n.w && (apertureOf l).isSome then ({ r with how := .fault 1 }, s)
      else reachRow s o n fuel (ea + BitVec.ofNat 64 k) (len - k)
        ⟨(l, k) :: r.pieces, r.upTo + k, .all, .none⟩
    | (.trap t, s) => ({ r with how := .fault (sgCause t), note := if t = 8 then .walk ea else .none }, s)
    | (.migrating, s) => ({ r with how := .migrating }, s)

/-- The rows of an operation from row `q`, on one side. -/
def reachRows (s : State) (o : SgOp) (n : Need) (side : Word × Word → Word) (rows q : Nat) (r : Reached) : Reached × State :=
  match rows with
  | 0 => (r, s)
  | rows + 1 =>
    match reachRow s o n (cwCount o.ctl / 32 + 2) (side (sgRow o q)) (cwCount o.ctl) r with
    | (⟨ps, u, .all, _⟩, s) => reachRows s o n side rows (q + 1) ⟨ps, u, .all, .none⟩
    | x => x

/-- Pieces cut after `n` bytes. -/
def cutPieces (ps : List (Loc × Nat)) (n : Nat) : List (Loc × Nat) :=
  match ps with
  | [] => []
  | (l, k) :: t => if n = 0 then [] else if n < k then [(l, n)] else (l, k) :: cutPieces t (n - k)

/-- The aperture packets of pieces: each its address and length, with the bytes to write where `data` holds them (R459). -/
def piecePackets (ps : List (Loc × Nat)) (data : Option (List Byte)) : List (Nat × Nat × Option (List Byte)) :=
  match ps with
  | [] => []
  | (l, k) :: t =>
    let rest := piecePackets t (data.map (List.drop k))
    match apertureOf l with
    | some pa => (pa, k, data.map (List.take k)) :: rest
    | none => rest

/-- The first byte whose packet was refused, poisoned or lost, with the token's CAUSE (R459). -/
def refusedAt (s : State) (key : RKey) (write : Bool) (ps : List (Loc × Nat)) (pos : Nat) : Option (Nat × Nat) :=
  match ps with
  | [] => none
  | (l, k) :: t =>
    match (apertureOf l).bind fun pa => remoteGot s key pa k write with
    | some r => if r.status = some 0 then refusedAt s key write t (pos + k) else some (pos, statusCause (r.status.getD 2))
    | none => refusedAt s key write t (pos + k)

/-- Bytes of pieces as an engine of core `c` reads them: those captured at issue, piece by piece, those of an aperture from their
answers, else those that stand there now, a miss gathered with others under `merge` (R329, R380, R459). -/
def pieceBytes (s : State) (c : Nat) (key : RKey) (merge : Bool) (snap : List (List Byte)) (ps : List (Loc × Nat)) :
    List Byte × State :=
  match ps with
  | [] => ([], s)
  | (l, n) :: t =>
    let (bs, s) : List Byte × State := match apertureOf l, snap.headD [] with
      | some pa, _ => ((remoteGot s key pa n false).elim [] (·.data), s)
      | none, [] => engineRead s c merge l n
      | none, b => (b.take n, s)
    let (rest, s) := pieceBytes s c key merge (snap.drop 1) t
    (bs ++ rest, s)

/-- Whether a piece that an operation of this age is about to read or write belongs to an engine that took it earlier; `snap` holds
the pieces that it has read already (R378, R380). -/
def piecesHeld (s : State) (age : Nat) (snap : List (List Byte)) (ps : List (Loc × Nat)) : Bool :=
  match ps with
  | [] => false
  | (l, n) :: t => (snap.headD [] == [] && (apertureOf l).isNone && ownedBefore s age l n) || piecesHeld s age (snap.drop 1) t

/-- An operation that meets a migrating page gives up the lines it owns until it can go on (R345, R346, R378; log 19). -/
def disowned (s : State) (o : SgOp) : State :=
  let c := slotCore o.owner.slot
  let k := coreAt s c
  setCore s c { k with sgOps := k.sgOps.map fun q => if q.id = o.id then { q with owned := [] } else q }

/-- Bytes written to pieces; at a scope wider than core a write is made at the home (R323, R365). -/
def writePieces (s : State) (c : Nat) (wide : Bool) (ps : List (Loc × Nat)) (bs : List Byte) : State :=
  match ps with
  | [] => s
  | (l, k) :: t =>
    let s := match l with
      | .scratch q p off => scratchWrite s q p off (bs.take k)
      | .phys pa =>
        if isAperture pa then s
        else if wide then scopedWrite s c pa (bs.take k)
        else coreWrite s c pa (bs.take k)
    writePieces s c wide t (bs.drop k)

/-! Copies (R362 to R365). -/

/-- What an operation comes to now: it ends with a token, it waits for packets, or it holds its place at a migrating page. -/
inductive SgOut where
  | ends (s : State) (token : Word)
  | waits (s : State)
  deriving DecidableEq, Repr

/-- The token of an operation that wrote `done` bytes and, short of its end, met a fault (R364). -/
def sgToken (done : Nat) (f : Option Nat) : Word :=
  match f with
  | none => tokenWord false 0 done
  | some c => tokenWord true c done

/-- Whichever of two ends comes first, the earlier given preference (R364). -/
def firstEnd (a b : Nat × Option Nat) : Nat × Option Nat :=
  if a.2.isSome ∧ (b.2.isNone ∨ a.1 ≤ b.1) then a else b

/-- Where a walk of one side ended. -/
def endOf (r : Reached) : Nat × Option Nat :=
  match r.how with
  | .fault c => (r.upTo, some c)
  | _ => (r.upTo, none)

/-- The record of the side whose end is the operation's (R364, R437). -/
def endRecord (s : State) (o : SgOp) (r w : Reached) (stop : Nat × Option Nat) : State :=
  if stop = endOf r then noteRecord s o r.note else if stop = endOf w then noteRecord s o w.note else s

/-- A copy as a whole: every source byte is read before any destination byte is written; it stops at the first byte that
faults on either side (R362 to R365, R459). -/
def runCopy (s : State) (o : SgOp) : SgOut :=
  let c := slotCore o.owner.slot
  let key : RKey := .engine c o.id
  let (r, s) := reachRows s o needR (·.2) (sgRows o) 0 reached0
  let (w, s) := reachRows s o needW (·.1) (sgRows o) 0 reached0
  if r.how = .migrating ∨ w.how = .migrating then .waits (disowned s o) else
  let stop := firstEnd (endOf r) (endOf w)
  let src := cutPieces r.pieces.reverse stop.1
  let asked := remoteSend s key (piecePackets src none)
  if !remoteAll asked key || piecesHeld s o.age o.snap src || piecesHeld s o.age [] (cutPieces w.pieces.reverse stop.1) then .waits asked
  else
  let s := asked
  let stop := match refusedAt s key false src 0 with
    | some (p, cause) => (p, some cause)
    | none => stop
  let (bs, s) := pieceBytes s c key true o.snap (cutPieces src stop.1)
  let dst := cutPieces w.pieces.reverse stop.1
  let asked := remoteSend s key (piecePackets dst (some bs))
  if !remoteAll asked key then .waits asked else
  let s := asked
  let stop := match refusedAt s key true dst 0 with
    | some (p, cause) => (p, some cause)
    | none => stop
  let s := writePieces s c (decide (2 ≤ cwScope o.ctl)) (cutPieces dst stop.1) bs
  .ends (remoteClear (endRecord s o r w stop) key) (sgToken stop.1 stop.2)

/-! Near-memory reduction (R367). -/

/-- An FP32 or BF16 element combined: a sum rounded to nearest even, or the larger under R217; a hook among FP32 elements
gives the canonical NaN. -/
def nmrFloat (f : FloatFmt) (hooks big : Bool) (p q : Nat) : Nat :=
  if hooks && (isHook p || isHook q) then fmtNan f
  else if big then (minMaxPat f true p q (decNum f p) (decNum f q)).1
  else (encNum f ⟨.rne, false, false, fmtMin f⟩ (addNum .rne (decNum f p) (decNum f q)).1 ⟨0, 0⟩).1

/-- The larger of two numbers of `n` bits, signed. -/
def maxSigned (n p q : Nat) : Nat :=
  let sgn (y : Nat) : Int := if 2 ^ (n - 1) ≤ y then (y : Int) - 2 ^ n else y
  if sgn p < sgn q then q else p

/-- Bytes of an element under OP (R367). -/
def nmrSize (op : Nat) : Nat :=
  match op with
  | 1 | 5 => 2
  | 3 => 8
  | _ => 4

/-- OP of R367 on destination and source patterns. -/
def nmrElem (op p q : Nat) : Nat :=
  match op with
  | 0 => nmrFloat fp32 true false p q
  | 1 => nmrFloat bf16 false false p q
  | 2 => (p + q) % 2 ^ 32
  | 3 => (p + q) % 2 ^ 64
  | 4 => nmrFloat fp32 true true p q
  | 5 => nmrFloat bf16 false true p q
  | _ => maxSigned 32 p q

/-- Every element of a line under OP. -/
def nmrLine (fuel op : Nat) (dst src : List Byte) : List Byte :=
  match fuel with
  | 0 => []
  | fuel + 1 =>
    let n := nmrSize op
    if dst = [] then [] else
    leBytes n (nmrElem op (leNat (dst.take n)) (leNat (src.take n))) ++ nmrLine fuel op (dst.drop n) (src.drop n)

/-- The lines of a reduction in ascending address: each read, combined at its home, and written there (R367). -/
def nmrLines (s : State) (c : Nat) (key : RKey) (snap : List (List Byte)) (op : Nat) (ps : List ((Loc × Nat) × (Loc × Nat))) :
    State :=
  match ps with
  | [] => s
  | ((.phys pa, _), (l, n)) :: t =>
    let (src, s) := pieceBytes s c key false (snap.take 1) [(l, n)]
    nmrLines (homeWrite s 1024 pa (nmrLine 17 op (memBytes s.mem pa 32) src)) c key (snap.drop 1) op t
  | _ :: t => nmrLines s c key (snap.drop 1) op t

/-- A reduction as a whole (R367). -/
def runReduce (s : State) (o : SgOp) : SgOut :=
  let c := slotCore o.owner.slot
  let key : RKey := .engine c o.id
  if o.dst.toNat % 32 ≠ 0 ∨ o.src.toNat % 32 ≠ 0 ∨ cwCount o.ctl % 32 ≠ 0 ∨ isNear o.dst then .ends s (tokenWord true 1 0) else
  let (r, s) := reachRows s o needR (·.2) 1 0 reached0
  let (w, s) := reachRows s o needRW (·.1) 1 0 reached0
  if r.how = .migrating ∨ w.how = .migrating then .waits (disowned s o) else
  let stop := firstEnd (endOf r) (endOf w)
  let src := cutPieces r.pieces.reverse stop.1
  let asked := remoteSend s key (piecePackets src none)
  if !remoteAll asked key || piecesHeld s o.age o.snap src || piecesHeld s o.age [] (cutPieces w.pieces.reverse stop.1) then .waits asked
  else
  let s := asked
  let stop := match refusedAt s key false src 0 with
    | some (p, cause) => (p, some cause)
    | none => stop
  let s := nmrLines s c key o.snap (cwOp o.ctl) ((cutPieces w.pieces.reverse stop.1).zip (cutPieces src stop.1))
  .ends (remoteClear (endRecord s o r w stop) key) (sgToken stop.1 stop.2)

/-- An operation that has not ended, performed (R364). -/
def runOp (s : State) (o : SgOp) : SgOut :=
  if cwCount o.ctl = 0 then .ends s 0 else
  match o.kind with
  | .nearReduce => runReduce s o
  | _ => runCopy s o

/-! Tokens (R364, R366, R448). -/

/-- A token of a saved task's status queue: into the save area where a port holds that queue, else beside it (R448). -/
def savedStatus (s : State) (o : Owner) (q : Saved) (v : Word) : State :=
  let c := slotCore o.slot
  let out := areaWord s c (q.area + 0x168)
  let s := areaPut s c (q.area + 0x168) (if fld out 12 6 = 0 then out else out - 0x1000)
  match (tab 8 0 id).find? fun n => (q.slot.qcode.toList.getD n 0).toNat == 2 with
  | some p =>
    let counts := areaWord s c (q.area + 0x1E0)
    let s := areaPut s c (q.area + BitVec.ofNat 64 (0x200 + 512 * p + 8 * fld counts (8 * p) 8)) v
    areaPut s c (q.area + 0x1E0) (counts + BitVec.twoPow 64 (8 * p))
  | none =>
    let k := coreAt s c
    setCore s c { k with saved := k.saved.map fun z =>
      if z.prod = q.prod ∧ z.task = q.task then { z with slot := { z.slot with qStat := z.slot.qStat ++ [v] } } else z }

/-- Items in a saved task's status queue. -/
def savedStatusLen (s : State) (o : Owner) (q : Saved) : Nat :=
  match (tab 8 0 id).find? fun n => (q.slot.qcode.toList.getD n 0).toNat == 2 with
  | some p => fld (areaWord s (slotCore o.slot) (q.area + 0x1E0)) (8 * p) 8
  | none => q.slot.qStat.length

/-- A queue command's token enters the status queue; none while that queue is full (R366). -/
def statusToken (s : State) (o : Owner) (v : Word) : Option State :=
  match holder s o with
  | some i =>
    if queueDepth 2 ≤ (slotAt s i).qStat.length then none
    else some (setSlot s i { lowerCtr (slotAt s i) .c with qStat := (slotAt s i).qStat ++ [v] })
  | none =>
    match savedOf s o with
    | some q => if tokenWaits s o || decide (queueDepth 2 ≤ savedStatusLen s o q) then none else some (savedStatus s o q v)
    | none => some s

/-- An operation's token leaves the stagehand, or waits there (R346, R364, R366). -/
def finishOp (s : State) (c : Nat) (o : SgOp) (v : Word) : State :=
  let k := coreAt s c
  let out := { k with sgOps := k.sgOps.filter fun q => q.id != o.id }
  let sent : Option State := match o.reg with
    | some r => if tokenWaits s o.owner then none else some (deliverToken (setCore s c out) o.owner r v)
    | none => statusToken (setCore s c out) o.owner v
  sent.getD (setCore s c { k with sgOps := k.sgOps.map fun q => if q.id = o.id then { q with token := some v } else q })

/-- Whether the `n`-th operation held runs: at most 4 that have not ended run at once, in arrival order; an operation of no
bytes ends at once (R360, R364). -/
def opRuns (k : Core) (n : Nat) (o : SgOp) : Bool :=
  o.token.isSome || cwCount o.ctl == 0 || decide (((k.sgOps.take n).filter fun q => q.token.isNone).length < 4)

/-- ENGINE_OPERATION_DONE: the `n`-th operation of core `c` ends, once every byte of it can be reached (R360 to R367). -/
def execEngineOperationDone (c n : Nat) (s : State) : Result :=
  let k := coreAt s c
  match k.sgOps[n]? with
  | none => .next s
  | some o =>
    if !opRuns k n o then .next s else
    match o.token with
    | some v => .next (finishOp s c o v)
    | none =>
      match runOp s o with
      | .ends s v => .next (finishOp s c o v)
      | .waits s => .next s

/-! Issue (R360, R361, R363, R365). -/

/-- The pieces of an operation's source, as far as they can be reached now. -/
def sourcePieces (s : State) (o : SgOp) : List (Loc × Nat) := (reachRows s o needR (·.2) (sgRows o) 0 reached0).1.pieces.reverse

/-- Whether an engine owns a line of an operation's source: a load placed at the instruction would wait for it (R378, R380). -/
def sourceHeld (s : State) (o : SgOp) : Bool :=
  !(o.token.isSome || cwCount o.ctl == 0) && piecesHeld s (engineAge s) [] (sourcePieces s o)

/-- Pieces read as a load placed at the instruction reads them, those of an aperture left for their packets (R380). -/
def readNow (s : State) (c : Nat) (merge : Bool) (ps : List (Loc × Nat)) : List (List Byte) × State :=
  match ps with
  | [] => ([], s)
  | (l, n) :: t =>
    let (bs, s) := if (apertureOf l).isSome then ([], s) else engineRead s c merge l n
    let (rest, s) := readNow s c merge t
    (bs :: rest, s)

/-- The lines of an operation's first 64 KiB of destination: they are its own from issue, or as soon as the engines that own them now
have written them (R378). -/
def destinationNow (s : State) (o : SgOp) : List Loc :=
  ((cutPieces (reachRows s o needW (·.1) (sgRows o) 0 reached0).1.pieces.reverse 65536).filter fun p =>
    (apertureOf p.1).isNone).map fun p => locLine p.1

/-- An operation enters the stagehand of core `c`: it takes its destination and its source's values as they stand (R378, R380). -/
def addOp (s : State) (c : Nat) (o : SgOp) : State :=
  let o := { o with id := (coreAt s c).sgNext, age := engineAge s }
  let (o, s) : SgOp × State := if o.token.isSome ∨ cwCount o.ctl = 0 then (o, s) else
    let (snap, t) := readNow s c (o.kind != .nearReduce) (sourcePieces s o)
    ({ o with owned := destinationNow s o, snap := snap }, t)
  let k := coreAt s c
  setCore s c { k with sgOps := k.sgOps ++ [o], sgNext := k.sgNext + 1 }

/-- Operations a stagehand holds at most (R360). -/
def sgDepth : Nat := 32

/-- The operation of the acting slot enters: g[d] pending as a token, OUTST.C raised; it waits while an engine owns a line of its
source (R125, R360, R380). -/
def issueOp (back s : State) (k : SgKind) (d : GReg) (dst src ctl : Word) (blk : List Word) : Result :=
  let o : SgOp := ⟨0, k, ownerOf s, (me s).sup, isUser (me s), some d.toNat, dst, src, ctl, blk, none, [], [], 0⟩
  if sourceHeld s o then .next (park back (.entry 0)) else
  let s := addOp s (myCore s) o
  .next (advance (setMe s (raiseCtr (pendG (me s) d 0) .c)))

/-- The words of a list. -/
def listWords (n : Nat) (bs : List Byte) : List Word := tab n 0 fun i => blockWord bs (8 * i)

/-- An instruction of page 6, major 12: the count word checked, the stagehand's room and the slot's earlier accesses awaited,
the release made and what the form reads at issue captured (R360 to R365, R377). -/
def engineOp (s : State) (k : SgKind) (d a b : GReg)
    (capture : State → Word → (List Word → State → Result) → Result) : Result :=
  withOps s [a, b] [d] [d] fun vs s' =>
    let ctl := opnd vs 2
    if !countWordOk k ctl then .next (takeTrap s 20 0)
    else if decide (sgDepth ≤ (coreAt s (myCore s)).sgOps.length) || decide (63 ≤ (me s).outC) || !releaseReady s then
      .next (park s (.entry 0))
    else
      let s' := if 2 ≤ cwScope ctl then writeBackAll s' (myCore s') else s'
      capture s' (opnd vs 1) fun blk s' => issueOp s s' k d (opnd vs 0) (opnd vs 1) ctl blk

/-- CPY (R362). -/
def execCpy (d a b : GReg) (s : State) : Result := engineOp s .copy d a b fun s' _ k => k [] s'

/-- CPY2D: the descriptor is read at issue (R363). -/
def execCpy2d (d a b : GReg) (s : State) : Result :=
  engineOp s .copy2d d a b fun s' src k =>
    withBlock s s' needR src 32 fun bs _ s' => k (listWords 4 bs) s'

/-- CPYG: the descriptor and its list are read at issue (R363). -/
def execCpyg (d a b : GReg) (s : State) : Result :=
  engineOp s .gather d a b fun s' src k =>
    withBlock s s' needR src 16 fun bs _ s' =>
      let n := blockNat bs 8 8
      withBlockAt 1 id s s' needR (blockWord bs 0) (8 * n) fun l _ s' => k (listWords n l) s'

/-- NMR (R367). -/
def execNmr (d a b : GReg) (s : State) : Result := engineOp s .nearReduce d a b fun s' _ k => k [] s'

/-! The command queue (R366). -/

/-- What a command's reads come to: its words, a failing token's CAUSE, or a wait. -/
inductive Captured where
  | words (ws : List Word) (s : State)
  | fails (cause : Nat) (s : State)
  | waits (s : State)
  deriving DecidableEq, Repr

/-- A block that a queued command reads as the stagehand takes it; a fault ends the operation with a token (R363, R364). -/
def captureBlock (s : State) (o : SgOp) (nth : Nat) (ea : Word) (len : Nat) : Captured :=
  let key := blockKey o.owner.slot nth
  let (r, s) := reachRow s o needR (len / 32 + 2) ea len reached0
  match r.how with
  | .fault c => .fails c (noteRecord s o r.note)
  | .migrating => .waits s
  | .all =>
    let ps := r.pieces.reverse
    let s := remoteSend s key (piecePackets ps none)
    if !remoteAll s key || piecesHeld s (engineAge s) [] ps then .waits s else
    match refusedAt s key false ps 0 with
    | some (_, cause) => .fails cause (remoteClear s key)
    | none =>
      let (bs, s) := pieceBytes s (slotCore o.owner.slot) key true [] ps
      .words (listWords (len / 8) bs) s

/-- The descriptor words or list of a queued command (R363). -/
def captureOp (s : State) (o : SgOp) : Captured :=
  match o.kind with
  | .copy | .nearReduce => .words [] s
  | .copy2d => captureBlock s o 0 o.src 32
  | .gather =>
    match captureBlock s o 0 o.src 16 with
    | .words ws s => captureBlock s o 1 (ws.getD 0 0) (8 * (ws.getD 1 0).toNat)
    | r => r

/-- The operation a minor names (R361). -/
def sgKindOf (minor : Nat) : SgKind :=
  match minor with
  | 0 => .copy
  | 1 => .copy2d
  | 2 => .gather
  | _ => .nearReduce

/-- STAGEHAND_COMMAND: the stagehand of core `c` takes a command of four items from slot `i`'s queue, once it has room, the
slot's earlier accesses have performed, OUTST.C can rise and no engine owns a line of its source; a bad one ends at once with CAUSE 4
(R360, R365, R366, R380). -/
def execStagehandCommand (c i : Nat) (s : State) : Result :=
  let n := 16 * c + i
  let x := slotAt s n
  match x.qCmd with
  | kind :: ctl :: dst :: src :: rest =>
    if x.st = .free || decide (sgDepth ≤ (coreAt s c).sgOps.length) || decide (63 ≤ x.outC) || !releaseReady { s with cur := n } then
      .next s
    else
      let k := sgKindOf (fld kind 0 2)
      let owner : Owner := ⟨n, x.prodid, x.taskid⟩
      let o : SgOp := ⟨0, k, owner, x.sup, isUser x, none, dst, src, ctl, [], none, [], [], 0⟩
      let enter (s : State) (o : SgOp) : State :=
        addOp (setSlot (blockClear s n) n { raiseCtr (slotAt s n) .c with qCmd := rest }) c o
      if 3 < kind.toNat || !countWordOk k ctl then .next (enter s { o with token := some (tokenWord true 4 0) })
      else
        let s := if 2 ≤ cwScope ctl then writeBackAll s c else s
        match captureOp s o with
        | .words ws s => .next (if sourceHeld s { o with blk := ws } then s else enter s { o with blk := ws })
        | .fails cause s => .next (enter s { o with token := some (tokenWord true cause 0) })
        | .waits s => .next s
  | _ => .next s

end Sys2Proof.Machine
end

