-- ==== Sys2Proof/Machine/Collectives.lean ====
section
/-! DEFINITION. Messages sent and collectives (18 R462 to R466). The spec gives the COLL packet no layout: the one here is
the model's (log 23). -/

namespace Sys2Proof.Machine

/-! msgs (R463). -/

/-- Whether g[b] of `msgs` is good: LEN, MBOX and the reserved fields (R463). -/
def msgWordOk (w : Word) : Bool :=
  fld w 62 2 == 0 && fld w 50 6 == 0 && fld w 39 1 == 0 && fld w 5 27 == 0 && decide (fld w 32 7 ≤ 111) && fld w 0 5 != 0

/-- A token that fails as its operation issues (R364). -/
def failNow (s : State) (d : GReg) (cause : Nat) : Result :=
  .next (advance (sendResult s d (tokenWord true cause 0) false 0 .c))

/-- MSGS (R463). -/
def execMsgs (d a b : GReg) (s : State) : Result :=
  withOps s [a, b] [] [d] fun vs s' =>
    let ea := opnd vs 0
    let w := opnd vs 1
    if !msgWordOk w then .next (takeTrap s 20 0)
    else if ea.toNat % 8 ≠ 0 then .next (takeTrap s 6 ea)
    else if decide (63 ≤ (me s).outC) || !releaseReady s then .next (park s (.entry ea))
    else
      withBlock s (releaseAt s' (myCore s') .system) needR ea (8 * fld w 0 5) fun data _ s' =>
        match sendMsg s' (fld w 56 6) (fld w 40 10 + 65536 * fld w 32 7) (ownerOf s') d.toNat data none with
        | none => failNow s' d (statusCause (noConn s'))
        | some s' => .next (advance (setMe s' (raiseCtr (pendG (me s') d 0) .c)))

/-! Descriptors (R465). -/

/-- Whether g[b] of `coll` is in range (R465). -/
def collWordOk (w : Word) : Bool :=
  decide (fld w 0 4 ≤ 2) && fld w 4 4 == 0 && decide (fld w 8 4 ≤ 2) && decide (fld w 12 4 ≤ 5) && fld w 16 48 == 0 &&
  (fld w 0 4 != 1 || fld w 8 4 == 0)

/-- KIND of a collective (R465). -/
def collKind (ctl : Nat) : Nat := ctl % 16
/-- OP of a collective. -/
def collOp (ctl : Nat) : Nat := ctl / 256 % 16
/-- ELEM of a collective. -/
def collElem (ctl : Nat) : Nat := ctl / 4096 % 16

/-- Bytes of an ELEM (R465). -/
def collSize (elem : Nat) : Nat :=
  match elem with
  | 1 | 2 => 2
  | 3 | 5 => 8
  | _ => 4

/-- Bytes of a chunk. -/
def chunkBytes (q : Coll) : Nat := q.count * collSize (collElem q.ctl)
/-- Bytes a member reads from SRC (R466). -/
def srcBytes (q : Coll) : Nat := if collKind q.ctl = 2 then q.conns.length * chunkBytes q else chunkBytes q
/-- Bytes a member writes to DST (R466). -/
def dstBytes (q : Coll) : Nat := if collKind q.ctl = 1 then q.conns.length * chunkBytes q else chunkBytes q

/-- The collective as an engine operation of `n` bytes, so that its addresses are reached as the stagehand's are (R372, R378). -/
def collSg (q : Coll) (n : Nat) : SgOp :=
  ⟨2 ^ 65 + q.id, .copy, q.owner, q.sup, q.user, none, q.dst, q.src, BitVec.ofNat 64 n, [], none, [], [], q.age⟩

/-- What the descriptor and the group record come to. -/
inductive CollRead where
  | ok (q : Coll) (s : State)
  | bad (cause : Nat) (s : State)
  | waits (s : State)
  deriving DecidableEq, Repr

/-- The group record at `a`: N, SELF and GID, then the members' connections (R465). -/
def collGroup (s : State) (q : Coll) (a : Word) : CollRead :=
  if tableWaits s then .waits s else
  match captureBlock s (collSg q 0) 1 a 8 with
  | .fails cause s => .bad cause s
  | .waits s => .waits s
  | .words head s =>
    let h := head.getD 0 0
    let n := fld h 56 8
    let self := fld h 48 8
    match captureBlock s (collSg q 0) 1 a (8 + 8 * n) with
    | .fails cause s => .bad cause s
    | .waits s => .waits s
    | .words ms s =>
      let conns := (tab n 0 id).map fun m => if m = self then 64 else fld (ms.getD (1 + m) 0) 0 6
      if n < 2 ∨ 64 < n ∨ n ≤ self then .bad 4 s
      else if (portCore s).isNone then .bad 5 s
      else if conns.any fun k => k != 64 && (stageConn s k).isNone then .bad 4 s
      else .ok { q with gid := fld h 0 32, self := self, conns := conns } s

/-- The descriptor and the group record, read as the operation issues: a bad one gives CAUSE 4, one that cannot be read the
CAUSE of its fault (R364, R465). -/
def collRead (s : State) (a : Word) (ctl reg : Nat) : CollRead :=
  let q : Coll := ⟨0, 0, ownerOf s, (me s).sup, isUser (me s), reg, 0, ctl, 0, 0, [], 0, 0, none, none, false, [], [], 0⟩
  if a.toNat % 8 ≠ 0 then .bad 4 s else
  match captureBlock s (collSg q 0) 0 a 32 with
  | .fails cause s => .bad cause s
  | .waits s => .waits s
  | .words ws s =>
    let c := (ws.getD 2 0).toNat
    if c = 0 ∨ 2 ^ 32 < c then .bad 4 s
    else collGroup s { q with count := c, src := ws.getD 0 0, dst := ws.getD 1 0 } (ws.getD 3 0)

/-! The packets of a collective (R456, R466; log 23). -/

/-- Data in packets of at most 4,096 bytes, from byte `off` of the member's chunk; KEY names the operation, the k-th on its group. -/
def sendColl (fuel : Nat) (s : State) (conn : Nat) (e : ConnEntry) (gid k off : Nat) (bs : List Byte) : State :=
  match fuel with
  | 0 => s
  | fuel + 1 =>
    if bs = [] then s else
    let part := bs.take 4096
    let s := sendPacket s conn e
      ⟨7, false, 0, 0, 0, 0, k % 2 ^ 15, off, part.length, 0, gid, makeRecs 129 off part⟩ (.coll gid k)
    sendColl fuel s conn e gid k (off + 4096) (bs.drop 4096)

/-- The OFFSET of an announcement: C, and above it the operation's place among those on its group, modulo 2^15 (log 23). -/
def collOffset (q : Coll) : Nat := q.count + 2 ^ 33 * (q.k % 2 ^ 15)

/-- What member `m` of `q` gets from this one: an announcement, then its data. An announcement of one member says that a member is
lost, one of none that this one has failed (R465; log 23). -/
def sendMember (s : State) (q : Coll) (m : Nat) (own : Option (List Byte)) : State :=
  let conn := q.conns.getD m 64
  match stageConn s conn with
  | none => s
  | some e =>
    let members := if q.lost then 1 else if own.isSome then q.conns.length else 0
    let s := sendPacket s conn e ⟨7, false, 0, 0, 0, members, q.ctl, collOffset q, 0, 0, q.gid, []⟩ (.coll q.gid q.k)
    let n := chunkBytes q
    let part := if collKind q.ctl = 2 then ((own.getD []).drop (m * n)).take n else own.getD []
    sendColl (n / 4096 + 1) s conn e q.gid q.k 0 part

/-- What the other members get. -/
def sendMembers (s : State) (q : Coll) (own : Option (List Byte)) : State :=
  (tab q.conns.length 0 id).foldl (fun s m => if m = q.self then s else sendMember s q m own) s

/-- Whether an earlier operation on the group has told its members nothing yet: announcements leave in order (R465). -/
def collBehind (s : State) (q : Coll) : Bool :=
  s.door.colls.any fun z => z.gid == q.gid && decide (z.id < q.id) && z.own.isNone && z.fault.isNone && !z.lost

/-- A collective that meets a migrating page gives up the lines it owns until it can go on (R345, R346, R378; log 19). -/
def giveUp (s : State) (q : Coll) : State :=
  { s with door := { s.door with colls := s.door.colls.map fun z => if z.id = q.id then { z with owned := [] } else z } }

/-- A collective's own data sent, as they were read at issue, once SRC can be reached; a fault there ends it, and so does a connection that is gone
(R364, R454, R465, R466). -/
def startColl (s : State) (q : Coll) : State :=
  if q.own.isSome || q.fault.isSome || q.lost || tableWaits s || collBehind s q then s else
  let key : RKey := .engine (slotCore q.owner.slot) (2 ^ 65 + q.id)
  let set (s : State) (f : Coll → Coll) : State :=
    { s with door := { s.door with colls := s.door.colls.map fun z => if z.id = q.id then f z else z } }
  let fails (s : State) (cause : Nat) : State :=
    sendMembers (set s fun z => { z with fault := some cause }) { q with lost := cause == 5 } none
  if (portCore s).isNone then fails s 5
  else if q.conns.any fun k => k != 64 && (stageConn s k).isNone then fails s 4 else
  let (r, s) := reachRow s (collSg q (srcBytes q)) needR (srcBytes q / 32 + 2) q.src (srcBytes q) reached0
  match r.how with
  | .migrating => giveUp s q
  | .fault cause => fails (noteRecord s (collSg q 0) r.note) cause
  | .all =>
    let ps := r.pieces.reverse
    let s := remoteSend s key (piecePackets ps none)
    if !remoteAll s key || piecesHeld s q.age q.snap ps then s else
    match refusedAt s key false ps 0 with
    | some (_, cause) => fails (remoteClear s key) cause
    | none =>
      let (own, s) := pieceBytes s (slotCore q.owner.slot) key true q.snap ps
      sendMembers (set (remoteClear s key) fun z => { z with own := some own }) q (some own)

/-- The engine starts what it has room for: at most 16 run, in arrival order (R464). -/
def startColls (s : State) : State :=
  ((s.door.colls.take 16).map (·.id)).foldl (fun s id => match s.door.colls.find? fun q => q.id == id with
    | some q => startColl s q
    | none => s) s

/-- The places of a collective's source and destination, as far as they can be reached now. -/
def collPieces (s : State) (q : Coll) (n : Need) (ea : Word) (len : Nat) : List (Loc × Nat) :=
  (reachRow s (collSg q len) n (len / 32 + 2) ea len reached0).1.pieces.reverse

/-- A collective enters the engine: it reads its source as a load placed at the instruction does, and owns its first 64 KiB of
destination from now on (R378, R380, R464; log 23). -/
def addColl (s : State) (q : Coll) : State :=
  let n := s.door.collNext
  let k := look s.door.collSeen q.gid 0
  let age := engineAge s
  let own := (collPieces s q needW q.dst (min (dstBytes q) 65536)).filter fun p => (apertureOf p.1).isNone
  let (snap, s) := readNow s (slotCore q.owner.slot) true (collPieces s q needR q.src (srcBytes q))
  { s with door := { s.door with
    colls := s.door.colls ++ [{ q with id := n, k := k, age := age, snap := snap, owned := own.map fun p => locLine p.1 }]
    collNext := n + 1
    collSeen := put s.door.collSeen q.gid (k + 1) } }

/-- COLL: g[b] checked, the slot's earlier accesses awaited and released at system scope, the descriptor and record read, its
source's lines awaited where an engine owns them, and the collective listed with its token pending (R378, R380, R465, R466). -/
def execColl (d a b : GReg) (s : State) : Result :=
  withOps s [a, b] [] [d] fun vs s' =>
    let w := opnd vs 1
    if !collWordOk w then .next (takeTrap s 20 0)
    else if decide (63 ≤ (me s).outC) || !releaseReady s then .next (park s (.entry 0))
    else
      match collRead (releaseAt s' (myCore s') .system) (opnd vs 0) w.toNat d.toNat with
      | .waits _ =>
        .next (park (match collRead s (opnd vs 0) w.toNat d.toNat with
          | .waits s => s
          | _ => s) (.entry 0))
      | .bad cause s' => failNow (blockClear s' s'.cur) d cause
      | .ok q s' =>
        if piecesHeld s' (engineAge s') [] (collPieces s' q needR q.src (srcBytes q)) then .next (park s (.entry 0)) else
        let s' := addColl (blockClear s' s'.cur) q
        .next (startColls (advance (setMe s' (raiseCtr (pendG (me s') d 0) .c))))

/-- Whether this package's operation that an announcement matches has ended (R465). -/
def collOver (s : State) (p : Packet) : Bool :=
  let k := p.offset / 2 ^ 33
  let ago := (look s.door.collSeen p.status 0 + 2 ^ 15 - k) % 2 ^ 15
  decide (0 < ago) && decide (ago < 2 ^ 14) && !s.door.colls.any fun q => q.gid == p.status && q.k % 2 ^ 15 == k

/-- STAGE_DOOR_COLL: a member's announcement opens its next operation on the group, its data follow in order, and a second one says
that a member is lost. Those of one that is over here are dropped (R465, R466). -/
def execStageDoorColl (p : Packet) (s : State) : Result :=
  .next (receive s 7 p fun s e =>
    let ins := s.door.collIn
    let ins := if p.len = 0 then
        (if collOver s p then ins else
          (ins.filter fun r => !(r.conn == p.conn && r.gid == p.status && r.k == p.offset / 2 ^ 33)) ++
            [⟨p.conn, p.status, p.offset / 2 ^ 33, p.key, p.offset % 2 ^ 33, p.win, []⟩]) else
      ins.map fun r => if r.conn = p.conn ∧ r.gid = p.status ∧ r.k = p.key then
        { r with data := r.data ++ recBytes p.recs p.offset p.len } else r
    answer { s with door := { s.door with collIn := ins } } p.conn e 5 p.tag 0 0 0 [])

/-! The result (R466). -/

/-- The float format of an ELEM, where it is one. -/
def collFmt (elem : Nat) : Option FloatFmt :=
  match elem with
  | 0 => some fp32
  | 1 => some bf16
  | 2 => some fp16
  | 3 => some fp64
  | _ => none

/-- OP on two patterns of an ELEM (R466). -/
def collPair (elem op p q : Nat) : Nat :=
  match collFmt elem with
  | some f =>
    if op = 0 then (encNum f ⟨.rne, false, false, fmtMin f⟩ (addNum .rne (decNum f p) (decNum f q)).1 ⟨0, 0⟩).1
    else (minMaxPat f (op == 1) p q (decNum f p) (decNum f q)).1
  | none =>
    let n := 8 * collSize elem
    if op = 0 then (p + q) % 2 ^ n
    else if op = 1 then maxSigned n p q
    else if maxSigned n p q = p then q else p

/-- R(e) of R466: the members' elements folded in ascending index; a hook among FP32 inputs gives the canonical NaN. -/
def collFold (elem op : Nat) (xs : List Nat) : Nat :=
  if elem = 0 ∧ xs.any isHook then fmtNan fp32 else
  match xs with
  | [] => 0
  | x :: t => t.foldl (collPair elem op) x

/-- Every element of the members' chunks folded. -/
def collReduce (fuel elem op : Nat) (chunks : List (List Byte)) : List Byte :=
  match fuel with
  | 0 => []
  | fuel + 1 =>
    let n := collSize elem
    leBytes n (collFold elem op (chunks.map fun b => leNat (b.take n))) ++
      collReduce fuel elem op (chunks.map fun b => b.drop n)

/-- The bytes for DST, from every member's chunk in ascending index; a gathered element is its own fold (R466). -/
def collResult (q : Coll) (chunks : List (List Byte)) : List Byte :=
  if collKind q.ctl = 1 then (chunks.map fun b => collReduce q.count (collElem q.ctl) 0 [b]).flatten
  else collReduce q.count (collElem q.ctl) (collOp q.ctl) chunks

/-- The chunk this member gives itself. -/
def ownChunk (q : Coll) (own : List Byte) : List Byte :=
  if collKind q.ctl = 2 then (own.drop (q.self * chunkBytes q)).take (chunkBytes q) else own

/-- Whether what has come on a group is for operation `q`: its k-th there (R465). -/
def forColl (q : Coll) (r : CollIn) : Bool := r.gid == q.gid && r.k == q.k % 2 ^ 15

/-- What member `m` has sent for this operation (R465). -/
def memberIn (s : State) (q : Coll) (m : Nat) : Option CollIn :=
  s.door.collIn.find? fun r => r.conn == q.conns.getD m 64 && forColl q r

/-- Whether all of what a member announced has come; one that has failed sends nothing more. -/
def inWhole (r : CollIn) : Bool := decide (r.n ≤ 1) || decide (r.count * collSize (collElem r.ctl) ≤ r.data.length)

/-- The operation leaves the engine with a token; what its members sent for it is used up, all of them learn that a member is
lost where one is, and the next ones start (R465). -/
def endColl (s : State) (q : Coll) (v : Word) : State :=
  let s := if q.lost then sendMembers s q none else s
  let s := { s with door := { s.door with
    colls := s.door.colls.filter fun z => z.id != q.id, collIn := s.door.collIn.filter fun r => !forColl q r } }
  startColls (deliverToken s q.owner q.reg v)

/-- The result written to DST, every byte visible at system scope before the token; a fault ends it with a token (R364, R466). -/
def writeColl (s : State) (q : Coll) (bs : List Byte) : State :=
  let c := slotCore q.owner.slot
  let key : RKey := .engine c (2 ^ 65 + q.id)
  let (w, s) := reachRow s (collSg q bs.length) needW (bs.length / 32 + 2) q.dst bs.length reached0
  if w.how = .migrating then giveUp s q else
  let stop := endOf w
  let ps := cutPieces w.pieces.reverse stop.1
  let s := remoteSend s key (piecePackets ps (some bs))
  if !remoteAll s key || piecesHeld s q.age [] ps then s else
  let stop := match refusedAt s key true ps 0 with
    | some (p, cause) => (p, some cause)
    | none => stop
  let s := writePieces s c true (cutPieces ps stop.1) bs
  let s := if stop = endOf w then noteRecord s (collSg q 0) w.note else s
  endColl (remoteClear s key) q (sgToken stop.1 stop.2)

/-- Whether some member has said that one is lost (R465). -/
def toldLost (s : State) (q : Coll) : Bool :=
  s.door.collIn.any fun r => forColl q r && r.n == 1 && q.conns.contains r.conn

/-- COLL_COMPLETE: the `n`-th collective goes as far as it can. It fails with CAUSE 5 where a member is lost, which every member
learns, with that of a fault at its source, and with CAUSE 4 where the members differ; else it ends once every member's data have come
(R464 to R466). -/
def execCollComplete (n : Nat) (s : State) : Result :=
  let s := startColls s
  match s.door.colls[n]? with
  | none => .next s
  | some q =>
    if ((s.door.colls.take n).any fun z => z.gid == q.gid) || tokenWaits s q.owner then .next s
    else if q.lost || toldLost s q then .next (endColl s { q with lost := true } (tokenWord true 5 0))
    else if 16 ≤ n then .next s
    else
      match q.fault, q.own with
      | some cause, _ => .next (endColl s q (tokenWord true cause 0))
      | none, none => .next s
      | none, some own =>
        let others := (tab q.conns.length 0 id).filter (· != q.self)
        if others.any fun m => (memberIn s q m).isNone then .next s else
        let ins := others.filterMap (memberIn s q)
        if !(ins.all inWhole) then .next s
        else if ins.any fun r => r.ctl != q.ctl || r.count != q.count || r.n != q.conns.length then
          .next (endColl s q (tokenWord true 4 0))
        else
          let chunk (m : Nat) : List Byte := if m = q.self then ownChunk q own else
            match memberIn s q m with
            | some r => r.data
            | none => []
          .next (writeColl s q (collResult q ((tab q.conns.length 0 id).map chunk)))

/-! Arrivals that waited (R346, R454, R455). -/

/-- What an arrival asks for. -/
def execHeld (h : Held) (s : State) : Result :=
  match h with
  | .stage 0 p => execStageDoorWrite p s
  | .stage 1 p => execStageDoorRead p s
  | .stage 2 p => execStageDoorReadresp p s
  | .stage 3 p => execStageDoorAtomic p s
  | .stage 4 p => execStageDoorMsg p s
  | .stage 5 p => execStageDoorAck p s
  | .stage 6 p => execStageDoorNack p s
  | .stage _ p => execStageDoorColl p s
  | .roce 0 r => execRoceRdmaWrite r s
  | .roce 1 r => execRoceRdmaRead r s
  | .roce 2 r => execRoceSend r s
  | .roce _ r => execRoceUnsupported r s

/-- Whether an arrival has still to wait. -/
def heldWaits (s : State) (h : Held) : Bool :=
  match h with
  | .stage k p => if k = 2 ∨ k = 5 ∨ k = 6 then answerWaits s p.conn else requestWaits s k p
  | .roce k r => roceWaits s k r

/-- The `n`-th arrival held is performed, once it need wait no longer. -/
def takeHeld (s : State) (n : Nat) : Result :=
  match s.door.held[n]? with
  | none => .next s
  | some h => if heldWaits s h then .next s else execHeld h { s with door := { s.door with held := dropAt s.door.held n } }

end Sys2Proof.Machine
end

