-- ==== Sys2Proof/Machine/Sfu.lean ====
section
/-! DEFINITION. The special-function unit's requests: sfu, the queue ports, the strips of `vsfu`, batches and results (15 R397 to
R404). A strip's values are in its context when it starts; its batches say when it ends. -/

namespace Sys2Proof.Machine

/-- Requests of `sfu` that slot `i` has outstanding (R401). -/
def sfuCount (s : State) (i : Nat) : Nat :=
  let k := coreAt s (slotCore i)
  ((k.sfuReqs ++ sfuSent k).filter fun q => q.slot == i && q.reg.isSome).length

/-- Requests that slot `i` has in its queue, or under way to it from an instruction issued before (R403). -/
def sfuQueued (s : State) (i : Nat) : Nat :=
  let x := slotAt s i
  x.qSfuReq.length + ((tab 8 24 greg).filter fun r => portCode x r == 3 && aimedAt s i r).length

/-- SFU: its faults in order, then a request; it goes after the items its slot has pushed before (R401, R403). -/
def execSfu (d a b : GReg) (s : State) : Result :=
  withOps s [a, b] [] [d] fun vs s' =>
    let x : BitVec 32 := (opnd vs 0).setWidth 32
    if 10 < (opnd vs 1).toNat then .next (takeTrap s 20 0)
    else if isHook x.toNat then .next (takeTrap s 16 0)
    else if 4 ≤ sfuCount s s.cur then .next (park s (.entry 0))
    else
      let k := coreAt s' (myCore s')
      let q : SfuReq := ⟨s'.cur, some d.toNat, (opnd vs 1).toNat, x, 0, 0, sfuQueued s' s'.cur⟩
      let s' := noteSfu (setCore s' (myCore s') { k with sfuReqs := k.sfuReqs ++ [q] }) s'.cur
      .next (advance (setMe s' (pendG (me s') d 0)))

/-- A request item decoded. DESIGN CHOICE: one that is bad and holds a hook has CAUSE 1 (R402; log 21). -/
def sfuItem (i : Nat) (w : Word) : SfuReq :=
  let x : BitVec 32 := w.setWidth 32
  let fn := fld w 40 4
  let cause := if 10 < fn ∨ fld w 44 20 ≠ 0 then 1 else if isHook x.toNat then 2 else 0
  ⟨i, none, fn, x, fld w 32 8, cause, 0⟩

/-- Whether slot `i`'s oldest request item may leave, `taken` being the batch that forms: its result has a place reserved (R402). -/
def sfuPlace (s : State) (i : Nat) (taken : List SfuReq) : Bool :=
  let under := ((sfuSent (coreAt s (slotCore i)) ++ taken).filter fun q => q.slot == i && q.reg.isNone).length
  !(slotAt s i).qSfuReq.isEmpty && decide ((slotAt s i).qSfuRes.length + under < queueDepth 4)

/-- The oldest request of slot `i` taken: an `sfu` that nothing it has pushed precedes, or the oldest item of its queue (R402, R403). -/
def sfuTake (s : State) (i : Nat) (taken : List SfuReq) : Option (SfuReq × State) :=
  let c := slotCore i
  let k := coreAt s c
  let x := slotAt s i
  match k.sfuReqs.find? fun q => q.slot == i with
  | some q =>
    if min q.behind (sfuQueued s i) = 0 then some (q, setCore s c { k with sfuReqs := k.sfuReqs.erase q })
    else if sfuPlace s i taken then
      let s := setCore s c { k with sfuReqs := k.sfuReqs.map fun q => if q.slot = i then { q with behind := q.behind - 1 } else q }
      some (sfuItem i (x.qSfuReq.headD 0), setSlot s i { x with qSfuReq := x.qSfuReq.drop 1 })
    else none
  | none =>
    if sfuPlace s i taken then some (sfuItem i (x.qSfuReq.headD 0), setSlot s i { x with qSfuReq := x.qSfuReq.drop 1 }) else none

/-- The oldest scalar request of core `c` that may enter a batch, among the slots in order of their requests (R400). -/
def sfuNext (s : State) (c : Nat) (taken : List SfuReq) : Option (SfuReq × State) :=
  let k := coreAt s c
  (k.sfuOrder ++ tab 16 (16 * c) id).findSome? fun i => (sfuTake s i taken).map fun (q, s) =>
    let k := coreAt s c
    (q, setCore s c { k with sfuOrder := k.sfuOrder.erase i })

/-- A batch of up to `room` scalar requests (R397, R400). -/
def sfuForm (s : State) (c room : Nat) (taken : List SfuReq) : List SfuReq × State :=
  match room with
  | 0 => (taken, s)
  | room + 1 =>
    match sfuNext s c taken with
    | some (q, s) => sfuForm s c room (taken ++ [q])
    | none => (taken, s)

/-- The next batch of the vector contexts: up to 64 elements of the oldest strip of the context picked; PTR follows who is left (R257,
R258, R400). -/
def sfuVector (s : State) (c : Nat) : Option (SfuBatch × State) :=
  match drrPick s c .sfu (sfuContenders s c) with
  | (_, none) => none
  | (s, some p) =>
    let k := coreAt s c
    (k.sfuVec.find? fun v => v.ctx == p.ctx && v.left != 0).map fun v =>
      let s := setCore s c { k with
        sfuVec := k.sfuVec.map fun u => if u = v then { v with left := v.left - min 64 v.left, out := v.out + 1 } else u }
      (⟨[], some (v.ctx, v.way)⟩, (trackPtr s c .sfu (sfuContenders s c)).1)

/-- The next batch of core `c`, in turn from its scalar requests and from its vector contexts where both wait (R400). -/
def sfuBatchNext (s : State) (c : Nat) : Option (SfuBatch × State) :=
  let scalar := match sfuForm s c 64 [] with
    | ([], _) => none
    | (l, s) => some ((⟨l, none⟩ : SfuBatch), s)
  let turn (s : State) (b : Bool) : State := setCore s c { coreAt s c with sfuTurn := b }
  match scalar, sfuVector s c with
  | none, v => v.map fun (b, s) => (b, turn s false)
  | some (b, s), none => some (b, turn s true)
  | some (b, t), some (v, u) => if (coreAt s c).sfuTurn then some (v, turn u false) else some (b, turn t true)

/-- Core `c` forms batches while its port has room and requests wait (R399, R400). -/
def sfuFill (s : State) (c room : Nat) : State :=
  match room with
  | 0 => s
  | room + 1 =>
    if 4 ≤ (coreAt s c).sfuPort.length then s else
    match sfuBatchNext s c with
    | none => s
    | some (b, s) => sfuFill (setCore s c { coreAt s c with sfuPort := (coreAt s c).sfuPort ++ [b] }) c room

/-- SFU_BATCH: the unit of octet `o` takes the oldest batch of one core, in rotation after the core served last (R399). -/
def execSfuBatch (o : Nat) (s : State) : Result :=
  let s := (tab 8 (8 * o) id).foldl (fun s c => sfuFill s c 4) s
  let last := look s.sfuLast o 7
  match (tab 8 1 fun i => 8 * o + (last + i) % 8).find? fun c => !(coreAt s c).sfuPort.isEmpty with
  | none => .next s
  | some c =>
    let k := coreAt s c
    let s := setCore s c { k with sfuPort := k.sfuPort.drop 1, sfuRun := k.sfuRun ++ [k.sfuPort.headD ⟨[], none⟩] }
    .next { s with sfuLast := put s.sfuLast o (c % 8) }

/-- A result item (R402). -/
def sfuResultItem (q : SfuReq) : Word :=
  if q.cause ≠ 0 then BitVec.ofNat 64 (q.cause * 2 ^ 45 + q.tag * 2 ^ 32) else
  let r := sfuOf q.fn q.x
  BitVec.ofNat 64 (r.2.toNat % 32 * 2 ^ 40 + q.tag * 2 ^ 32 + r.1)

/-- One result: to its register, with its flags, or into the result queue (R401 to R403). -/
def sfuDeliver (s : State) (q : SfuReq) : State :=
  match q.reg with
  | some r =>
    let v := sfuOf q.fn q.x
    let s := setSlot s q.slot (addFlags (slotAt s q.slot) v.2)
    deliver s q.slot ⟨r, BitVec.ofNat 64 v.1, false, 0, .none, none, none⟩
  | none =>
    let x := slotAt s q.slot
    setSlot s q.slot { x with qSfuRes := x.qSfuRes ++ [sfuResultItem q] }

/-- A batch of the strip of context `x` on a way has returned: with the last of them the strip ends (R398, R400). -/
def stripResult (s : State) (c x way : Nat) : State :=
  let k := coreAt s c
  match k.sfuVec.find? fun v => v.ctx == x && v.way == way with
  | none => s
  | some v =>
    if v.left ≠ 0 ∨ 1 < v.out then
      setCore s c { k with sfuVec := k.sfuVec.map fun u => if u = v then { v with out := v.out - 1 } else u }
    else
      let now := cycleOf s c
      let ends (t : Strip) : Strip := { t with endAt := max (endTime s c (max now t.begun) (v.beats - elapsed s c t)) (now + 1) }
      setCore s c { k with
        sfuVec := k.sfuVec.filter (· != v)
        strips := k.strips.map fun t => if t.ctx = x ∧ t.way = way then ends t else t }

/-- SFU_RESULT: the results of core `c`'s oldest batch in the unit reach it (R398, R400, R401, R403). -/
def execSfuResult (c : Nat) (s : State) : Result :=
  let k := coreAt s c
  match k.sfuRun with
  | [] => .next s
  | b :: t =>
    let s := b.reqs.foldl sfuDeliver (setCore s c { k with sfuRun := t })
    .next (match b.strip with
      | some (x, way) => stripResult s c x way
      | none => s)

end Sys2Proof.Machine
end

