-- ==== Sys2Proof/Machine/VectorFloatArms.lean ====
section
/-! DEFINITION. The vector-class page 3 instructions as the scalar front issues them (08 R211 to R237). -/

namespace Sys2Proof.Machine

/-- VFADD (R216) -/
def execVfadd (d a b : VReg) (k : VMask) (s : State) : Result := float3 .vfadd .f d a b k s
/-- VFSUB (R216) -/
def execVfsub (d a b : VReg) (k : VMask) (s : State) : Result := float3 .vfsub .f d a b k s
/-- VFMUL (R216) -/
def execVfmul (d a b : VReg) (k : VMask) (s : State) : Result := float3 .vfmul .f d a b k s
/-- VFDIV (R216) -/
def execVfdiv (d a b : VReg) (k : VMask) (s : State) : Result := float3 .vfdiv .f d a b k s
/-- VFMIN (R217) -/
def execVfmin (d a b : VReg) (k : VMask) (s : State) : Result := float3 .vfmin .f d a b k s
/-- VFMAX (R217) -/
def execVfmax (d a b : VReg) (k : VMask) (s : State) : Result := float3 .vfmax .f d a b k s
/-- VFSGNJ (R218) -/
def execVfsgnj (d a b : VReg) (k : VMask) (s : State) : Result := float3 .vfsgnj .f d a b k s
/-- VFSQRT (R216) -/
def execVfsqrt (d a : VReg) (k : VMask) (s : State) : Result := float2 .vfsqrt d a k s
/-- VFMA (R216) -/
def execVfma (d a b : VReg) (c : BitVec 4) (k : VMask) (s : State) : Result := float4 .vfma d a b c k s
/-- VFMS (R216) -/
def execVfms (d a b : VReg) (c : BitVec 4) (k : VMask) (s : State) : Result := float4 .vfms d a b c k s
/-- VFNMA (R216) -/
def execVfnma (d a b : VReg) (c : BitVec 4) (k : VMask) (s : State) : Result := float4 .vfnma d a b c k s
/-- VFNMS (R216) -/
def execVfnms (d a b : VReg) (c : BitVec 4) (k : VMask) (s : State) : Result := float4 .vfnms d a b c k s
/-- VFADD_S (R216) -/
def execVfaddS (d a : VReg) (b : GReg) (k : VMask) (s : State) : Result := floatS .vfaddS .f noLimit d a b k s
/-- VFSUB_S (R216) -/
def execVfsubS (d a : VReg) (b : GReg) (k : VMask) (s : State) : Result := floatS .vfsubS .f noLimit d a b k s
/-- VFMUL_S (R216) -/
def execVfmulS (d a : VReg) (b : GReg) (k : VMask) (s : State) : Result := floatS .vfmulS .f noLimit d a b k s
/-- VFRSUB_S (R216) -/
def execVfrsubS (d a : VReg) (b : GReg) (k : VMask) (s : State) : Result := floatS .vfrsubS .f noLimit d a b k s
/-- VFABS (R218) -/
def execVfabs (d a : VReg) (k : VMask) (s : State) : Result := float2 .vfabs d a k s
/-- VFNEG (R218) -/
def execVfneg (d a : VReg) (k : VMask) (s : State) : Result := float2 .vfneg d a k s
/-- VFCLASS (R220) -/
def execVfclass (d a : VReg) (k : VMask) (s : State) : Result := float2 .vfclass d a k s
/-- VFROUND (R219) -/
def execVfround (d a : VReg) (k : VMask) (s : State) : Result := float2 .vfround d a k s
/-- VFCEQ (R221) -/
def execVfceq (d : MReg) (a b : VReg) (k : VMask) (s : State) : Result := floatM .vfceq d a b k s
/-- VFCLT (R221) -/
def execVfclt (d : MReg) (a b : VReg) (k : VMask) (s : State) : Result := floatM .vfclt d a b k s
/-- VFCLE (R221) -/
def execVfcle (d : MReg) (a b : VReg) (k : VMask) (s : State) : Result := floatM .vfcle d a b k s
/-- VFCUN (R221) -/
def execVfcun (d : MReg) (a b : VReg) (k : VMask) (s : State) : Result := floatM .vfcun d a b k s
/-- VFCVT (R222) -/
def execVfcvt (d a : VReg) (b : GReg) (k : VMask) (s : State) : Result := floatS .vfcvt .f codeOk d a b k s
/-- VF2I (R222) -/
def execVf2i (d a : VReg) (b : GReg) (k : VMask) (s : State) : Result := floatS .vf2i .f widthOk d a b k s
/-- VI2F (R222) -/
def execVi2f (d a : VReg) (b : GReg) (k : VMask) (s : State) : Result := floatS .vi2f .i codeOk d a b k s
/-- VF2I_T (R222) -/
def execVf2iT (d a : VReg) (b : GReg) (k : VMask) (s : State) : Result := floatS .vf2iT .f widthOk d a b k s
/-- VQAMAX (R225) -/
def execVqamax (d : GReg) (a : VReg) (b : GReg) (k : VMask) (s : State) : Result := floatG .vqamax .fb noLimit d a b k s
/-- VQSCALE (R226, R227) -/
def execVqscale (d a : VReg) (b : GReg) (s : State) : Result := floatS .vqscale .b quantOk d a b VMask.all s
/-- VQPACK (R226, R227, R229) -/
def execVqpack (d a : VReg) (b : GReg) (s : State) : Result := 
  issueVec s .vqpack ⟨d, a, b, 0, VMask.all⟩ ⟨none, some b, none⟩ (checkPack d a)
/-- VQUNPACK (R226, R227) -/
def execVqunpack (d a : VReg) (b : GReg) (k : VMask) (s : State) : Result := floatS .vqunpack .b quantOk d a b k s
/-- VFWHT: k from 1 to 9 and VL a multiple of 2^k (R232) -/
def execVfwht (d a : VReg) (b : GReg) (s : State) : Result := 
  floatS .vfwht .f (fun y e => decide (1 ≤ e.gb.toNat) && decide (e.gb.toNat ≤ 9) && y.vl % 2 ^ (e.gb.toNat % 16) == 0) d a b
    VMask.all s
/-- VSFU: a code at most 10 (R233) -/
def execVsfu (d a : VReg) (b : GReg) (k : VMask) (s : State) : Result := 
  floatS .vsfu .f (fun _ e => decide (e.gb.toNat ≤ 10)) d a b k s
/-- VFREDSUM_O (R234) -/
def execVfredsumO (d : GReg) (a : VReg) (b : GReg) (k : VMask) (s : State) : Result := floatG .vfredsumO .f noLimit d a b k s
/-- VFREDSUM_T (R234) -/
def execVfredsumT (d : GReg) (a : VReg) (b : GReg) (k : VMask) (s : State) : Result := floatG .vfredsumT .f noLimit d a b k s
/-- VFREDMAX (R234) -/
def execVfredmax (d : GReg) (a : VReg) (b : GReg) (k : VMask) (s : State) : Result := floatG .vfredmax .f noLimit d a b k s
/-- VFREDMIN (R234) -/
def execVfredmin (d : GReg) (a : VReg) (b : GReg) (k : VMask) (s : State) : Result := floatG .vfredmin .f noLimit d a b k s
/-- VFDOT_O (R234) -/
def execVfdotO (d : GReg) (a b : VReg) (c : BitVec 4) (k : VMask) (s : State) : Result := 
  issueVec s .vfdotO ⟨d, a, b, c, k⟩ ⟨none, none, some (c.setWidth 5)⟩ (checkFloat .f [a, b] [] noLimit)
/-- VHKTEST (R235) -/
def execVhktest (d : MReg) (a : VReg) (k : VMask) (s : State) : Result := 
  issueVec s .vhktest ⟨d.setWidth 5, a, 0, 0, k⟩ noG (checkFloat .f32 [] [] noLimit)
/-- VHKSEL (R235) -/
def execVhksel (d a b : VReg) (k : VMask) (s : State) : Result := float3 .vhksel .f32 d a b k s
/-- VHKCNT: g[b] at most 2 (R236) -/
def execVhkcnt (d : GReg) (a : VReg) (b : GReg) (k : VMask) (s : State) : Result := 
  floatG .vhkcnt .f32 (fun _ e => decide (e.gb.toNat ≤ 2)) d a b k s
/-- VTOPK: k from 1 to 64 and VLMAX, a and d at most 30 (R237) -/
def execVtopk (d a : VReg) (b : GReg) (k : VMask) (s : State) : Result := 
  floatS .vtopk .f32 (fun y e => decide (1 ≤ e.gb.toNat) && decide (e.gb.toNat ≤ 64) && decide (e.gb.toNat ≤ vlmax y) &&
    decide (e.f.a.toNat ≤ 30) && decide (e.f.d.toNat ≤ 30)) d a b k s

end Sys2Proof.Machine
end

