-- ==== Sys2Proof/Machine/VectorIntegerArms.lean ====
section
/-! DEFINITION. The page 2 instructions as the scalar front issues them (07 R180 to R210). -/

namespace Sys2Proof.Machine

/-- VADD (R190) -/
def execVadd (d a b : VReg) (k : VMask) (s : State) : Result := int3 .vadd d a b k s
/-- VSUB (R190) -/
def execVsub (d a b : VReg) (k : VMask) (s : State) : Result := int3 .vsub d a b k s
/-- VAND (R190) -/
def execVand (d a b : VReg) (k : VMask) (s : State) : Result := int3 .vand d a b k s
/-- VOR (R190) -/
def execVor (d a b : VReg) (k : VMask) (s : State) : Result := int3 .vor d a b k s
/-- VXOR (R190) -/
def execVxor (d a b : VReg) (k : VMask) (s : State) : Result := int3 .vxor d a b k s
/-- VANDN (R190) -/
def execVandn (d a b : VReg) (k : VMask) (s : State) : Result := int3 .vandn d a b k s
/-- VMIN (R190) -/
def execVmin (d a b : VReg) (k : VMask) (s : State) : Result := int3 .vmin d a b k s
/-- VMAX (R190) -/
def execVmax (d a b : VReg) (k : VMask) (s : State) : Result := int3 .vmax d a b k s
/-- VMINU (R190) -/
def execVminu (d a b : VReg) (k : VMask) (s : State) : Result := int3 .vminu d a b k s
/-- VMAXU (R190) -/
def execVmaxu (d a b : VReg) (k : VMask) (s : State) : Result := int3 .vmaxu d a b k s
/-- VMUL (R190) -/
def execVmul (d a b : VReg) (k : VMask) (s : State) : Result := int3 .vmul d a b k s
/-- VMULH (R190) -/
def execVmulh (d a b : VReg) (k : VMask) (s : State) : Result := int3 .vmulh d a b k s
/-- VSLL (R190) -/
def execVsll (d a b : VReg) (k : VMask) (s : State) : Result := int3 .vsll d a b k s
/-- VSRL (R190) -/
def execVsrl (d a b : VReg) (k : VMask) (s : State) : Result := int3 .vsrl d a b k s
/-- VSRA (R190) -/
def execVsra (d a b : VReg) (k : VMask) (s : State) : Result := int3 .vsra d a b k s
/-- VMULHU (R190) -/
def execVmulhu (d a b : VReg) (k : VMask) (s : State) : Result := int3 .vmulhu d a b k s
/-- VSADD (R190) -/
def execVsadd (d a b : VReg) (k : VMask) (s : State) : Result := int3 .vsadd d a b k s
/-- VSSUB (R190) -/
def execVssub (d a b : VReg) (k : VMask) (s : State) : Result := int3 .vssub d a b k s
/-- VSADDU (R190) -/
def execVsaddu (d a b : VReg) (k : VMask) (s : State) : Result := int3 .vsaddu d a b k s
/-- VSSUBU (R190) -/
def execVssubu (d a b : VReg) (k : VMask) (s : State) : Result := int3 .vssubu d a b k s
/-- VMACC (R192) -/
def execVmacc (d a b : VReg) (k : VMask) (s : State) : Result := int3 .vmacc d a b k s
/-- VNMSAC (R192) -/
def execVnmsac (d a b : VReg) (k : VMask) (s : State) : Result := int3 .vnmsac d a b k s
/-- VADD_S (R191) -/
def execVaddS (d a : VReg) (b : GReg) (k : VMask) (s : State) : Result := intS .vaddS d a b k s
/-- VSUB_S (R191) -/
def execVsubS (d a : VReg) (b : GReg) (k : VMask) (s : State) : Result := intS .vsubS d a b k s
/-- VRSUB_S (R191) -/
def execVrsubS (d a : VReg) (b : GReg) (k : VMask) (s : State) : Result := intS .vrsubS d a b k s
/-- VAND_S (R191) -/
def execVandS (d a : VReg) (b : GReg) (k : VMask) (s : State) : Result := intS .vandS d a b k s
/-- VOR_S (R191) -/
def execVorS (d a : VReg) (b : GReg) (k : VMask) (s : State) : Result := intS .vorS d a b k s
/-- VXOR_S (R191) -/
def execVxorS (d a : VReg) (b : GReg) (k : VMask) (s : State) : Result := intS .vxorS d a b k s
/-- VMIN_S (R191) -/
def execVminS (d a : VReg) (b : GReg) (k : VMask) (s : State) : Result := intS .vminS d a b k s
/-- VMAX_S (R191) -/
def execVmaxS (d a : VReg) (b : GReg) (k : VMask) (s : State) : Result := intS .vmaxS d a b k s
/-- VSLL_S (R191) -/
def execVsllS (d a : VReg) (b : GReg) (k : VMask) (s : State) : Result := intS .vsllS d a b k s
/-- VSRL_S (R191) -/
def execVsrlS (d a : VReg) (b : GReg) (k : VMask) (s : State) : Result := intS .vsrlS d a b k s
/-- VSRA_S (R191) -/
def execVsraS (d a : VReg) (b : GReg) (k : VMask) (s : State) : Result := intS .vsraS d a b k s
/-- VMUL_S (R191) -/
def execVmulS (d a : VReg) (b : GReg) (k : VMask) (s : State) : Result := intS .vmulS d a b k s
/-- VMV (R194) -/
def execVmv (d a : VReg) (k : VMask) (s : State) : Result := int2 .vmv d a k s
/-- VMV_S (R194) -/
def execVmvS (d : VReg) (a : GReg) (k : VMask) (s : State) : Result := 
  issueVec s .vmvS ⟨d, a, 0, 0, k⟩ ⟨some a, none, none⟩ (checkInt [d] noLimit)
/-- VID (R194) -/
def execVid (d : VReg) (k : VMask) (s : State) : Result := 
  issueVec s .vid ⟨d, 0, 0, 0, k⟩ noG (checkInt [d] noLimit)
/-- VSEL (R195) -/
def execVsel (d a b : VReg) (k : VMask) (s : State) : Result := int3 .vsel d a b k s
/-- VNEG (R193) -/
def execVneg (d a : VReg) (k : VMask) (s : State) : Result := int2 .vneg d a k s
/-- VABS (R193) -/
def execVabs (d a : VReg) (k : VMask) (s : State) : Result := int2 .vabs d a k s
/-- VNOT (R193) -/
def execVnot (d a : VReg) (k : VMask) (s : State) : Result := int2 .vnot d a k s
/-- VPOPC (R193) -/
def execVpopc (d a : VReg) (k : VMask) (s : State) : Result := int2 .vpopc d a k s
/-- VCLZ (R193) -/
def execVclz (d a : VReg) (k : VMask) (s : State) : Result := int2 .vclz d a k s
/-- VCTZ (R193) -/
def execVctz (d a : VReg) (k : VMask) (s : State) : Result := int2 .vctz d a k s
/-- VSEXT (R181, R193) -/
def execVsext (d a : VReg) (b : BitVec 3) (k : VMask) (s : State) : Result := intN .vsext d a b k s
/-- VZEXT (R181, R193) -/
def execVzext (d a : VReg) (b : BitVec 3) (k : VMask) (s : State) : Result := intN .vzext d a b k s
/-- VCEQ (R196) -/
def execVceq (d : MReg) (a b : VReg) (k : VMask) (s : State) : Result := cmp3 .vceq d a b k s
/-- VCNE (R196) -/
def execVcne (d : MReg) (a b : VReg) (k : VMask) (s : State) : Result := cmp3 .vcne d a b k s
/-- VCLT (R196) -/
def execVclt (d : MReg) (a b : VReg) (k : VMask) (s : State) : Result := cmp3 .vclt d a b k s
/-- VCLTU (R196) -/
def execVcltu (d : MReg) (a b : VReg) (k : VMask) (s : State) : Result := cmp3 .vcltu d a b k s
/-- VCLE (R196) -/
def execVcle (d : MReg) (a b : VReg) (k : VMask) (s : State) : Result := cmp3 .vcle d a b k s
/-- VCLEU (R196) -/
def execVcleu (d : MReg) (a b : VReg) (k : VMask) (s : State) : Result := cmp3 .vcleu d a b k s
/-- VCEQ_S (R196) -/
def execVceqS (d : MReg) (a : VReg) (b : GReg) (k : VMask) (s : State) : Result := cmpS .vceqS d a b k s
/-- VCLT_S (R196) -/
def execVcltS (d : MReg) (a : VReg) (b : GReg) (k : VMask) (s : State) : Result := cmpS .vcltS d a b k s
/-- MAND (R197) -/
def execMand (d a b : MReg) (s : State) : Result := maskI .mand d a b VMask.all s
/-- MOR (R197) -/
def execMor (d a b : MReg) (s : State) : Result := maskI .mor d a b VMask.all s
/-- MXOR (R197) -/
def execMxor (d a b : MReg) (s : State) : Result := maskI .mxor d a b VMask.all s
/-- MANDN (R197) -/
def execMandn (d a b : MReg) (s : State) : Result := maskI .mandn d a b VMask.all s
/-- MNOT (R197) -/
def execMnot (d a : MReg) (s : State) : Result := maskI .mnot d a 0 VMask.all s
/-- MMV (R197) -/
def execMmv (d a : MReg) (s : State) : Result := maskI .mmv d a 0 VMask.all s
/-- MSET (R197) -/
def execMset (d : MReg) (s : State) : Result := maskI .mset d 0 0 VMask.all s
/-- MCLR (R197) -/
def execMclr (d : MReg) (s : State) : Result := maskI .mclr d 0 0 VMask.all s
/-- MPOPC (R198) -/
def execMpopc (d : GReg) (a : MReg) (k : VMask) (s : State) : Result := maskG .mpopc d a k s
/-- MFIRST (R198) -/
def execMfirst (d : GReg) (a : MReg) (k : VMask) (s : State) : Result := maskG .mfirst d a k s
/-- MSBF (R199) -/
def execMsbf (d a : MReg) (k : VMask) (s : State) : Result := maskI .msbf d a 0 k s
/-- MSIF (R199) -/
def execMsif (d a : MReg) (k : VMask) (s : State) : Result := maskI .msif d a 0 k s
/-- VSLIDEUP (R200) -/
def execVslideup (d a : VReg) (b : BitVec 3) (k : VMask) (s : State) : Result := intSlide .vslideup d a b k s
/-- VSLIDEDN (R200) -/
def execVslidedn (d a : VReg) (b : BitVec 3) (k : VMask) (s : State) : Result := intSlide .vslidedn d a b k s
/-- VSLIDEUP_S (R200) -/
def execVslideupS (d a : VReg) (b : GReg) (k : VMask) (s : State) : Result := intS .vslideupS d a b k s
/-- VSLIDEDN_S (R200) -/
def execVslidednS (d a : VReg) (b : GReg) (k : VMask) (s : State) : Result := intS .vslidednS d a b k s
/-- VXCHG (R201) -/
def execVxchg (d a : VReg) (b : GReg) (k : VMask) (s : State) : Result := intS .vxchg d a b k s
/-- VCOMPRESS (R202) -/
def execVcompress (d a : VReg) (k : VMask) (s : State) : Result := int2 .vcompress d a k s
/-- VEXPAND (R202) -/
def execVexpand (d a : VReg) (k : VMask) (s : State) : Result := int2 .vexpand d a k s
/-- VPERM (R203) -/
def execVperm (d a b : VReg) (k : VMask) (s : State) : Result := int3 .vperm d a b k s
/-- VGATH8 (R204) -/
def execVgath8 (d a b : VReg) (k : VMask) (s : State) : Result := int3 .vgath8 d a b k s
/-- VCONFLICT (R206) -/
def execVconflict (d a : VReg) (k : VMask) (s : State) : Result := int2 .vconflict d a k s
/-- VMATCH: g[c] at most 64 and VLMAX (R181, R207) -/
def execVmatch (d : MReg) (a b : VReg) (c : BitVec 4) (k : VMask) (s : State) : Result := 
  issueVec s .vmatch ⟨d.setWidth 5, a, b, c, k⟩ ⟨none, none, some (c.setWidth 5)⟩
    (checkInt [a, b] fun y e => decide (e.gc.toNat ≤ 64) && decide (e.gc.toNat ≤ vlmax y))
/-- VPROBE (R208) -/
def execVprobe (d : GReg) (a : VReg) (b : GReg) (k : VMask) (s : State) : Result := intG .vprobe d a b k s
/-- VREDSUM (R209) -/
def execVredsum (d : GReg) (a : VReg) (b : GReg) (k : VMask) (s : State) : Result := intG .vredsum d a b k s
/-- VREDMAX (R209) -/
def execVredmax (d : GReg) (a : VReg) (b : GReg) (k : VMask) (s : State) : Result := intG .vredmax d a b k s
/-- VREDMIN (R209) -/
def execVredmin (d : GReg) (a : VReg) (b : GReg) (k : VMask) (s : State) : Result := intG .vredmin d a b k s
/-- VREDMAXU (R209) -/
def execVredmaxu (d : GReg) (a : VReg) (b : GReg) (k : VMask) (s : State) : Result := intG .vredmaxu d a b k s
/-- VREDAND (R209) -/
def execVredand (d : GReg) (a : VReg) (b : GReg) (k : VMask) (s : State) : Result := intG .vredand d a b k s
/-- VREDOR (R209) -/
def execVredor (d : GReg) (a : VReg) (b : GReg) (k : VMask) (s : State) : Result := intG .vredor d a b k s
/-- VREDXOR (R209) -/
def execVredxor (d : GReg) (a : VReg) (b : GReg) (k : VMask) (s : State) : Result := intG .vredxor d a b k s
/-- VREDMINU (R209) -/
def execVredminu (d : GReg) (a : VReg) (b : GReg) (k : VMask) (s : State) : Result := intG .vredminu d a b k s

end Sys2Proof.Machine
end

