-- ==== Sys2Proof/Machine/Dispatch.lean ====
section
/-! DEFINITION. One arm per instruction and event, each one direct call of its meaning. -/

namespace Sys2Proof.Machine

/-- What instruction or event `i` does in state `s`. -/
def exec (i : Instr) (s : State) : Host.Outcome State Fault Refusal :=
  match i with
  | .add d a b => Sys2Proof.Machine.execAdd d a b s
  | .sub d a b => Sys2Proof.Machine.execSub d a b s
  | .and d a b => Sys2Proof.Machine.execAnd d a b s
  | .or d a b => Sys2Proof.Machine.execOr d a b s
  | .xor d a b => Sys2Proof.Machine.execXor d a b s
  | .andn d a b => Sys2Proof.Machine.execAndn d a b s
  | .sll d a b => Sys2Proof.Machine.execSll d a b s
  | .srl d a b => Sys2Proof.Machine.execSrl d a b s
  | .sra d a b => Sys2Proof.Machine.execSra d a b s
  | .rol d a b => Sys2Proof.Machine.execRol d a b s
  | .slt d a b => Sys2Proof.Machine.execSlt d a b s
  | .sltu d a b => Sys2Proof.Machine.execSltu d a b s
  | .min d a b => Sys2Proof.Machine.execMin d a b s
  | .max d a b => Sys2Proof.Machine.execMax d a b s
  | .minu d a b => Sys2Proof.Machine.execMinu d a b s
  | .maxu d a b => Sys2Proof.Machine.execMaxu d a b s
  | .mul d a b => Sys2Proof.Machine.execMul d a b s
  | .mulh d a b => Sys2Proof.Machine.execMulh d a b s
  | .mulhu d a b => Sys2Proof.Machine.execMulhu d a b s
  | .cmov d a b => Sys2Proof.Machine.execCmov d a b s
  | .div d a b => Sys2Proof.Machine.execDiv d a b s
  | .divu d a b => Sys2Proof.Machine.execDivu d a b s
  | .rem d a b => Sys2Proof.Machine.execRem d a b s
  | .remu d a b => Sys2Proof.Machine.execRemu d a b s
  | .clz d a => Sys2Proof.Machine.execClz d a s
  | .ctz d a => Sys2Proof.Machine.execCtz d a s
  | .popc d a => Sys2Proof.Machine.execPopc d a s
  | .bswap d a => Sys2Proof.Machine.execBswap d a s
  | .sextb d a => Sys2Proof.Machine.execSextb d a s
  | .sexth d a => Sys2Proof.Machine.execSexth d a s
  | .sextw d a => Sys2Proof.Machine.execSextw d a s
  | .jalr d a => Sys2Proof.Machine.execJalr d a s
  | .addi d a imm => Sys2Proof.Machine.execAddi d a imm s
  | .andi d a imm => Sys2Proof.Machine.execAndi d a imm s
  | .ori d a imm => Sys2Proof.Machine.execOri d a imm s
  | .xori d a imm => Sys2Proof.Machine.execXori d a imm s
  | .slli d a sh => Sys2Proof.Machine.execSlli d a sh s
  | .srli d a sh => Sys2Proof.Machine.execSrli d a sh s
  | .srai d a sh => Sys2Proof.Machine.execSrai d a sh s
  | .lea d a b sh => Sys2Proof.Machine.execLea d a b sh s
  | .li d imm => Sys2Proof.Machine.execLi d imm s
  | .lih d imm => Sys2Proof.Machine.execLih d imm s
  | .ldb d a off => Sys2Proof.Machine.execLdb d a off s
  | .ldbu d a off => Sys2Proof.Machine.execLdbu d a off s
  | .ldh d a off => Sys2Proof.Machine.execLdh d a off s
  | .ldhu d a off => Sys2Proof.Machine.execLdhu d a off s
  | .ldw d a off => Sys2Proof.Machine.execLdw d a off s
  | .ldwu d a off => Sys2Proof.Machine.execLdwu d a off s
  | .ldd d a off => Sys2Proof.Machine.execLdd d a off s
  | .stb d a off => Sys2Proof.Machine.execStb d a off s
  | .sth d a off => Sys2Proof.Machine.execSth d a off s
  | .stw d a off => Sys2Proof.Machine.execStw d a off s
  | .std d a off => Sys2Proof.Machine.execStd d a off s
  | .lacq d a p z => Sys2Proof.Machine.execLacq d a p z s
  | .srel d a p z => Sys2Proof.Machine.execSrel d a p z s
  | .fenceFull p => Sys2Proof.Machine.execFenceFull p s
  | .fenceAcq p => Sys2Proof.Machine.execFenceAcq p s
  | .fenceRel p => Sys2Proof.Machine.execFenceRel p s
  | .fenceFlush p => Sys2Proof.Machine.execFenceFlush p s
  | .beq a b disp => Sys2Proof.Machine.execBeq a b disp s
  | .bne a b disp => Sys2Proof.Machine.execBne a b disp s
  | .blt a b disp => Sys2Proof.Machine.execBlt a b disp s
  | .bge a b disp => Sys2Proof.Machine.execBge a b disp s
  | .bltu a b disp => Sys2Proof.Machine.execBltu a b disp s
  | .bgeu a b disp => Sys2Proof.Machine.execBgeu a b disp s
  | .j disp => Sys2Proof.Machine.execJ disp s
  | .jal disp => Sys2Proof.Machine.execJal disp s
  | .mfk d x => Sys2Proof.Machine.execMfk d x s
  | .mtk d x => Sys2Proof.Machine.execMtk d x s
  | .sysNop n => Sys2Proof.Machine.execSysNop n s
  | .trap n => Sys2Proof.Machine.execTrap n s
  | .brk n => Sys2Proof.Machine.execBrk n s
  | .rett n => Sys2Proof.Machine.execRett n s
  | .yield n => Sys2Proof.Machine.execYield n s
  | .idle n => Sys2Proof.Machine.execIdle n s
  | .wait l st c t => Sys2Proof.Machine.execWait l st c t s
  | .cwb d a b => Sys2Proof.Machine.execCwb d a b s
  | .cinv d a b => Sys2Proof.Machine.execCinv d a b s
  | .cflush d a b => Sys2Proof.Machine.execCflush d a b s
  | .cprefetch d a b => Sys2Proof.Machine.execCprefetch d a b s
  | .tlbi a b => Sys2Proof.Machine.execTlbi a b s
  | .tlbia b => Sys2Proof.Machine.execTlbia b s
  | .tlbsync => Sys2Proof.Machine.execTlbsync s
  | .vset d a b => Sys2Proof.Machine.execVset d a b s
  | .vsetk d a => Sys2Proof.Machine.execVsetk d a s
  | .vadd d a b k => Sys2Proof.Machine.execVadd d a b k s
  | .vsub d a b k => Sys2Proof.Machine.execVsub d a b k s
  | .vand d a b k => Sys2Proof.Machine.execVand d a b k s
  | .vor d a b k => Sys2Proof.Machine.execVor d a b k s
  | .vxor d a b k => Sys2Proof.Machine.execVxor d a b k s
  | .vandn d a b k => Sys2Proof.Machine.execVandn d a b k s
  | .vmin d a b k => Sys2Proof.Machine.execVmin d a b k s
  | .vmax d a b k => Sys2Proof.Machine.execVmax d a b k s
  | .vminu d a b k => Sys2Proof.Machine.execVminu d a b k s
  | .vmaxu d a b k => Sys2Proof.Machine.execVmaxu d a b k s
  | .vmul d a b k => Sys2Proof.Machine.execVmul d a b k s
  | .vmulh d a b k => Sys2Proof.Machine.execVmulh d a b k s
  | .vsll d a b k => Sys2Proof.Machine.execVsll d a b k s
  | .vsrl d a b k => Sys2Proof.Machine.execVsrl d a b k s
  | .vsra d a b k => Sys2Proof.Machine.execVsra d a b k s
  | .vmulhu d a b k => Sys2Proof.Machine.execVmulhu d a b k s
  | .vsadd d a b k => Sys2Proof.Machine.execVsadd d a b k s
  | .vssub d a b k => Sys2Proof.Machine.execVssub d a b k s
  | .vsaddu d a b k => Sys2Proof.Machine.execVsaddu d a b k s
  | .vssubu d a b k => Sys2Proof.Machine.execVssubu d a b k s
  | .vmacc d a b k => Sys2Proof.Machine.execVmacc d a b k s
  | .vnmsac d a b k => Sys2Proof.Machine.execVnmsac d a b k s
  | .vaddS d a b k => Sys2Proof.Machine.execVaddS d a b k s
  | .vsubS d a b k => Sys2Proof.Machine.execVsubS d a b k s
  | .vrsubS d a b k => Sys2Proof.Machine.execVrsubS d a b k s
  | .vandS d a b k => Sys2Proof.Machine.execVandS d a b k s
  | .vorS d a b k => Sys2Proof.Machine.execVorS d a b k s
  | .vxorS d a b k => Sys2Proof.Machine.execVxorS d a b k s
  | .vminS d a b k => Sys2Proof.Machine.execVminS d a b k s
  | .vmaxS d a b k => Sys2Proof.Machine.execVmaxS d a b k s
  | .vsllS d a b k => Sys2Proof.Machine.execVsllS d a b k s
  | .vsrlS d a b k => Sys2Proof.Machine.execVsrlS d a b k s
  | .vsraS d a b k => Sys2Proof.Machine.execVsraS d a b k s
  | .vmulS d a b k => Sys2Proof.Machine.execVmulS d a b k s
  | .vmv d a k => Sys2Proof.Machine.execVmv d a k s
  | .vmvS d a k => Sys2Proof.Machine.execVmvS d a k s
  | .vid d k => Sys2Proof.Machine.execVid d k s
  | .vsel d a b k => Sys2Proof.Machine.execVsel d a b k s
  | .vneg d a k => Sys2Proof.Machine.execVneg d a k s
  | .vabs d a k => Sys2Proof.Machine.execVabs d a k s
  | .vnot d a k => Sys2Proof.Machine.execVnot d a k s
  | .vpopc d a k => Sys2Proof.Machine.execVpopc d a k s
  | .vclz d a k => Sys2Proof.Machine.execVclz d a k s
  | .vctz d a k => Sys2Proof.Machine.execVctz d a k s
  | .vsext d a b k => Sys2Proof.Machine.execVsext d a b k s
  | .vzext d a b k => Sys2Proof.Machine.execVzext d a b k s
  | .vceq d a b k => Sys2Proof.Machine.execVceq d a b k s
  | .vcne d a b k => Sys2Proof.Machine.execVcne d a b k s
  | .vclt d a b k => Sys2Proof.Machine.execVclt d a b k s
  | .vcltu d a b k => Sys2Proof.Machine.execVcltu d a b k s
  | .vcle d a b k => Sys2Proof.Machine.execVcle d a b k s
  | .vcleu d a b k => Sys2Proof.Machine.execVcleu d a b k s
  | .vceqS d a b k => Sys2Proof.Machine.execVceqS d a b k s
  | .vcltS d a b k => Sys2Proof.Machine.execVcltS d a b k s
  | .mand d a b => Sys2Proof.Machine.execMand d a b s
  | .mor d a b => Sys2Proof.Machine.execMor d a b s
  | .mxor d a b => Sys2Proof.Machine.execMxor d a b s
  | .mandn d a b => Sys2Proof.Machine.execMandn d a b s
  | .mnot d a => Sys2Proof.Machine.execMnot d a s
  | .mmv d a => Sys2Proof.Machine.execMmv d a s
  | .mset d => Sys2Proof.Machine.execMset d s
  | .mclr d => Sys2Proof.Machine.execMclr d s
  | .mpopc d a k => Sys2Proof.Machine.execMpopc d a k s
  | .mfirst d a k => Sys2Proof.Machine.execMfirst d a k s
  | .msbf d a k => Sys2Proof.Machine.execMsbf d a k s
  | .msif d a k => Sys2Proof.Machine.execMsif d a k s
  | .vslideup d a b k => Sys2Proof.Machine.execVslideup d a b k s
  | .vslidedn d a b k => Sys2Proof.Machine.execVslidedn d a b k s
  | .vslideupS d a b k => Sys2Proof.Machine.execVslideupS d a b k s
  | .vslidednS d a b k => Sys2Proof.Machine.execVslidednS d a b k s
  | .vxchg d a b k => Sys2Proof.Machine.execVxchg d a b k s
  | .vcompress d a k => Sys2Proof.Machine.execVcompress d a k s
  | .vexpand d a k => Sys2Proof.Machine.execVexpand d a k s
  | .vperm d a b k => Sys2Proof.Machine.execVperm d a b k s
  | .vgath8 d a b k => Sys2Proof.Machine.execVgath8 d a b k s
  | .vconflict d a k => Sys2Proof.Machine.execVconflict d a k s
  | .vmatch d a b c k => Sys2Proof.Machine.execVmatch d a b c k s
  | .vprobe d a b k => Sys2Proof.Machine.execVprobe d a b k s
  | .vredsum d a b k => Sys2Proof.Machine.execVredsum d a b k s
  | .vredmax d a b k => Sys2Proof.Machine.execVredmax d a b k s
  | .vredmin d a b k => Sys2Proof.Machine.execVredmin d a b k s
  | .vredmaxu d a b k => Sys2Proof.Machine.execVredmaxu d a b k s
  | .vredand d a b k => Sys2Proof.Machine.execVredand d a b k s
  | .vredor d a b k => Sys2Proof.Machine.execVredor d a b k s
  | .vredxor d a b k => Sys2Proof.Machine.execVredxor d a b k s
  | .vredminu d a b k => Sys2Proof.Machine.execVredminu d a b k s
  | .vfadd d a b k => Sys2Proof.Machine.execVfadd d a b k s
  | .vfsub d a b k => Sys2Proof.Machine.execVfsub d a b k s
  | .vfmul d a b k => Sys2Proof.Machine.execVfmul d a b k s
  | .vfdiv d a b k => Sys2Proof.Machine.execVfdiv d a b k s
  | .vfmin d a b k => Sys2Proof.Machine.execVfmin d a b k s
  | .vfmax d a b k => Sys2Proof.Machine.execVfmax d a b k s
  | .vfsgnj d a b k => Sys2Proof.Machine.execVfsgnj d a b k s
  | .vfsqrt d a k => Sys2Proof.Machine.execVfsqrt d a k s
  | .vfma d a b c k => Sys2Proof.Machine.execVfma d a b c k s
  | .vfms d a b c k => Sys2Proof.Machine.execVfms d a b c k s
  | .vfnma d a b c k => Sys2Proof.Machine.execVfnma d a b c k s
  | .vfnms d a b c k => Sys2Proof.Machine.execVfnms d a b c k s
  | .vfaddS d a b k => Sys2Proof.Machine.execVfaddS d a b k s
  | .vfsubS d a b k => Sys2Proof.Machine.execVfsubS d a b k s
  | .vfmulS d a b k => Sys2Proof.Machine.execVfmulS d a b k s
  | .vfrsubS d a b k => Sys2Proof.Machine.execVfrsubS d a b k s
  | .vfabs d a k => Sys2Proof.Machine.execVfabs d a k s
  | .vfneg d a k => Sys2Proof.Machine.execVfneg d a k s
  | .vfclass d a k => Sys2Proof.Machine.execVfclass d a k s
  | .vfround d a k => Sys2Proof.Machine.execVfround d a k s
  | .vfceq d a b k => Sys2Proof.Machine.execVfceq d a b k s
  | .vfclt d a b k => Sys2Proof.Machine.execVfclt d a b k s
  | .vfcle d a b k => Sys2Proof.Machine.execVfcle d a b k s
  | .vfcun d a b k => Sys2Proof.Machine.execVfcun d a b k s
  | .vfcvt d a b k => Sys2Proof.Machine.execVfcvt d a b k s
  | .vf2i d a b k => Sys2Proof.Machine.execVf2i d a b k s
  | .vi2f d a b k => Sys2Proof.Machine.execVi2f d a b k s
  | .vf2iT d a b k => Sys2Proof.Machine.execVf2iT d a b k s
  | .vqamax d a b k => Sys2Proof.Machine.execVqamax d a b k s
  | .vqscale d a b => Sys2Proof.Machine.execVqscale d a b s
  | .vqpack d a b => Sys2Proof.Machine.execVqpack d a b s
  | .vqunpack d a b k => Sys2Proof.Machine.execVqunpack d a b k s
  | .vfwht d a b => Sys2Proof.Machine.execVfwht d a b s
  | .vsfu d a b k => Sys2Proof.Machine.execVsfu d a b k s
  | .vfredsumO d a b k => Sys2Proof.Machine.execVfredsumO d a b k s
  | .vfredsumT d a b k => Sys2Proof.Machine.execVfredsumT d a b k s
  | .vfredmax d a b k => Sys2Proof.Machine.execVfredmax d a b k s
  | .vfredmin d a b k => Sys2Proof.Machine.execVfredmin d a b k s
  | .vfdotO d a b c k => Sys2Proof.Machine.execVfdotO d a b c k s
  | .vhktest d a k => Sys2Proof.Machine.execVhktest d a k s
  | .vhksel d a b k => Sys2Proof.Machine.execVhksel d a b k s
  | .vhkcnt d a b k => Sys2Proof.Machine.execVhkcnt d a b k s
  | .vtopk d a b k => Sys2Proof.Machine.execVtopk d a b k s
  | .fadd d a b => Sys2Proof.Machine.execFadd d a b s
  | .fsub d a b => Sys2Proof.Machine.execFsub d a b s
  | .fmul d a b => Sys2Proof.Machine.execFmul d a b s
  | .fdiv d a b => Sys2Proof.Machine.execFdiv d a b s
  | .fma d a b => Sys2Proof.Machine.execFma d a b s
  | .fmin d a b => Sys2Proof.Machine.execFmin d a b s
  | .fmax d a b => Sys2Proof.Machine.execFmax d a b s
  | .fsqrt d a => Sys2Proof.Machine.execFsqrt d a s
  | .fceq d a b => Sys2Proof.Machine.execFceq d a b s
  | .fclt d a b => Sys2Proof.Machine.execFclt d a b s
  | .fcle d a b => Sys2Proof.Machine.execFcle d a b s
  | .fcvt d a b => Sys2Proof.Machine.execFcvt d a b s
  | .f2i d a => Sys2Proof.Machine.execF2i d a s
  | .i2f d a => Sys2Proof.Machine.execI2f d a s
  | .fclass d a => Sys2Proof.Machine.execFclass d a s
  | .fabs d a => Sys2Proof.Machine.execFabs d a s
  | .fcadapt d a => Sys2Proof.Machine.execFcadapt d a s
  | .vld d a b k => Sys2Proof.Machine.execVld d a b k s
  | .vst d a b k => Sys2Proof.Machine.execVst d a b k s
  | .vlds d a b k => Sys2Proof.Machine.execVlds d a b k s
  | .vsts d a b k => Sys2Proof.Machine.execVsts d a b k s
  | .vldx d a b k => Sys2Proof.Machine.execVldx d a b k s
  | .vstx d a b k => Sys2Proof.Machine.execVstx d a b k s
  | .vldff d a k => Sys2Proof.Machine.execVldff d a k s
  | .vstxa d a b c k => Sys2Proof.Machine.execVstxa d a b c k s
  | .vldw d a b c k => Sys2Proof.Machine.execVldw d a b c k s
  | .vldrow d a b k => Sys2Proof.Machine.execVldrow d a b k s
  | .vstrow d a b k => Sys2Proof.Machine.execVstrow d a b k s
  | .vamorow d a b c k => Sys2Proof.Machine.execVamorow d a b c k s
  | .vldsync d a b c k => Sys2Proof.Machine.execVldsync d a b c k s
  | .pload d a b => Sys2Proof.Machine.execPload d a b s
  | .prow a b => Sys2Proof.Machine.execProw a b s
  | .mma d a k => Sys2Proof.Machine.execMma d a k s
  | .mmav d a k => Sys2Proof.Machine.execMmav d a k s
  | .pgang a => Sys2Proof.Machine.execPgang a s
  | .vdcfg a => Sys2Proof.Machine.execVdcfg a s
  | .pbnd a b => Sys2Proof.Machine.execPbnd a b s
  | .ptree d a => Sys2Proof.Machine.execPtree d a s
  | .tmma d a b => Sys2Proof.Machine.execTmma d a b s
  | .tzero d => Sys2Proof.Machine.execTzero d s
  | .tld d a => Sys2Proof.Machine.execTld d a s
  | .tst d a => Sys2Proof.Machine.execTst d a s
  | .tacc d a b => Sys2Proof.Machine.execTacc d a b s
  | .trow d a b => Sys2Proof.Machine.execTrow d a b s
  | .fork d a b => Sys2Proof.Machine.execFork d a b s
  | .join a => Sys2Proof.Machine.execJoin a s
  | .retire => Sys2Proof.Machine.execRetire s
  | .launch d a => Sys2Proof.Machine.execLaunch d a s
  | .curtain a b => Sys2Proof.Machine.execCurtain a b s
  | .curtainx d a b => Sys2Proof.Machine.execCurtainx d a b s
  | .prodctlQuery d a b => Sys2Proof.Machine.execProdctlQuery d a b s
  | .prodctlShare d a b => Sys2Proof.Machine.execProdctlShare d a b s
  | .prodctlPause d a b => Sys2Proof.Machine.execProdctlPause d a b s
  | .prodctlResume d a b => Sys2Proof.Machine.execProdctlResume d a b s
  | .prodctlKill d a b => Sys2Proof.Machine.execProdctlKill d a b s
  | .prodctlGrant d a b => Sys2Proof.Machine.execProdctlGrant d a b s
  | .prodctlPreempt d a b => Sys2Proof.Machine.execProdctlPreempt d a b s
  | .qbind d a b => Sys2Proof.Machine.execQbind d a b s
  | .vacq d a => Sys2Proof.Machine.execVacq d a s
  | .vrel => Sys2Proof.Machine.execVrel s
  | .boost d a => Sys2Proof.Machine.execBoost d a s
  | .lde d a => Sys2Proof.Machine.execLde d a s
  | .ldf d a => Sys2Proof.Machine.execLdf d a s
  | .stf d a => Sys2Proof.Machine.execStf d a s
  | .ste d a => Sys2Proof.Machine.execSte d a s
  | .feq d a => Sys2Proof.Machine.execFeq d a s
  | .fefill a => Sys2Proof.Machine.execFefill a s
  | .feclr a => Sys2Proof.Machine.execFeclr a s
  | .amoadd d a p z => Sys2Proof.Machine.execAmoadd d a p z s
  | .amoswap d a p z => Sys2Proof.Machine.execAmoswap d a p z s
  | .amomax d a p z => Sys2Proof.Machine.execAmomax d a p z s
  | .amomin d a p z => Sys2Proof.Machine.execAmomin d a p z s
  | .amoand d a p z => Sys2Proof.Machine.execAmoand d a p z s
  | .amoor d a p z => Sys2Proof.Machine.execAmoor d a p z s
  | .amocas d a p z => Sys2Proof.Machine.execAmocas d a p z s
  | .cpy d a b => Sys2Proof.Machine.execCpy d a b s
  | .cpy2d d a b => Sys2Proof.Machine.execCpy2d d a b s
  | .cpyg d a b => Sys2Proof.Machine.execCpyg d a b s
  | .nmr d a b => Sys2Proof.Machine.execNmr d a b s
  | .coll d a b => Sys2Proof.Machine.execColl d a b s
  | .sfu d a b => Sys2Proof.Machine.execSfu d a b s
  | .msgs d a b => Sys2Proof.Machine.execMsgs d a b s
  | .dispatch c j => Sys2Proof.Machine.execDispatch c j s
  | .parkedRetest c j => Sys2Proof.Machine.execParkedRetest c j s
  | .yieldEnd c j => Sys2Proof.Machine.execYieldEnd c j s
  | .patienceTrap c j => Sys2Proof.Machine.execPatienceTrap c j s
  | .resultArrival c j k => Sys2Proof.Machine.execResultArrival c j k s
  | .storeDrain c j => Sys2Proof.Machine.execStoreDrain c j s
  | .trapEntry c j => Sys2Proof.Machine.execTrapEntry c j s
  | .stripStart c => Sys2Proof.Machine.execStripStart c s
  | .stripEnd c w => Sys2Proof.Machine.execStripEnd c w s
  | .entryComplete c x => Sys2Proof.Machine.execEntryComplete c x s
  | .treePass c => Sys2Proof.Machine.execTreePass c s
  | .tileStart c => Sys2Proof.Machine.execTileStart c s
  | .verdictReadReturn c x => Sys2Proof.Machine.execVerdictReadReturn c x s
  | .pinGrant c => Sys2Proof.Machine.execPinGrant c s
  | .migRewalk c j => Sys2Proof.Machine.execMigRewalk c j s
  | .mergeClose q => Sys2Proof.Machine.execMergeClose q s
  | .writeNotice n => Sys2Proof.Machine.execWriteNotice n s
  | .feRequest n => Sys2Proof.Machine.execFeRequest n s
  | .feRetry c j => Sys2Proof.Machine.execFeRetry c j s
  | .curtainHome n => Sys2Proof.Machine.execCurtainHome n s
  | .stagehandCommand c j => Sys2Proof.Machine.execStagehandCommand c j s
  | .engineOperationDone c k => Sys2Proof.Machine.execEngineOperationDone c k s
  | .sfuBatch o => Sys2Proof.Machine.execSfuBatch o s
  | .sfuResult c => Sys2Proof.Machine.execSfuResult c s
  | .productionEnd p => Sys2Proof.Machine.execProductionEnd p s
  | .preemption c j why => Sys2Proof.Machine.execPreemption c j why s
  | .sealMismatch at_ r => Sys2Proof.Machine.execSealMismatch at_ r s
  | .errorWindowExpiry r => Sys2Proof.Machine.execErrorWindowExpiry r s
  | .retselMark c grp => Sys2Proof.Machine.execRetselMark c grp s
  | .stackLevelChange die stack temp => Sys2Proof.Machine.execStackLevelChange die stack temp s
  | .powerControlTick c h => Sys2Proof.Machine.execPowerControlTick c h s
  | .pllRelock q adv => Sys2Proof.Machine.execPllRelock q adv s
  | .boostCharge q => Sys2Proof.Machine.execBoostCharge q s
  | .boostRefill hot => Sys2Proof.Machine.execBoostRefill hot s
  | .slackWindow phi t => Sys2Proof.Machine.execSlackWindow phi t s
  | .shelfFrame bytes t => Sys2Proof.Machine.execShelfFrame bytes t s
  | .nextClassRestore t => Sys2Proof.Machine.execNextClassRestore t s
  | .shedDeadline cls t => Sys2Proof.Machine.execShedDeadline cls t s
  | .dimmerBlind t => Sys2Proof.Machine.execDimmerBlind t s
  | .dimcurveWrite n x => Sys2Proof.Machine.execDimcurveWrite n x s
  | .dimblindWrite x => Sys2Proof.Machine.execDimblindWrite x s
  | .resetRelease => Sys2Proof.Machine.execResetRelease s
  | .stageComplete f => Sys2Proof.Machine.execStageComplete f s
  | .stageTimeout => Sys2Proof.Machine.execStageTimeout s
  | .mctlSvnup => Sys2Proof.Machine.execMctlSvnup s
  | .mctlReset => Sys2Proof.Machine.execMctlReset s
  | .attestation last => Sys2Proof.Machine.execAttestation last s
  | .attestationReady => Sys2Proof.Machine.execAttestationReady s
  | .mgmtRegisterWrite off x => Sys2Proof.Machine.execMgmtRegisterWrite off x s
  | .halt => Sys2Proof.Machine.execHalt s
  | .resume => Sys2Proof.Machine.execResume s
  | .stepOne stepv => Sys2Proof.Machine.execStepOne stepv s
  | .stageDoorWrite p => Sys2Proof.Machine.execStageDoorWrite p s
  | .stageDoorRead p => Sys2Proof.Machine.execStageDoorRead p s
  | .stageDoorReadresp p => Sys2Proof.Machine.execStageDoorReadresp p s
  | .stageDoorAtomic p => Sys2Proof.Machine.execStageDoorAtomic p s
  | .stageDoorMsg p => Sys2Proof.Machine.execStageDoorMsg p s
  | .stageDoorAck p => Sys2Proof.Machine.execStageDoorAck p s
  | .stageDoorNack p => Sys2Proof.Machine.execStageDoorNack p s
  | .stageDoorColl p => Sys2Proof.Machine.execStageDoorColl p s
  | .collComplete n => Sys2Proof.Machine.execCollComplete n s
  | .retransmit conn t => Sys2Proof.Machine.execRetransmit conn t s
  | .connectionLost conn t => Sys2Proof.Machine.execConnectionLost conn t s
  | .msgsBusyRetry n t => Sys2Proof.Machine.execMsgsBusyRetry n t s
  | .roceRdmaWrite r => Sys2Proof.Machine.execRoceRdmaWrite r s
  | .roceRdmaRead r => Sys2Proof.Machine.execRoceRdmaRead r s
  | .roceSend r => Sys2Proof.Machine.execRoceSend r s
  | .roceUnsupported r => Sys2Proof.Machine.execRoceUnsupported r s
  | .invalidFrame port => Sys2Proof.Machine.execInvalidFrame port s
  | .rowBufferGrant c => Sys2Proof.Machine.execRowBufferGrant c s
  | .linkRetry r => Sys2Proof.Machine.execLinkRetry r s
  | .dynamicAddressAssignment addr => Sys2Proof.Machine.execDynamicAddressAssignment addr s
  | .stageDoorKindDiscarded kind => Sys2Proof.Machine.execStageDoorKindDiscarded kind s

end Sys2Proof.Machine
end

