-- ==== Sys2Proof/Machine/Turn.lean ====
section
/-! DEFINITION. A slot's turn: its time, the test of what it is parked on, the stop that may fall due, and the fetch of its
instruction's words (02 R29 to R33, R43; 04 R91, R123; 12 R328; 19 R473). -/

namespace Sys2Proof.Machine

/-- Slot `n`'s turn comes, and the slot acts. -/
def startTurn (s : State) (n : Nat) : State := { takeTurn s n with cur := n, ir := [] }

/-- A slot's condition tested at its turn; a yield that is over ends; a slot whose context is about to freeze tests nothing (R91, R152,
R424). -/
def testTurn (s : State) (n : Nat) : State :=
  if (slotAt s n).freezing.isSome then s else
  match (slotAt s n).st with
  | .parked (.yieldUntil t) =>
    if t ≤ cycleOf s (slotCore n) then setSlot s n { slotAt s n with st := .ready } else s
  | .parked _ => retest s n
  | _ => s

/-! Fetch (R32, R43, R328). -/

/-- Lines of a core's instruction cache. -/
def icacheLines : Nat := 1024

/-- A line filled into the core's instruction cache from its L2 or its home, by the fill of this number (R328, R329). -/
def fillCode (s : State) (c line stamp : Nat) : State :=
  let s := readLine s c line true
  let x := coreAt s c
  setCore s c { x with icache := (⟨line, coreBytes s c (line * 32) 32, stamp⟩ :: x.icache).take icacheLines, fills := stamp + 1 }

/-- The core's instruction-cache line that holds an address, filled where it is absent, with the fill that brought it (R328). -/
def fetchLine (s : State) (c pa : Nat) : (List Byte × Nat) × State :=
  let find (s : State) : Option ILine := (coreAt s c).icache.find? fun l => l.line == lineOf pa
  match find s with
  | some l => ((l.data, l.stamp), s)
  | none =>
    let n := (coreAt s c).fills
    let s := fillCode s c (lineOf pa) n
    (((find s).elim [] (·.data), n), s)

/-- What the fetch of one word gives: the word, and its line with the fill that brought it. -/
inductive FetchedWord where
  | word (w : Half) (line : Nat × Nat) (s : State)
  | stop (s : State)
  deriving DecidableEq, Repr

/-- One word fetched by the acting slot, with the handler's privilege where it is parked in the handler's `retire` (R427). A word in
the near window or in an aperture, one that does not translate or may not be executed, gives the fetch fault, and a poisoned one the
seal fault (R32, R316, R437). -/
def fetchWord (s : State) (ea : Word) : FetchedWord :=
  let x := me s
  if isNear ea then .stop (takeTrap s 1 ea) else
  match checkAddr s (myCore s) x.prodid x.sup (isUser x && !x.retiring) needX ea with
  | (.ok (.phys pa) _, s) =>
    if isAperture pa then .stop (takeTrap s 1 ea)
    else if coreLinePoisoned s (myCore s) pa then .stop (takeTrap s 9 ea)
    else
      let ((bs, n), s) := fetchLine s (myCore s) pa
      .word (BitVec.ofNat 16 (leNat ((bs.drop (pa % 32)).take 2))) (lineOf pa, n) s
  | (.ok (.scratch _ _ _) _, s) => .stop (takeTrap s 1 ea)
  | (.trap cause, s) => .stop (takeTrap (if cause = 8 then walkRecord s ea else s) 1 ea)
  | (.migrating, s) => .stop (park s (.migrating ea (cycleOf s (myCore s) + 256)))

/-- What a fetch gives: the words up to a base word or to one that ends decoding, or a stop (R43). -/
inductive Fetched where
  | words (ws : List Half) (s : State)
  | stop (s : State)
  deriving DecidableEq, Repr

/-- Words from `ea` on, after the prefixes `p`, with the lines they came from, each as one fill brought it; at most `fuel` of them
(R29, R43). -/
def fetchFrom (fuel : Nat) (p : Prefixes) (s : State) (ea : Word) (ws : List Half) (ls : List (Nat × Nat)) :
    Fetched × List (Nat × Nat) :=
  match fuel with
  | 0 => (.words ws s, ls)
  | fuel + 1 =>
    match fetchWord s ea with
    | .stop s => (.stop s, ls)
    | .word w l s =>
      let ls := if ls.contains l then ls else ls ++ [l]
      if isPrefixWord w then
        match addPrefix p w with
        | some p => fetchFrom fuel p s (ea + 2) (ws ++ [w]) ls
        | none => (.words (ws ++ [w]) s, ls)
      else (.words (ws ++ [w]) s, ls)

/-- Whether an instruction's lines may show two moments: one is homed on another die, whose directory does not drop the core's copies,
and they were read as different fills brought them (R328). -/
def mixedLines (c : Nat) (ls : List (Nat × Nat)) : Bool :=
  ls.any (fun l => isRemote c (l.1 * 32)) && decide (1 < (ls.map (·.2)).eraseDups.length)

/-- Whether an engine owns one of an instruction's lines: the fetch waits until it has written it (R33, R373, R378). -/
def codeHeld (s : State) (ls : List (Nat × Nat)) : Bool := ls.any fun l => engineOwns s (.phys (l.1 * 32)) 32

/-- Lines taken anew from their homes at one moment, the core's own writes to them made there first (R33, R328). -/
def fetchTogether (s : State) (c : Nat) (ls : List Nat) : State :=
  let s := writeBackLines s c ls
  let s := setCore s c (forgetLines (coreAt s c) ls.contains)
  let n := (coreAt s c).fills
  ls.foldl (fun s l => fillCode s c l n) s

/-- The acting slot's instruction fetched, one that spans two lines from both as they stood at one moment; one that lies on a line that
an engine owns is fetched at a later turn (R29, R30, R33, R328, R378). -/
def fetch (s : State) : Fetched :=
  match fetchFrom 5 noPrefixes s (me s).pc [] [] with
  | (.words ws t, ls) =>
    if codeHeld s ls then .stop s
    else if mixedLines (myCore s) ls then
      (fetchFrom 5 noPrefixes (fetchTogether t (myCore s) (ls.map (·.1)).eraseDups) (me s).pc [] []).1
    else .words ws t
  | (f, _) => f

/-- The address of the `k`-th word of the acting slot's instruction. -/
def wordAddr (s : State) (k : Nat) : Word := (me s).pc + BitVec.ofNat 64 (2 * k)

/-- The words of the instruction about to issue are in the register. -/
def issuing (s : State) (ws : List Half) (n : Nat) : State := { s with ir := ws.take n }

/-- What follows a slot's instruction in its turn: the patience trap where it is due, and a STEP's stop (R123, R474). -/
def endTurn (s : State) (n : Nat) : State := afterTurn (patienceDue s n) n

/-- A result with what follows it. -/
def thenEnd (n : Nat) : Result → Result
  | .next s => .next (endTurn s n)
  | r => r

end Sys2Proof.Machine
end

