-- ==== Sys2Proof/Machine/Schedule.lean ====
section
/-! DEFINITION. Which event comes next where the agenda names none: one schedule of the many the spec allows (log 5). Events
that can happen now come first, in the order listed here; then the slot turn or the end of work that is next in local time;
and with nothing left to do, a microsecond of physical time passes. -/

namespace Sys2Proof.Machine

/-- What happens next. -/
inductive Pick where
  | stage
  | trapEntry (c i : Nat)
  | entryComplete (c x : Nat)
  | resultArrival (c i : Nat)
  | storeDrain (c i : Nat)
  | feRequest
  | feRetry (c i : Nat)
  | curtainHome
  | preemption (c i : Nat) (why : PreWhy)
  | stagehandCommand (c i : Nat)
  | engineDone (c n : Nat)
  | collComplete (n : Nat)
  | sfuBatch (o : Nat)
  | sfuResult (c : Nat)
  | writeNotice
  | pinGrant (c : Nat)
  | rowBufferGrant (c : Nat)
  | verdictReadReturn (c x : Nat)
  | stripEnd (c w : Nat)
  | treePass (c : Nat)
  | tileStart (c : Nat)
  | stripStart (c : Nat)
  | productionEnd (p : Nat)
  | dispatch (c i : Nat)
  | attestationReady
  | mergeClose (q : Nat)
  | windowExpiry (r : Resource)
  | retransmit (n : Nat)
  | connectionLost (n : Nat)
  | busyRetry (n : Nat)
  | dimmerBlind
  | shedDeadline (cls : Nat)
  | classRestore
  | boostRefill
  | boostCharge (q : Nat)
  | pllRelock (q : Nat)
  | heldArrival (n : Nat)
  | deferred
  | turn (n : Nat)
  | tick (q t : Nat)
  | until_ (t : Nat)
  | pass
  deriving DecidableEq, Repr

/-- A microsecond of physical time: 2,500 cycles at the full clock (R9, R130). -/
def passTime (s : State) : State :=
  { s with now := s.now + 1, clusters := s.clusters.map fun (q, x) => (q, { x with cycle := x.cycle + 2500 }) }

/-- What bring-up finds where the agenda says nothing: no defect, and no shelf port (log 5). -/
def noDefects : StageFind := ⟨0, [], [], [], false, 0⟩

/-- What an event of the schedule does; a slot's turn is the step's own, and changes nothing here. -/
def runPick (p : Pick) (s : State) : Result :=
  match p with
  | .stage => execStageComplete noDefects s
  | .trapEntry c i => execTrapEntry c i s
  | .entryComplete c x => execEntryComplete c x s
  | .resultArrival c i => execResultArrival c i 0 s
  | .storeDrain c i => execStoreDrain c i s
  | .feRequest => execFeRequest 0 s
  | .feRetry c i => execFeRetry c i s
  | .curtainHome => execCurtainHome 0 s
  | .preemption c i why => execPreemption c i why s
  | .stagehandCommand c i => execStagehandCommand c i s
  | .engineDone c n => execEngineOperationDone c n s
  | .collComplete n => execCollComplete n s
  | .sfuBatch o => execSfuBatch o s
  | .sfuResult c => execSfuResult c s
  | .writeNotice => execWriteNotice 0 s
  | .pinGrant c => execPinGrant c s
  | .rowBufferGrant c => execRowBufferGrant c s
  | .verdictReadReturn c x => execVerdictReadReturn c x s
  | .stripEnd c w => execStripEnd c w s
  | .treePass c => execTreePass c s
  | .tileStart c => execTileStart c s
  | .stripStart c => execStripStart c s
  | .productionEnd p => execProductionEnd p s
  | .dispatch c i => execDispatch c i s
  | .attestationReady => execAttestationReady s
  | .mergeClose q => execMergeClose q s
  | .windowExpiry r => execErrorWindowExpiry r s
  | .retransmit n => execRetransmit n s.now s
  | .connectionLost n => execConnectionLost n s.now s
  | .busyRetry n => execMsgsBusyRetry n s.now s
  | .dimmerBlind => execDimmerBlind s.now s
  | .shedDeadline cls => execShedDeadline cls s.now s
  | .classRestore => execNextClassRestore s.now s
  | .boostRefill => execBoostRefill false s
  | .boostCharge q => execBoostCharge q s
  | .pllRelock q => execPllRelock q 5600 s
  | .heldArrival n => takeHeld s n
  | .deferred => .next (sendDeferred s)
  | .turn _ => .next s
  | .tick q t => .next (tickTo s q t)
  | .until_ t => .next (reachTime s (2500 * t))
  | .pass => .next (passTime s)

/-- Whether an event changes anything now. -/
def moves (s : State) (p : Pick) : Bool :=
  match runPick p s with
  | .next t => t != s
  | _ => true

/-! Candidates, each from the state it needs. -/

/-- What can happen to a context: a trap that has fallen due, the end of its oldest entry. -/
def ctxPicks (e : Nat × Ctx) : List Pick :=
  let (x, y) := e
  if y.queue.isEmpty && y.trap.isNone then [] else
  (match trapDue y, y.bound with
   | some _, some i => [.trapEntry (slotCore i) (i % 16)]
   | _, _ => []) ++ [.entryComplete (ctxCore x) x]

/-- What can happen to a slot apart from its turns. -/
def slotPicks (s : State) (e : Nat × Slot) : List Pick :=
  let (n, x) := e
  let c := slotCore n
  let i := n % 16
  (if x.arrivals.isEmpty then [] else [.resultArrival c i]) ++
  (if x.sbuf.isEmpty then [] else [.storeDrain c i]) ++
  (match x.waiting with
   | .refused _ t => if t ≤ cycleOf s c then [.feRetry c i] else []
   | _ => []) ++
  (match x.st with
   | .stopped (.preempting why) _ => [.preemption c i why]
   | _ => []) ++
  (if x.freezing.isSome then [.trapEntry c i] else []) ++
  (if 4 ≤ x.qCmd.length then [.stagehandCommand c i] else [])

/-- The `mmav` that a strip is of, where it reads a verdict word (R299). -/
def verdictStrip (s : State) (t : Strip) : Bool :=
  decide (t.way < 16) && (ctxAt s t.ctx).queue.any fun e => e.seq == t.seq && e.op == .mmav && readsVerdict e

/-- What can happen on a core: engines, the unit's results, and what the prompter starts and ends. -/
def corePicks (s : State) (e : Nat × Core) : List Pick :=
  let (c, k) := e
  let busy := s.ctxs.any fun (x, y) => ctxCore x == c && !y.queue.isEmpty
  (tab k.sgOps.length 0 id).map (.engineDone c) ++
  (if k.sfuRun.isEmpty then [] else [.sfuResult c]) ++
  (if k.pinWait.isEmpty then [] else [.pinGrant c]) ++
  ((k.strips.filter (verdictStrip s)).map fun t => .verdictReadReturn c t.ctx) ++
  (k.strips.filterMap fun t => if t.endAt ≠ 0 ∧ t.endAt ≤ cycleOf s c then some (.stripEnd c t.way) else none) ++
  (if busy then [.rowBufferGrant c, .treePass c, .tileStart c, .stripStart c] else [])

/-- Octets in which a request waits for the special-function unit. -/
def sfuPicks (s : State) : List Pick :=
  let cs := (s.cores.filter fun (_, k) => !k.sfuReqs.isEmpty || !k.sfuPort.isEmpty || !k.sfuVec.isEmpty).map (·.1) ++
    (s.slots.filter fun (_, x) => !x.qSfuReq.isEmpty).map fun e => slotCore e.1
  (cs.map coreOctet).eraseDups.map .sfuBatch

/-- Whether a task waits for a slot: a packet in wings, on a board or in a spill region, or a saved task. -/
def anyWork (s : State) : Bool :=
  (s.cores.any fun (_, k) => !k.wings.isEmpty || !k.saved.isEmpty) || (s.dies.any fun (_, d) => !d.board.isEmpty) ||
  (s.prods.any fun (_, p) => p.spillSize != 0)

/-- What physical time has brought about. -/
def timePicks (s : State) : List Pick :=
  (s.door.conns.map fun (n, k) => if k.unacked.isEmpty && k.waits.isEmpty then [] else [.connectionLost n, .retransmit n]).flatten ++
  (tab s.door.busy.length 0 id).map .busyRetry ++
  (if s.dimmer.present then [.dimmerBlind] else []) ++
  (s.dimmer.shedDeadlines.map fun d => .shedDeadline d.1) ++
  (if s.dimmer.restoring.isEmpty then [] else [.classRestore]) ++
  (s.clusters.filterMap fun (q, x) => if x.merges.isEmpty then none else some (.mergeClose q)) ++
  (s.clusters.filterMap fun (q, x) => if 4096 ≤ boostRun x then some (.boostCharge q) else none) ++
  (s.errors.counts.map fun e => .windowExpiry e.1) ++
  (if s.mgmt.report.isEmpty || s.mgmt.ready then [] else [.attestationReady]) ++
  (if s.refillAt + 1000 ≤ s.now then [.boostRefill] else [])

/-- Every event that may be able to happen now, in the order preferred. -/
def eventPicks (s : State) : List Pick :=
  (s.clusters.filterMap fun (q, _) => if relocking s q then some (.pllRelock q) else none) ++
  (s.ctxs.map ctxPicks).flatten ++ (s.slots.map (slotPicks s)).flatten ++
  (if s.feReqs.isEmpty then [] else [.feRequest]) ++ (if s.curtainReqs.isEmpty then [] else [.curtainHome]) ++
  (s.cores.map (corePicks s)).flatten ++ sfuPicks s ++
  (tab s.door.held.length 0 id).map .heldArrival ++ (if s.door.deferred.isEmpty then [] else [.deferred]) ++
  (tab s.door.colls.length 0 id).map .collComplete ++ (if s.notices.isEmpty then [] else [.writeNotice]) ++
  (s.prods.filterMap fun (n, p) => if prodOver s n p then some (.productionEnd n) else none) ++ timePicks s

/-! Local time. -/

/-- Whether a parked slot's turn would come to something. -/
def parkedMoves (s : State) (n : Nat) (x : Slot) (w : ParkWhy) : Bool :=
  let t := turnTime s n
  (match w with
   | .yieldUntil u => decide (u ≤ t)
   | .migrating _ u => decide (u ≤ t)
   | .idle => false
   | .join _ => testTurn s n != s
   | .context => if x.saved then testTurn s n != s else condHolds s n
   | _ => condHolds s n) ||
  (!untimed x w && x.patience != 0 && decide (x.since.getD 0 + x.patience.toNat ≤ t))

/-- The turn of a slot that would come to something, or the later cycle at which one will, with its time. -/
def slotTime (s : State) (e : Nat × Slot) : Option (Nat × Pick) :=
  let (n, x) := e
  let q := coreCluster (slotCore n)
  if x.freezing.isSome then none else
  match x.st with
  | .ready => if stepHeld s n then none else some (turnTime s n, .turn n)
  | .parked w =>
    if parkedMoves s n x w then some (turnTime s n, .turn n)
    else
      let due := match w with
        | .yieldUntil u => [u]
        | .migrating _ u => [u]
        | _ => []
      let due := match x.waiting with
        | .refused _ t => t :: due
        | _ => due
      let due := if !untimed x w && x.patience != 0 then (x.since.getD 0 + x.patience.toNat) :: due else due
      (due.min?).map fun t => (t, .tick q t)
  | .stopped (.held _) _ => if eligibleNo s (slotCore n) x.prodid then some (turnTime s n, .dispatch (slotCore n) (n % 16)) else none
  | _ => none

/-- The next search of a core that would find work: the turn of the free slot that has its own next (R105). -/
def searchTime (s : State) (c : Nat) : Option (Nat × Pick) :=
  if !anyTask s c then none else
  let free := (tab 16 (16 * c) id).filter fun n => (slotAt s n).st == .free && !(slotAt s n).sup
  free.foldl (fun (m : Option (Nat × Pick)) n =>
    if m.all fun p => decide (turnTime s n < p.1) then some (turnTime s n, .dispatch c (n % 16)) else m) none

/-- The searches that would find work, over the cores that live productions may use (R105). -/
def searchTimes (s : State) : List (Nat × Pick) :=
  if !anyWork s then [] else
  (((s.prods.map fun (_, p) => coreSet p.cores).flatten).eraseDups).filterMap (searchTime s)

/-- The end of a strip's hook screen, where it has one still under way (R253). -/
def screenTimes (s : State) (c : Nat) (t : Strip) (at_ : Nat → Nat × Pick) : List (Nat × Pick) :=
  match (ctxAt s t.ctx).queue.find? fun e => e.seq == t.seq with
  | some e => if screens e ∧ t.way < 16 ∧ t.spent < screenBeats e then [at_ (endTime s c t.begun (screenBeats e - t.spent))] else []
  | none => []

/-- The end of work under way, the start of a strip that reads a verdict word, the rows a strip of `mma` or `mmav` writes, the end
of a screen, and the walk of a pin request, each with its time (R253, R281, R299). -/
def coreTimes (s : State) (e : Nat × Core) : List (Nat × Pick) :=
  let (c, k) := e
  let q := coreCluster c
  let at_ (t : Nat) : Nat × Pick := (t, .tick q t)
  (k.strips.map fun t =>
    (if t.endAt ≠ 0 then [at_ t.endAt] else if verdictStrip s t then [at_ t.begun] else []) ++
    (t.rows.filter fun r => decide (t.spent < r)).map (fun r => at_ (endTime s c t.begun (r - t.spent))) ++
    screenTimes s c t at_).flatten ++
  (k.pinWait.filterMap fun w => if w.until_ = 0 then none else some (at_ w.until_))

/-- When a cluster that runs at the boost clock owes its next token (R116). -/
def chargeTimes (s : State) : List (Nat × Pick) :=
  s.clusters.filterMap fun (q, x) =>
    if x.pll = 9 then let t := x.boostFrom + 4096 - x.boostCycles; some (t, .tick q t) else none

/-- The next times at which the dimmer or the boost refill acts, each as a cycle of the full clock (R407, R417 to R419). -/
def physicalTimes (s : State) : List (Nat × Pick) :=
  let d := s.dimmer
  let ts := d.shedDeadlines.map (·.2) ++ (if d.restoring.isEmpty then [] else [d.nextRestore]) ++
    (if d.present && !d.blindOn then [d.lastTime + fld d.blind 8 16 * 1000] else []) ++
    (if s.prods.isEmpty then [] else [s.refillAt + 1000])
  (ts.filter fun t => decide (s.now < t)).map fun t => (2500 * t, .until_ t)

/-- Where a pick stands among those of one cycle: turns in ascending order of their slots, a free slot's search in its own place, so
that none of them is passed over (R89, R105); all else before them. -/
def placeInCycle (p : Pick) : Nat :=
  match p with
  | .turn n => n + 1
  | .dispatch c i => 16 * c + i + 1
  | _ => 0

/-- The earliest of timed picks, by its place where two are of one cycle, the first listed where those are equal. -/
def earliest (l : List (Nat × Pick)) : Option (Nat × Pick) :=
  match l with
  | [] => none
  | p :: t =>
    match earliest t with
    | some r => if p.1 < r.1 ∨ (p.1 = r.1 ∧ placeInCycle p.2 ≤ placeInCycle r.2) then some p else some r
    | none => some p

/-- A tick that moves its cluster's time. -/
def tickMoves (s : State) (p : Nat × Pick) : Bool :=
  match p.2 with
  | .tick q t => decide ((clusterAt s q).cycle < t)
  | _ => true

/-- What happens next (log 5). -/
def nextPick (s : State) : Pick :=
  if !s.mgmt.done then .stage else
  match (eventPicks s).find? (moves s) with
  | some p => p
  | none =>
    match earliest ((s.slots.filterMap (slotTime s) ++ searchTimes s ++ (s.cores.map (coreTimes s)).flatten ++ chargeTimes s).filter
        (tickMoves s) ++ physicalTimes s) with
    | some p => p.2
    | none => .pass

end Sys2Proof.Machine
end

