-- ==== Sys2Proof/Machine/Load.lean ====
section
/-! DEFINITION. Placing an instruction where the next step fetches it, and the load that stands for bring-up and a launch
where the machine runs no task yet (log 1). -/

namespace Sys2Proof.Machine

/-- Where the loaded program starts. -/
def loadPc : Nat := 0x2000

/-- The production a load launches on core 0: one way, one context, one task (R106, R109). -/
def loadProd : Prod where
  cores := [(0, 0)]
  ways := 1
  contexts := 1
  scratchG := 0
  cls := 0
  domain := 0
  share := 1
  share0 := 1
  lright := false
  launcher := 0
  curtains := 0
  pcurtains := 0
  patience := 0
  fmtp := 0
  sclp := 0
  spillBase := 0
  spillSize := 0
  done := .phys 0
  doneFe := false
  doneEa := 0
  doneRoot := 0x100000
  donePage := none
  core0 := 0
  paused := false
  shed := false
  ending := none
  nextTask := 1

/-- The slot its task runs on, with the context bound. -/
def loadSlot : Slot := { slot0 with st := .ready, pc := BitVec.ofNat 64 loadPc, prodid := 1, vctx := some 0 }

/-- The context: the four lane groups of way 0. -/
def loadCtx : Ctx := { ctx0 with ways := [0], groups := [[0, 1, 2, 3]], bound := some 0 }

/-- The core: way 0 in compute mode, the page table's root. -/
def loadCore : Core := { core0 with ways := [(0, ⟨.compute, 1⟩)], ptroot := 0x100000 }

/-- An identity table: one 64 MiB page of address 0, with R, W, X, U and FE (R334, R335). -/
def loadMem : List Host.Cell :=
  memPutAll (memPutAll (memPutAll [] 0x100000 (leBytes 8 0x102001)) 0x102000 (leBytes 8 0x104001)) 0x104000 (leBytes 8 0x2F3)

/-- The machine with a program loaded from outside and nothing else under way. -/
def loadProgram (s : State) : State :=
  { s with
    slots := [(0, loadSlot)]
    ctxs := [(ctxNo 0 1 0, loadCtx)]
    cores := [(0, loadCore)]
    clusters := []
    dies := []
    prods := [(1, loadProd)]
    mem := loadMem
    full := []
    poisoned := []
    feReqs := []
    curtains := []
    curtainReqs := []
    notices := []
    door := State.reset.door
    dimmer := State.reset.dimmer
    errors := State.reset.errors
    mgmt := { s.mgmt with stage := 5, error := 0, done := true, report := [] }
    agenda := [] }

/-- Bytes written as the loader does: at their homes, no core keeping a copy. -/
def poke (s : State) (pa : Nat) (bs : List Byte) : State :=
  let gone (l : Nat) : Bool := decide (lineOf pa ≤ l) && decide (l ≤ lineOf (pa + bs.length))
  { s with
    mem := memPutAll s.mem pa bs
    poisoned := s.poisoned.filter fun l => !gone l
    cores := s.cores.map fun (c, x) => (c, forgetLines x gone) }

/-- Where the next step fetches, when it is the turn of a slot that issues from memory: the physical address of its pc,
the instruction's 10 bytes lying in its page. -/
def fetchPlace (s : State) : Option Nat :=
  if !s.agenda.isEmpty || !s.mgmt.done || s.mgmt.error != 0 then none else
  match nextPick s with
  | .turn n =>
    let s := testTurn (startTurn s n) n
    let x := me s
    if x.st != .ready || x.freezing.isSome || stepHeld s n || (stopBefore s n).isSome || isNear x.pc || 65526 < x.pc.toNat % 65536 then none else
    match (checkAddr s (myCore s) x.prodid x.sup (isUser x && !x.retiring) needX x.pc).1 with
    | .ok (.phys pa) _ => if isHbm pa then some pa else none
    | _ => none
  | _ => none

/-- Code placed where the next step fetches; where no slot is about to issue, a program is loaded first. -/
def placeCode (s : State) (bs : List Byte) : State :=
  match fetchPlace s with
  | some pa => poke s pa bs
  | none => poke (loadProgram s) loadPc bs

/-- Words as memory holds them (R29). -/
def codeBytes (ws : List Half) : List Byte := (ws.map fun w => leBytes 2 w.toNat).flatten

end Sys2Proof.Machine
end

