-- ==== Sys2Proof/Machine/Step.lean ====
section
/-! DEFINITION. One step of the machine: the agenda's next event, or what the schedule puts next (log 5). -/

namespace Sys2Proof.Machine

/-- The row of the opcode table that an event of the schedule is; none for a slot's turn and for time alone. -/
noncomputable def pickInstr (s : State) : Pick → Option Instr
  | .stage => some (.stageComplete noDefects)
  | .trapEntry c i => some (.trapEntry c i)
  | .entryComplete c x => some (.entryComplete c x)
  | .resultArrival c i => some (.resultArrival c i 0)
  | .storeDrain c i => some (.storeDrain c i)
  | .feRequest => some (.feRequest 0)
  | .feRetry c i => some (.feRetry c i)
  | .curtainHome => some (.curtainHome 0)
  | .preemption c i why => some (.preemption c i why)
  | .stagehandCommand c i => some (.stagehandCommand c i)
  | .engineDone c n => some (.engineOperationDone c n)
  | .collComplete n => some (.collComplete n)
  | .sfuBatch o => some (.sfuBatch o)
  | .sfuResult c => some (.sfuResult c)
  | .writeNotice => some (.writeNotice 0)
  | .pinGrant c => some (.pinGrant c)
  | .rowBufferGrant c => some (.rowBufferGrant c)
  | .verdictReadReturn c x => some (.verdictReadReturn c x)
  | .stripEnd c w => some (.stripEnd c w)
  | .treePass c => some (.treePass c)
  | .tileStart c => some (.tileStart c)
  | .stripStart c => some (.stripStart c)
  | .productionEnd p => some (.productionEnd p)
  | .dispatch c i => some (.dispatch c i)
  | .attestationReady => some .attestationReady
  | .mergeClose q => some (.mergeClose q)
  | .windowExpiry r => some (.errorWindowExpiry r)
  | .retransmit n => some (.retransmit n s.now)
  | .connectionLost n => some (.connectionLost n s.now)
  | .busyRetry n => some (.msgsBusyRetry n s.now)
  | .dimmerBlind => some (.dimmerBlind s.now)
  | .shedDeadline cls => some (.shedDeadline cls s.now)
  | .classRestore => some (.nextClassRestore s.now)
  | .boostRefill => some (.boostRefill false)
  | .boostCharge q => some (.boostCharge q)
  | .pllRelock q => some (.pllRelock q 5600)
  | .heldArrival _ => none
  | .deferred => none
  | .turn _ => none
  | .tick _ _ => none
  | .until_ _ => none
  | .pass => none

/-- The acting slot issues the instruction its words decode to, or takes the trap of words that are none (R43, R44). -/
noncomputable def runWords (s : State) (ws : List Half) : Host.Outcome State Fault Refusal :=
  match decode ws with
  | .ok i n => exec i (issuing s ws n)
  | .illegalFormat k => .next (takeTrap s 2 (wordAddr s k))
  | .illegalInstruction k => .next (takeTrap s 3 (wordAddr s k))
  | .short => .next s

/-- A ready slot fetches and issues (R89). -/
noncomputable def issueTurn (s : State) (n : Nat) : Host.Outcome State Fault Refusal :=
  match fetch s with
  | .stop t => .next (endTurn t n)
  | .words ws t => thenEnd n (runWords t ws)

/-- A slot's turn; one whose context is about to freeze lets it pass (R91, R123, R424, R473). -/
noncomputable def slotTurn (s : State) (n : Nat) : Host.Outcome State Fault Refusal :=
  let s := testTurn (startTurn s n) n
  if (slotAt s n).freezing.isSome then .next s
  else if (slotAt s n).st = .ready then
    if stepHeld s n then .next s else
    match stopBefore s n with
    | some why => .next (debugStop s n why)
    | none => issueTurn s n
  else .next (endTurn s n)

/-- One step. With bring-up stopped and nothing on the agenda the machine waits for a management write: a fault (R476). -/
noncomputable def step (s : State) : Host.Outcome State Fault Refusal :=
  match s.agenda with
  | i :: rest => exec i { s with agenda := rest }
  | [] =>
    if s.mgmt.error ≠ 0 then .fault .bringUpStopped else
    match nextPick s with
    | .turn n => slotTurn s n
    | p => match pickInstr s p with
      | some i => exec i s
      | none => runPick p s

/-- `s` with an instruction of the table placed where the next step fetches it (log 1). -/
def State.withFetchWord (s : State) (nbits w : Nat) : State := placeCode s (codeBytes (tableWords nbits w))

end Sys2Proof.Machine
end

