-- ==== Sys2Proof/Safety.lean ====
section
/-! DEFINITION. What counts as a safe run, and the words in which the statements about one instruction are made. -/

namespace Sys2Proof.Machine

/-- Memory is in its canonical form. -/
abbrev MemOk (s : State) : Prop := Memory.wf s.mem = true

/-- A run of `n` steps is safe: every step goes on, and memory stays canonical. -/
def SafeFor : Nat → State → Prop
  | 0, s => MemOk s
  | n + 1, s => MemOk s ∧ ∃ t, step s = .next t ∧ SafeFor n t

/-- The registers are ordinary ones of the acting slot: bound to no port, not pending, not poisoned (R91, R126, R438). -/
abbrev Plain (s : State) (rs : List GReg) : Prop := ∀ r ∈ rs, plainReg (me s) r = true

/-- The acting slot has issued its instruction and stands as `x` at the next one (R90). -/
def issued (s : State) (x : Slot) : State :=
  setMe s { x with st := .ready, pc := nextPc s, since := none, waiting := .none }

/-- The acting slot has issued its instruction, whose one result is `v` in g[d] (R90, R124). -/
def wrote (s : State) (d : GReg) (v : Word) : State := issued s (setG (me s) d v)

/-- The acting slot has issued a jump to `pc` and stands as `x` there (R139 to R141). -/
def jumped (s : State) (x : Slot) (pc : Word) : State :=
  setMe s { x with st := .ready, pc := pc, since := none, waiting := .none }

/-- What a frame keeps of the acting slot apart from its g registers, pc, flags, counters, buffers and state: its mode, its
task, its ports, its context, its rounding, its trap registers and its debug registers. -/
def slotRest (x : Slot) : List Word × (Bool × Bool × Bool × Bool) × List Nat × Vector (BitVec 3) 8 × Option Nat × SlotDbg :=
  ([x.handle, x.fmtp, x.sclp, x.taskid.setWidth 64, x.trappc, x.trapvc, x.trapcause, x.trapaddr, x.trapvec, x.hscratch0,
    x.hscratch1, x.saveptr, x.patience.setWidth 64, x.stalerd.setWidth 64, x.frm.setWidth 64, x.cls.setWidth 64],
   (x.sup, x.handler, x.saved, x.retiring), [x.prodid], x.qcode, x.vctx, x.dbg)

/-- Everything of the machine but its slots and what steps add around an instruction stands as it was, every byte of memory
among it. -/
def KeepsAllButSlots (s t : State) : Prop :=
  t.ctxs = s.ctxs ∧ t.cores = s.cores ∧ t.clusters = s.clusters ∧ t.dies = s.dies ∧ t.prods = s.prods ∧ t.mem = s.mem ∧
  (∀ a, memByte t.mem a = memByte s.mem a) ∧ t.full = s.full ∧ t.poisoned = s.poisoned ∧ t.feReqs = s.feReqs ∧
  t.curtains = s.curtains ∧ t.curtainReqs = s.curtainReqs ∧ t.notices = s.notices ∧ t.door = s.door ∧ t.dimmer = s.dimmer ∧
  t.errors = s.errors ∧ t.mgmt = s.mgmt

/-- Every slot but the acting one stands as it was. -/
def KeepsOtherSlots (s t : State) : Prop := ∀ i, i ≠ s.cur → slotAt t i = slotAt s i

/-- The acting slot has issued its instruction with result `v` in g[d] and floating-point flags `f` joined to FFLAGS (R72, R73, R90). -/
def wroteFlags (s : State) (d : GReg) (v : Word) (f : BitVec 6) : State :=
  issued s (addFlags (setG (me s) d v) f)

/-- The destination and the sources of an instruction that reads and writes g registers alone, its sources in the order they are
read. -/
def regForm (i : Instr) : Option (Option GReg × List GReg) :=
  match i with
  | .add d a b | .sub d a b | .and d a b | .or d a b | .xor d a b | .andn d a b | .sll d a b | .srl d a b | .sra d a b
  | .rol d a b | .slt d a b | .sltu d a b | .min d a b | .max d a b | .minu d a b | .maxu d a b | .mul d a b | .mulh d a b
  | .mulhu d a b | .div d a b | .divu d a b | .rem d a b | .remu d a b => some (some d, [a, b])
  | .cmov d a b => some (some d, [a, b, d])
  | .lea d a b _ => some (some d, [a, b])
  | .clz d a | .ctz d a | .popc d a | .bswap d a | .sextb d a | .sexth d a | .sextw d a => some (some d, [a])
  | .addi d a _ | .andi d a _ | .ori d a _ | .xori d a _ => some (some d, [a])
  | .slli d a _ | .srli d a _ | .srai d a _ => some (some d, [a])
  | .li d _ => some (some d, [])
  | .lih d _ => some (some d, [d])
  | .beq a b _ | .bne a b _ | .blt a b _ | .bge a b _ | .bltu a b _ | .bgeu a b _ => some (none, [a, b])
  | .j _ => some (none, [])
  | .fadd d a b | .fsub d a b | .fmul d a b | .fdiv d a b | .fmin d a b | .fmax d a b | .fceq d a b | .fclt d a b
  | .fcle d a b => some (some d, [a, b])
  | .fma d a b => some (some d, [a, b, d])
  | .fsqrt d a | .f2i d a | .i2f d a | .fclass d a | .fabs d a => some (some d, [a])
  | _ => none

/-- The register in the d field that an instruction of `regForm` reads as a source (R91, R126). -/
def regData (i : Instr) : List GReg :=
  match i with
  | .cmov d _ _ | .lih d _ | .fma d _ _ => [d]
  | _ => []

/-- The instructions of `regForm` that may join floating-point flags (R73, R224). -/
def joinsFlags (i : Instr) : Bool :=
  match i with
  | .fadd .. | .fsub .. | .fmul .. | .fdiv .. | .fmin .. | .fmax .. | .fceq .. | .fclt .. | .fcle .. | .fma .. | .fsqrt ..
  | .f2i .. | .i2f .. => true
  | _ => false

/-- Handles as their order allows them: none that is drawn before those that precede it are drawn in full (R408). -/
abbrev InHandleOrder (h : Handles) : Prop :=
  (h.boostOk = true → h.chOff = 0) ∧ (h.chOff ≠ 15 → h.slots = 16) ∧ (h.slots ≠ 1 → h.half = false) ∧
  (h.half = false → h.vmuDiv = 1) ∧ (h.vmuDiv ≠ 4 → h.clock = 8) ∧ h.slots ∈ [1, 2, 4, 8, 16] ∧ h.vmuDiv ∈ [1, 2, 4]

/-- The rest of the acting slot that instructions over registers leave alone: its buffers, results under way, queues and
counters (R117, R131, R144). -/
def slotTraffic (x : Slot) : List StoreEntry × List Arrival × List LateRead × List (List Word) × List Nat × List Invalidation :=
  (x.sbuf, x.arrivals, x.late, [x.qCmd, x.qStat, x.qSfuReq, x.qSfuRes], [x.outT, x.outC, x.outS, x.outL], x.invals)

/-- Nothing makes a scalar access of `n` bytes at place `l`, which its checks gave and left `u`, wait: no acquiring access,
vector access or late load before it, no engine that owns its line, and no buffered store that overlaps it (R144, R146, R351,
R378). -/
abbrev Calm (s u : State) (l : Loc) (n : Nat) : Prop :=
  acqWaits u u.cur = false ∧ unitAhead s l n = false ∧ newestOverlap (me u) l n = none ∧ loadsAhead s = false

/-- Whether core `c` holds written bytes of the line of an address that its home has still to take: an eviction or a release of
the core may write them back (R322, R324). -/
def owesHome (s : State) (c a : Nat) : Bool := (findLine (coreAt s c) (lineOf a)).any fun r => r.dirty != 0

/-- Context `x` of core `c` alone has work there: its one entry `e`, of which nothing has started; no trap is due, no strip runs and no
request for pages waits (R239, R256). -/
abbrev Alone (s : State) (c x : Nat) (e : QEntry) : Prop :=
  ctxCore x = c ∧ (s.ctxs.filter fun p => ctxCore p.1 == c && !p.2.queue.isEmpty).map (·.1) = [x] ∧ (ctxAt s x).queue = [e] ∧
  (ctxAt s x).frozen = false ∧ (ctxAt s x).trap = none ∧ (coreAt s c).strips = [] ∧ (coreAt s c).pinWait = [] ∧
  e.st = .queued ∧ e.restart = e.start

/-- The `n` bytes at `ea` lie at offset `o` of the acting slot's scratch, unpoisoned, and no engine owns a line of them (R142, R320,
R378). -/
abbrev nearBlock (s : State) (ea : Word) (o n : Nat) : Prop :=
  ea = BitVec.ofNat 64 (nearBase + o) ∧ o + n ≤ scratchSize s (myCore s) (me s).prodid ∧
  scratchSize s (myCore s) (me s).prodid ≤ 2 ^ 19 ∧ (me s).sup = false ∧
  ∀ j < n, (scratchAt s (myCore s) (me s).prodid).poison.contains ((o + j) / 32) = false ∧
    engineOwns s (.scratch (myCore s) (me s).prodid (o + j)) 1 = false

/-- The byte at a place: at its home in memory, or of scratch. -/
def placeByte (s : State) (l : Loc) : Byte :=
  match l with
  | .scratch k p o => look (scratchAt s k p).bytes o 0
  | .phys a => memByte s.mem a

/-- `n` bytes from a place on. -/
def bytesAt (s : State) (l : Loc) (n : Nat) : List Byte := (List.range n).map fun k => placeByte s (locAdd l k)

/-- `n` words of the acting slot's scratch from offset `o`. -/
def nearWords (s : State) (o n : Nat) : List Word :=
  (List.range n).map fun j => BitVec.ofNat 64 (leNat (scratchBytes s (myCore s) (me s).prodid (o + 8 * j) 8))

/-- The vector-queue entry of an instruction issued in context `k`, as it enters the queue (R238). -/
def newEntry (s : State) (k : Nat) (op : VOp) (f : F3Fields) (ga gb gc : Word) : QEntry :=
  let y := ctxAt s k
  { entry0 with
    seq := y.seq + 1
    addr := (me s).pc
    words := s.ir
    op := op
    f := f
    ga := ga
    gb := gb
    gc := gc
    vl := y.vl
    vtype := y.vtype
    start := y.vstart
    restart := y.vstart
    origin := y.vstart
    logG := y.logG
    band := y.bandIssue
    vdcfg := y.vdcfg
    seed := if readsSeed op y.vtype then readG (me s) 23 else 0
    readyAt := cyclesEnd (coreAt s (myCore s)).halfRate (cycleOf s (myCore s)) 4 }

/-- The acting slot may issue a vector-queue instruction that names the g registers `rs`: not in the handler state, a context
bound with room in its queue and no vldff in it, plain operands, and g23 too where its rounding draws (R70, R238, R354, R427). -/
abbrev CanIssue (s : State) (k : Nat) (op : VOp) (rs : List GReg) : Prop :=
  (me s).handler = false ∧ myCtx s = some k ∧ trimming (ctxAt s k) = false ∧ Plain s rs ∧
  (readsSeed op (ctxAt s k).vtype = true → Plain s [23]) ∧ (ctxAt s k).queue.length < 16

/-- The acting slot has issued the instruction of entry `e`, which its context's queue has taken. -/
def queued (s : State) (k : Nat) (e : QEntry) : State := advance (enqueue s k e)

/-- How an instruction enters the vector queue: its entry's op and fields, the g registers it reads, and its v registers that
must be even where SEW is 64, or where its destination's elements are 64 bits wide (R158, R181, R212, R349). -/
structure VecForm where
  op   : VOp
  f    : F3Fields
  g    : GFields
  srcs : List VReg
  dsts : List VReg

/-- The instructions that take a vector-queue entry (R188, R211, R238, R348; 10, 11). -/
def vecForm (i : Instr) : Option VecForm :=
  match i with
  | .vadd d a b k => some ⟨.vadd, ⟨d, a, b, 0, k⟩, ⟨none, none, none⟩, [d, a, b], []⟩
  | .vsub d a b k => some ⟨.vsub, ⟨d, a, b, 0, k⟩, ⟨none, none, none⟩, [d, a, b], []⟩
  | .vand d a b k => some ⟨.vand, ⟨d, a, b, 0, k⟩, ⟨none, none, none⟩, [d, a, b], []⟩
  | .vor d a b k => some ⟨.vor, ⟨d, a, b, 0, k⟩, ⟨none, none, none⟩, [d, a, b], []⟩
  | .vxor d a b k => some ⟨.vxor, ⟨d, a, b, 0, k⟩, ⟨none, none, none⟩, [d, a, b], []⟩
  | .vandn d a b k => some ⟨.vandn, ⟨d, a, b, 0, k⟩, ⟨none, none, none⟩, [d, a, b], []⟩
  | .vmin d a b k => some ⟨.vmin, ⟨d, a, b, 0, k⟩, ⟨none, none, none⟩, [d, a, b], []⟩
  | .vmax d a b k => some ⟨.vmax, ⟨d, a, b, 0, k⟩, ⟨none, none, none⟩, [d, a, b], []⟩
  | .vminu d a b k => some ⟨.vminu, ⟨d, a, b, 0, k⟩, ⟨none, none, none⟩, [d, a, b], []⟩
  | .vmaxu d a b k => some ⟨.vmaxu, ⟨d, a, b, 0, k⟩, ⟨none, none, none⟩, [d, a, b], []⟩
  | .vmul d a b k => some ⟨.vmul, ⟨d, a, b, 0, k⟩, ⟨none, none, none⟩, [d, a, b], []⟩
  | .vmulh d a b k => some ⟨.vmulh, ⟨d, a, b, 0, k⟩, ⟨none, none, none⟩, [d, a, b], []⟩
  | .vsll d a b k => some ⟨.vsll, ⟨d, a, b, 0, k⟩, ⟨none, none, none⟩, [d, a, b], []⟩
  | .vsrl d a b k => some ⟨.vsrl, ⟨d, a, b, 0, k⟩, ⟨none, none, none⟩, [d, a, b], []⟩
  | .vsra d a b k => some ⟨.vsra, ⟨d, a, b, 0, k⟩, ⟨none, none, none⟩, [d, a, b], []⟩
  | .vmulhu d a b k => some ⟨.vmulhu, ⟨d, a, b, 0, k⟩, ⟨none, none, none⟩, [d, a, b], []⟩
  | .vsadd d a b k => some ⟨.vsadd, ⟨d, a, b, 0, k⟩, ⟨none, none, none⟩, [d, a, b], []⟩
  | .vssub d a b k => some ⟨.vssub, ⟨d, a, b, 0, k⟩, ⟨none, none, none⟩, [d, a, b], []⟩
  | .vsaddu d a b k => some ⟨.vsaddu, ⟨d, a, b, 0, k⟩, ⟨none, none, none⟩, [d, a, b], []⟩
  | .vssubu d a b k => some ⟨.vssubu, ⟨d, a, b, 0, k⟩, ⟨none, none, none⟩, [d, a, b], []⟩
  | .vmacc d a b k => some ⟨.vmacc, ⟨d, a, b, 0, k⟩, ⟨none, none, none⟩, [d, a, b], []⟩
  | .vnmsac d a b k => some ⟨.vnmsac, ⟨d, a, b, 0, k⟩, ⟨none, none, none⟩, [d, a, b], []⟩
  | .vaddS d a b k => some ⟨.vaddS, ⟨d, a, b, 0, k⟩, ⟨none, some b, none⟩, [d, a], []⟩
  | .vsubS d a b k => some ⟨.vsubS, ⟨d, a, b, 0, k⟩, ⟨none, some b, none⟩, [d, a], []⟩
  | .vrsubS d a b k => some ⟨.vrsubS, ⟨d, a, b, 0, k⟩, ⟨none, some b, none⟩, [d, a], []⟩
  | .vandS d a b k => some ⟨.vandS, ⟨d, a, b, 0, k⟩, ⟨none, some b, none⟩, [d, a], []⟩
  | .vorS d a b k => some ⟨.vorS, ⟨d, a, b, 0, k⟩, ⟨none, some b, none⟩, [d, a], []⟩
  | .vxorS d a b k => some ⟨.vxorS, ⟨d, a, b, 0, k⟩, ⟨none, some b, none⟩, [d, a], []⟩
  | .vminS d a b k => some ⟨.vminS, ⟨d, a, b, 0, k⟩, ⟨none, some b, none⟩, [d, a], []⟩
  | .vmaxS d a b k => some ⟨.vmaxS, ⟨d, a, b, 0, k⟩, ⟨none, some b, none⟩, [d, a], []⟩
  | .vsllS d a b k => some ⟨.vsllS, ⟨d, a, b, 0, k⟩, ⟨none, some b, none⟩, [d, a], []⟩
  | .vsrlS d a b k => some ⟨.vsrlS, ⟨d, a, b, 0, k⟩, ⟨none, some b, none⟩, [d, a], []⟩
  | .vsraS d a b k => some ⟨.vsraS, ⟨d, a, b, 0, k⟩, ⟨none, some b, none⟩, [d, a], []⟩
  | .vmulS d a b k => some ⟨.vmulS, ⟨d, a, b, 0, k⟩, ⟨none, some b, none⟩, [d, a], []⟩
  | .vmv d a k => some ⟨.vmv, ⟨d, a, 0, 0, k⟩, ⟨none, none, none⟩, [d, a], []⟩
  | .vmvS d a k => some ⟨.vmvS, ⟨d, a, 0, 0, k⟩, ⟨some a, none, none⟩, [d], []⟩
  | .vid d k => some ⟨.vid, ⟨d, 0, 0, 0, k⟩, ⟨none, none, none⟩, [d], []⟩
  | .vsel d a b k => some ⟨.vsel, ⟨d, a, b, 0, k⟩, ⟨none, none, none⟩, [d, a, b], []⟩
  | .vneg d a k => some ⟨.vneg, ⟨d, a, 0, 0, k⟩, ⟨none, none, none⟩, [d, a], []⟩
  | .vabs d a k => some ⟨.vabs, ⟨d, a, 0, 0, k⟩, ⟨none, none, none⟩, [d, a], []⟩
  | .vnot d a k => some ⟨.vnot, ⟨d, a, 0, 0, k⟩, ⟨none, none, none⟩, [d, a], []⟩
  | .vpopc d a k => some ⟨.vpopc, ⟨d, a, 0, 0, k⟩, ⟨none, none, none⟩, [d, a], []⟩
  | .vclz d a k => some ⟨.vclz, ⟨d, a, 0, 0, k⟩, ⟨none, none, none⟩, [d, a], []⟩
  | .vctz d a k => some ⟨.vctz, ⟨d, a, 0, 0, k⟩, ⟨none, none, none⟩, [d, a], []⟩
  | .vsext d a b k => some ⟨.vsext, ⟨d, a, b.setWidth 5, 0, k⟩, ⟨none, none, none⟩, [d, a], []⟩
  | .vzext d a b k => some ⟨.vzext, ⟨d, a, b.setWidth 5, 0, k⟩, ⟨none, none, none⟩, [d, a], []⟩
  | .vceq d a b k => some ⟨.vceq, ⟨d.setWidth 5, a, b, 0, k⟩, ⟨none, none, none⟩, [a, b], []⟩
  | .vcne d a b k => some ⟨.vcne, ⟨d.setWidth 5, a, b, 0, k⟩, ⟨none, none, none⟩, [a, b], []⟩
  | .vclt d a b k => some ⟨.vclt, ⟨d.setWidth 5, a, b, 0, k⟩, ⟨none, none, none⟩, [a, b], []⟩
  | .vcltu d a b k => some ⟨.vcltu, ⟨d.setWidth 5, a, b, 0, k⟩, ⟨none, none, none⟩, [a, b], []⟩
  | .vcle d a b k => some ⟨.vcle, ⟨d.setWidth 5, a, b, 0, k⟩, ⟨none, none, none⟩, [a, b], []⟩
  | .vcleu d a b k => some ⟨.vcleu, ⟨d.setWidth 5, a, b, 0, k⟩, ⟨none, none, none⟩, [a, b], []⟩
  | .vceqS d a b k => some ⟨.vceqS, ⟨d.setWidth 5, a, b, 0, k⟩, ⟨none, some b, none⟩, [a], []⟩
  | .vcltS d a b k => some ⟨.vcltS, ⟨d.setWidth 5, a, b, 0, k⟩, ⟨none, some b, none⟩, [a], []⟩
  | .mand d a b => some ⟨.mand, ⟨d.setWidth 5, a.setWidth 5, b.setWidth 5, 0, VMask.all⟩, ⟨none, none, none⟩, [], []⟩
  | .mor d a b => some ⟨.mor, ⟨d.setWidth 5, a.setWidth 5, b.setWidth 5, 0, VMask.all⟩, ⟨none, none, none⟩, [], []⟩
  | .mxor d a b => some ⟨.mxor, ⟨d.setWidth 5, a.setWidth 5, b.setWidth 5, 0, VMask.all⟩, ⟨none, none, none⟩, [], []⟩
  | .mandn d a b => some ⟨.mandn, ⟨d.setWidth 5, a.setWidth 5, b.setWidth 5, 0, VMask.all⟩, ⟨none, none, none⟩, [], []⟩
  | .mnot d a => some ⟨.mnot, ⟨d.setWidth 5, a.setWidth 5, 0, 0, VMask.all⟩, ⟨none, none, none⟩, [], []⟩
  | .mmv d a => some ⟨.mmv, ⟨d.setWidth 5, a.setWidth 5, 0, 0, VMask.all⟩, ⟨none, none, none⟩, [], []⟩
  | .mset d => some ⟨.mset, ⟨d.setWidth 5, 0, 0, 0, VMask.all⟩, ⟨none, none, none⟩, [], []⟩
  | .mclr d => some ⟨.mclr, ⟨d.setWidth 5, 0, 0, 0, VMask.all⟩, ⟨none, none, none⟩, [], []⟩
  | .mpopc d a k => some ⟨.mpopc, ⟨d, a.setWidth 5, 0, 0, k⟩, ⟨none, none, none⟩, [], []⟩
  | .mfirst d a k => some ⟨.mfirst, ⟨d, a.setWidth 5, 0, 0, k⟩, ⟨none, none, none⟩, [], []⟩
  | .msbf d a k => some ⟨.msbf, ⟨d.setWidth 5, a.setWidth 5, 0, 0, k⟩, ⟨none, none, none⟩, [], []⟩
  | .msif d a k => some ⟨.msif, ⟨d.setWidth 5, a.setWidth 5, 0, 0, k⟩, ⟨none, none, none⟩, [], []⟩
  | .vslideup d a b k => some ⟨.vslideup, ⟨d, a, b.setWidth 5, 0, k⟩, ⟨none, none, none⟩, [d, a], []⟩
  | .vslidedn d a b k => some ⟨.vslidedn, ⟨d, a, b.setWidth 5, 0, k⟩, ⟨none, none, none⟩, [d, a], []⟩
  | .vslideupS d a b k => some ⟨.vslideupS, ⟨d, a, b, 0, k⟩, ⟨none, some b, none⟩, [d, a], []⟩
  | .vslidednS d a b k => some ⟨.vslidednS, ⟨d, a, b, 0, k⟩, ⟨none, some b, none⟩, [d, a], []⟩
  | .vxchg d a b k => some ⟨.vxchg, ⟨d, a, b, 0, k⟩, ⟨none, some b, none⟩, [d, a], []⟩
  | .vcompress d a k => some ⟨.vcompress, ⟨d, a, 0, 0, k⟩, ⟨none, none, none⟩, [d, a], []⟩
  | .vexpand d a k => some ⟨.vexpand, ⟨d, a, 0, 0, k⟩, ⟨none, none, none⟩, [d, a], []⟩
  | .vperm d a b k => some ⟨.vperm, ⟨d, a, b, 0, k⟩, ⟨none, none, none⟩, [d, a, b], []⟩
  | .vgath8 d a b k => some ⟨.vgath8, ⟨d, a, b, 0, k⟩, ⟨none, none, none⟩, [d, a, b], []⟩
  | .vconflict d a k => some ⟨.vconflict, ⟨d, a, 0, 0, k⟩, ⟨none, none, none⟩, [d, a], []⟩
  | .vmatch d a b c k => some ⟨.vmatch, ⟨d.setWidth 5, a, b, c, k⟩, ⟨none, none, some (c.setWidth 5)⟩, [a, b], []⟩
  | .vprobe d a b k => some ⟨.vprobe, ⟨d, a, b, 0, k⟩, ⟨none, some b, none⟩, [a], []⟩
  | .vredsum d a b k => some ⟨.vredsum, ⟨d, a, b, 0, k⟩, ⟨none, some b, none⟩, [a], []⟩
  | .vredmax d a b k => some ⟨.vredmax, ⟨d, a, b, 0, k⟩, ⟨none, some b, none⟩, [a], []⟩
  | .vredmin d a b k => some ⟨.vredmin, ⟨d, a, b, 0, k⟩, ⟨none, some b, none⟩, [a], []⟩
  | .vredmaxu d a b k => some ⟨.vredmaxu, ⟨d, a, b, 0, k⟩, ⟨none, some b, none⟩, [a], []⟩
  | .vredand d a b k => some ⟨.vredand, ⟨d, a, b, 0, k⟩, ⟨none, some b, none⟩, [a], []⟩
  | .vredor d a b k => some ⟨.vredor, ⟨d, a, b, 0, k⟩, ⟨none, some b, none⟩, [a], []⟩
  | .vredxor d a b k => some ⟨.vredxor, ⟨d, a, b, 0, k⟩, ⟨none, some b, none⟩, [a], []⟩
  | .vredminu d a b k => some ⟨.vredminu, ⟨d, a, b, 0, k⟩, ⟨none, some b, none⟩, [a], []⟩
  | .vfadd d a b k => some ⟨.vfadd, ⟨d, a, b, 0, k⟩, ⟨none, none, none⟩, [d, a, b], []⟩
  | .vfsub d a b k => some ⟨.vfsub, ⟨d, a, b, 0, k⟩, ⟨none, none, none⟩, [d, a, b], []⟩
  | .vfmul d a b k => some ⟨.vfmul, ⟨d, a, b, 0, k⟩, ⟨none, none, none⟩, [d, a, b], []⟩
  | .vfdiv d a b k => some ⟨.vfdiv, ⟨d, a, b, 0, k⟩, ⟨none, none, none⟩, [d, a, b], []⟩
  | .vfmin d a b k => some ⟨.vfmin, ⟨d, a, b, 0, k⟩, ⟨none, none, none⟩, [d, a, b], []⟩
  | .vfmax d a b k => some ⟨.vfmax, ⟨d, a, b, 0, k⟩, ⟨none, none, none⟩, [d, a, b], []⟩
  | .vfsgnj d a b k => some ⟨.vfsgnj, ⟨d, a, b, 0, k⟩, ⟨none, none, none⟩, [d, a, b], []⟩
  | .vfsqrt d a k => some ⟨.vfsqrt, ⟨d, a, 0, 0, k⟩, ⟨none, none, none⟩, [d, a], []⟩
  | .vfma d a b c k => some ⟨.vfma, ⟨d, a, b, c, k⟩, ⟨none, none, none⟩, [d, a, b, c.setWidth 5], []⟩
  | .vfms d a b c k => some ⟨.vfms, ⟨d, a, b, c, k⟩, ⟨none, none, none⟩, [d, a, b, c.setWidth 5], []⟩
  | .vfnma d a b c k => some ⟨.vfnma, ⟨d, a, b, c, k⟩, ⟨none, none, none⟩, [d, a, b, c.setWidth 5], []⟩
  | .vfnms d a b c k => some ⟨.vfnms, ⟨d, a, b, c, k⟩, ⟨none, none, none⟩, [d, a, b, c.setWidth 5], []⟩
  | .vfaddS d a b k => some ⟨.vfaddS, ⟨d, a, b, 0, k⟩, ⟨none, some b, none⟩, [a], [d]⟩
  | .vfsubS d a b k => some ⟨.vfsubS, ⟨d, a, b, 0, k⟩, ⟨none, some b, none⟩, [a], [d]⟩
  | .vfmulS d a b k => some ⟨.vfmulS, ⟨d, a, b, 0, k⟩, ⟨none, some b, none⟩, [a], [d]⟩
  | .vfrsubS d a b k => some ⟨.vfrsubS, ⟨d, a, b, 0, k⟩, ⟨none, some b, none⟩, [a], [d]⟩
  | .vfabs d a k => some ⟨.vfabs, ⟨d, a, 0, 0, k⟩, ⟨none, none, none⟩, [d, a], []⟩
  | .vfneg d a k => some ⟨.vfneg, ⟨d, a, 0, 0, k⟩, ⟨none, none, none⟩, [d, a], []⟩
  | .vfclass d a k => some ⟨.vfclass, ⟨d, a, 0, 0, k⟩, ⟨none, none, none⟩, [d, a], []⟩
  | .vfround d a k => some ⟨.vfround, ⟨d, a, 0, 0, k⟩, ⟨none, none, none⟩, [d, a], []⟩
  | .vfceq d a b k => some ⟨.vfceq, ⟨d.setWidth 5, a, b, 0, k⟩, ⟨none, none, none⟩, [a, b], []⟩
  | .vfclt d a b k => some ⟨.vfclt, ⟨d.setWidth 5, a, b, 0, k⟩, ⟨none, none, none⟩, [a, b], []⟩
  | .vfcle d a b k => some ⟨.vfcle, ⟨d.setWidth 5, a, b, 0, k⟩, ⟨none, none, none⟩, [a, b], []⟩
  | .vfcun d a b k => some ⟨.vfcun, ⟨d.setWidth 5, a, b, 0, k⟩, ⟨none, none, none⟩, [a, b], []⟩
  | .vfcvt d a b k => some ⟨.vfcvt, ⟨d, a, b, 0, k⟩, ⟨none, some b, none⟩, [a], [d]⟩
  | .vf2i d a b k => some ⟨.vf2i, ⟨d, a, b, 0, k⟩, ⟨none, some b, none⟩, [a], [d]⟩
  | .vi2f d a b k => some ⟨.vi2f, ⟨d, a, b, 0, k⟩, ⟨none, some b, none⟩, [a], [d]⟩
  | .vf2iT d a b k => some ⟨.vf2iT, ⟨d, a, b, 0, k⟩, ⟨none, some b, none⟩, [a], [d]⟩
  | .vqamax d a b k => some ⟨.vqamax, ⟨d, a, b, 0, k⟩, ⟨none, some b, none⟩, [a], []⟩
  | .vqscale d a b => some ⟨.vqscale, ⟨d, a, b, 0, VMask.all⟩, ⟨none, some b, none⟩, [a], [d]⟩
  | .vqpack d a b => some ⟨.vqpack, ⟨d, a, b, 0, VMask.all⟩, ⟨none, some b, none⟩, [a, d], []⟩
  | .vqunpack d a b k => some ⟨.vqunpack, ⟨d, a, b, 0, k⟩, ⟨none, some b, none⟩, [a], [d]⟩
  | .vfwht d a b => some ⟨.vfwht, ⟨d, a, b, 0, VMask.all⟩, ⟨none, some b, none⟩, [a], [d]⟩
  | .vsfu d a b k => some ⟨.vsfu, ⟨d, a, b, 0, k⟩, ⟨none, some b, none⟩, [a], [d]⟩
  | .vfredsumO d a b k => some ⟨.vfredsumO, ⟨d, a, b, 0, k⟩, ⟨none, some b, none⟩, [a], []⟩
  | .vfredsumT d a b k => some ⟨.vfredsumT, ⟨d, a, b, 0, k⟩, ⟨none, some b, none⟩, [a], []⟩
  | .vfredmax d a b k => some ⟨.vfredmax, ⟨d, a, b, 0, k⟩, ⟨none, some b, none⟩, [a], []⟩
  | .vfredmin d a b k => some ⟨.vfredmin, ⟨d, a, b, 0, k⟩, ⟨none, some b, none⟩, [a], []⟩
  | .vfdotO d a b c k => some ⟨.vfdotO, ⟨d, a, b, c, k⟩, ⟨none, none, some (c.setWidth 5)⟩, [a, b], []⟩
  | .vhktest d a k => some ⟨.vhktest, ⟨d.setWidth 5, a, 0, 0, k⟩, ⟨none, none, none⟩, [], []⟩
  | .vhksel d a b k => some ⟨.vhksel, ⟨d, a, b, 0, k⟩, ⟨none, none, none⟩, [d, a, b], []⟩
  | .vhkcnt d a b k => some ⟨.vhkcnt, ⟨d, a, b, 0, k⟩, ⟨none, some b, none⟩, [a], []⟩
  | .vtopk d a b k => some ⟨.vtopk, ⟨d, a, b, 0, k⟩, ⟨none, some b, none⟩, [a], [d]⟩
  | .vld d a b k => some ⟨.vld, ⟨d, a, b, 0, k⟩, ⟨some a, some b, none⟩, [d], []⟩
  | .vst d a b k => some ⟨.vst, ⟨d, a, b, 0, k⟩, ⟨some a, some b, none⟩, [d], []⟩
  | .vlds d a b k => some ⟨.vlds, ⟨d, a, b, 0, k⟩, ⟨some a, some b, none⟩, [d], []⟩
  | .vsts d a b k => some ⟨.vsts, ⟨d, a, b, 0, k⟩, ⟨some a, some b, none⟩, [d], []⟩
  | .vldx d a b k => some ⟨.vldx, ⟨d, a, b, 0, k⟩, ⟨some a, none, none⟩, [d, b], []⟩
  | .vstx d a b k => some ⟨.vstx, ⟨d, a, b, 0, k⟩, ⟨some a, none, none⟩, [d, b], []⟩
  | .vldff d a k => some ⟨.vldff, ⟨d, a, 0, 0, k⟩, ⟨some a, none, none⟩, [d], []⟩
  | .vstxa d a b c k => some ⟨.vstxa, ⟨d, a, b, c, k⟩, ⟨some a, none, some (c.setWidth 5)⟩, [d, b], []⟩
  | .vldw d a b c k => some ⟨.vldw, ⟨d, a, b, c, k⟩, ⟨some a, none, some (c.setWidth 5)⟩, [d, b], []⟩
  | .vldrow d a b k => some ⟨.vldrow, ⟨d, a, b, 0, k⟩, ⟨some a, none, none⟩, [d, b], []⟩
  | .vstrow d a b k => some ⟨.vstrow, ⟨d, a, b, 0, k⟩, ⟨some a, none, none⟩, [d, b], []⟩
  | .vamorow d a b c k => some ⟨.vamorow, ⟨d, a, b, c, k⟩, ⟨some a, none, some (c.setWidth 5)⟩, [d, b], []⟩
  | .vldsync d a b c k => some ⟨.vldsync, ⟨d, a, b, c, k⟩, ⟨some a, none, none⟩, [d, b], []⟩
  | .pload d a b => some ⟨.pload, ⟨d, a, b, 0, VMask.all⟩, ⟨some a, some b, none⟩, [], []⟩
  | .prow a b => some ⟨.prow, ⟨0, a, b, 0, VMask.all⟩, ⟨some a, some b, none⟩, [], []⟩
  | .mma d a k => some ⟨.mma, ⟨d, a, 0, 0, k⟩, ⟨some a, none, none⟩, [], []⟩
  | .mmav d a k => some ⟨.mmav, ⟨d, a, 0, 0, k⟩, ⟨some a, none, none⟩, [], []⟩
  | .pbnd a b => some ⟨.pbnd, ⟨0, a, b, 0, VMask.all⟩, ⟨some a, some b, none⟩, [], []⟩
  | .ptree d a => some ⟨.ptree, ⟨d, a, 0, 0, VMask.all⟩, ⟨none, none, none⟩, [], []⟩
  | .tmma d a b => some ⟨.tmma, ⟨d.setWidth 5, a, b, 0, VMask.all⟩, ⟨some a, some b, none⟩, [], []⟩
  | .tzero d => some ⟨.tzero, ⟨d.setWidth 5, 0, 0, 0, VMask.all⟩, ⟨none, none, none⟩, [], []⟩
  | .tld d a => some ⟨.tld, ⟨d.setWidth 5, a, 0, 0, VMask.all⟩, ⟨some a, none, none⟩, [], []⟩
  | .tst d a => some ⟨.tst, ⟨d.setWidth 5, a, 0, 0, VMask.all⟩, ⟨some a, none, none⟩, [], []⟩
  | .tacc d a b => some ⟨.tacc, ⟨d.setWidth 5, a, b, 0, VMask.all⟩, ⟨none, some b, none⟩, [], []⟩
  | .trow d a b => some ⟨.trow, ⟨d.setWidth 5, a, b, 0, VMask.all⟩, ⟨none, some b, none⟩, [], []⟩
  | _ => none

/-- The page of an instruction that takes an entry: 2, 3, 4 or 5. -/
def vecPage (op : VOp) : Nat :=
  match op with
  | .vld | .vst | .vlds | .vsts | .vldx | .vstx | .vldff | .vstxa | .vldw | .vldrow | .vstrow | .vamorow | .vldsync => 4
  | .pload | .prow | .mma | .mmav | .pbnd | .ptree | .tmma | .tzero | .tld | .tst | .tacc | .trow | .pgang | .vdcfg => 5
  | o => if isFloatOp o then 3 else 2

/-- The formats of a page 3 instruction: `f` 2 to 7, `f32` 3 alone, `b` 8 to 11, `i` 0 and 1, `fb` 2 to 11 (R211). -/
def formatOf (op : VOp) : FmtCol :=
  match op with
  | .vhktest | .vhksel | .vhkcnt | .vtopk => .f32
  | .vqscale | .vqpack | .vqunpack => .b
  | .vqamax => .fb
  | .vi2f => .i
  | _ => .f

/-- What else page 2 and page 3 ask of an entry's operands (R181, R207, R212, R222, R226, R232, R233, R236, R237). -/
def operandsOk (y : Ctx) (e : QEntry) : Bool :=
  let x := e.gb.toNat
  match e.op with
  | .vsext | .vzext => decide (2 ^ e.f.b.toNat < vtSew e.vtype)
  | .vmatch => decide (e.gc.toNat ≤ 64) && decide (e.gc.toNat ≤ vlmax y)
  | .vfcvt | .vi2f => decide (2 ≤ x) && decide (x ≤ 7)
  | .vf2i | .vf2iT => decide (x < 16) && decide (x % 8 ≤ 6)
  | .vqscale | .vqunpack => [2, 3, 5, 6, 7].contains x
  | .vqpack => [2, 3, 5, 6, 7].contains (x % 16) && decide (x < 2 ^ 14) && x / 64 % 4 == 0 && (x / 32 % 2 == 1 || x / 256 == 0)
  | .vfwht => decide (1 ≤ x) && decide (x ≤ 9) && y.vl % 2 ^ x == 0
  | .vsfu => decide (x ≤ 10)
  | .vhkcnt => decide (x ≤ 2)
  | .vtopk => decide (1 ≤ x) && decide (x ≤ 64) && decide (x ≤ vlmax y) && decide (e.f.a.toNat ≤ 30) && decide (e.f.d.toNat ≤ 30)
  | _ => true

/-- The element-wise page 2 instructions whose second operand is the g register b names (R191). -/
def scalarOps : List VOp :=
  [.vaddS, .vsubS, .vrsubS, .vandS, .vorS, .vxorS, .vminS, .vmaxS, .vsllS, .vsrlS, .vsraS, .vmulS]

/-- The element-wise page 2 instructions that write active elements of a v register (R190 to R194). -/
def elementOps : List VOp :=
  [.vadd, .vsub, .vand, .vor, .vxor, .vandn, .vmin, .vmax, .vminu, .vmaxu, .vmul, .vmulh, .vsll, .vsrl, .vsra, .vmulhu, .vsadd,
    .vssub, .vsaddu, .vssubu, .vmacc, .vnmsac, .vneg, .vabs, .vnot, .vpopc, .vclz, .vctz, .vsext, .vzext, .vmv, .vmvS, .vid] ++
    scalarOps

/-- The compares of page 2 (R196). -/
def compareOps : List VOp := [.vceq, .vcne, .vclt, .vcltu, .vcle, .vcleu, .vceqS, .vcltS]

/-- The mask algebra (R197). -/
def maskOps : List VOp := [.mand, .mor, .mxor, .mandn, .mnot, .mmv, .mset, .mclr]

/-- The movement of elements between those of a v register (R200 to R206). -/
def moveOps : List VOp :=
  [.vslideup, .vslideupS, .vslidedn, .vslidednS, .vxchg, .vcompress, .vexpand, .vperm, .vgath8, .vconflict]

/-- The value of a g register that an instruction may name. -/
def named (s : State) (o : Option GReg) : Word :=
  match o with
  | some r => readG (me s) r
  | none => 0

/-- The entry that an instruction of form `v` would be in context `k`. -/
abbrev formEntry (s : State) (k : Nat) (v : VecForm) : QEntry :=
  newEntry s k v.op v.f (named s v.g.a) (named s v.g.b) (named s v.g.c)

/-- The g registers an instruction of form `v` names. -/
abbrev formRegs (v : VecForm) : List GReg :=
  v.g.a.toList ++ v.g.b.toList ++ v.g.c.toList ++ (if owesG v.op then [v.f.d] else [])

/-- No counter of OUTST that an entry will hold is at its limit (R131). -/
abbrev Countable (s : State) (e : QEntry) : Prop := ∀ n ∈ entryCtrs e, ctrOf (me s) n < 63

/-- Whether the band and the buffer that an `mma` or `mmav` names agree with it: a band, a held buffer, widths, classes, block lengths
and counts that match, and a destination within the registers and off the band (R278). -/
def bandAgrees (y : Ctx) (e : QEntry) : Prop :=
  let b := y.bandIssue
  let h := look y.holdsIssue (fld e.ga 0 1) hold0
  let d := e.f.d.toNat
  b.regs ≠ 0 ∧ h.held = true ∧ ftWidth h.ft = ftWidth b.ft ∧ ftInt h.ft = ftInt b.ft ∧ h.l = b.l ∧ h.k = 2 ^ y.logG * b.kc ∧
  y.vl % 2 ^ y.logG = 0 ∧ d + h.m ≤ 32 ∧ (d + h.m ≤ b.band ∨ b.band + b.regs ≤ d)

/-- The format-types that a product operand may name (R265). -/
def productFts : List Nat := [2, 10, 66, 82, 3, 11, 51, 59, 75, 91, 20, 44]

/-- What page 5 asks of an instruction whose entry is `e` before it joins the queue as `q`, the machine being `u` with the pins it
took (R269, R274, R278, R282, R285, R286, R287, R296, R303). -/
def productAdmits (s : State) (k : Nat) (e q : QEntry) (u : State) : Prop :=
  let y := ctxAt s k
  let g := e.gb
  let same : Prop := q = e ∧ u = s
  let rows : QEntry := { e with acc := [BitVec.ofNat 64 (look y.holdsIssue (fld e.ga 0 1) hold0).m] }
  match e.op with
  | .tzero => same
  | .ptree => vtSew y.vtype = 32 ∧ (vtFmt y.vtype = 0 ∨ vtFmt y.vtype = 1 ∨ vtFmt y.vtype = 3) ∧ y.vl % 2 ^ y.logG = 0 ∧ same
  | .pbnd => fld g 2 62 = 0 ∧ y.bandIssue.regs ≠ 0 ∧ y.bandIssue.bnd = true ∧ same
  | .tmma =>
    let z := if fld g 0 2 = 1 then 4 else 8
    let n := 8 * z * fld g 28 16
    fld g 4 24 = 0 ∧ bitOf g 2 = false ∧ fld g 0 2 ≤ 1 ∧ same ∧
    (bitOf g 3 = true ∨ e.ga.toNat % z = 0 ∧ fld g 44 20 % z = 0 ∧
      (n = 0 ∨ inScratch s e.ga n = true ∧ inScratch s (e.ga + BitVec.ofNat 64 (fld g 44 20)) n = true))
  | .tacc | .trow =>
    let r := fld g 4 4
    fld g 48 16 = 0 ∧ fld g 8 8 = 0 ∧ 1 ≤ r ∧ r ≤ 8 ∧ fld g 0 4 ≤ 3 ∧ (fld g 0 4 = 3 → e.f.a.toNat % 2 = 0) ∧
    (y.vl = 0 ∨ fld g 16 16 + fld g 32 16 * (8 * r - 1) < y.vl) ∧ same
  | .prow =>
    let ft := fld g 0 7
    let m := fld g 16 5
    let n := fld g 24 16
    let l := productLen ft e.vtype
    let bytes := m * n * ftWidth ft / 8
    let scales := m * (n / l) * ftScale ft
    fld g 40 4 = 0 ∧ fld g 21 3 = 0 ∧ fld g 9 7 = 0 ∧ bitOf g 7 = false ∧ ft ∈ productFts ∧ 1 ≤ m ∧ m ≤ 16 ∧ 1 ≤ n ∧ n ≤ 16384 ∧
    n % l = 0 ∧ bytes + scales ≤ 8192 ∧ e.ga.toNat % 8 = 0 ∧ inScratch s e.ga bytes = true ∧
    (scales = 0 ∨ inScratch s (e.ga + BitVec.ofNat 64 (fld g 44 20)) scales = true) ∧ same
  | .pload =>
    let ft := fld g 0 7
    let n := fld g 24 12
    let r := fld g 12 6
    let l := productLen ft e.vtype
    let need := n * ftWidth ft + (if ftScale ft = 0 then 0 else 16 * (n / l)) + (if bitOf g 9 then 8 * (n / l) else 0)
    fld g 36 8 = 0 ∧ fld g 18 6 = 0 ∧ fld g 10 2 = 0 ∧ fld g 7 2 = 0 ∧ ft ∈ productFts ∧ 1 ≤ n ∧ n ≤ 256 ∧ n % l = 0 ∧ r ≠ 0 ∧
    e.f.d.toNat + r ≤ 32 ∧ need ≤ 32 * r ∧ y.vl % 2 ^ y.logG = 0 ∧ e.ga.toNat % 8 = 0 ∧
    (ftScale ft = 2 → (e.ga + BitVec.ofNat 64 (fld g 44 20)).toNat % 2 = 0) ∧
    q = { e with band := ⟨e.f.d.toNat, r, ft, n, l, bitOf g 9⟩ } ∧ u = s
  | .tld => e.ga.toNat % 8 = 0 ∧ pinAtIssue s k e needR e.ga 512 = .ok q u
  | .tst => e.ga.toNat % 8 = 0 ∧ pinAtIssue s k e needW e.ga 512 = .ok q u
  | .mma => fld e.ga 3 61 = 0 ∧ bandAgrees y e ∧ q = rows ∧ u = s
  | .mmav =>
    let b := y.bandIssue
    let r := fld e.ga 8 5
    let m := (look y.holdsIssue (fld e.ga 0 1) hold0).m
    fld e.ga 13 51 = 0 ∧ fld e.ga 3 4 = 0 ∧ bandAgrees y e ∧ ftInt b.ft = false ∧ y.logG = 0 ∧ b.bnd = true ∧
    vdcfgValid e.vdcfg = true ∧
    (bitOf e.ga 7 = true → (e.f.d.toNat + m ≤ r ∨ r < e.f.d.toNat) ∧ (b.band + b.regs ≤ r ∨ r < b.band)) ∧
    (readsVerdict e = false ∧ q = rows ∧ u = s ∨
      readsVerdict e = true ∧ pinAtIssue s k rows needR (e.vdcfg &&& ~~~7) 8 = .ok q u)
  | _ => False

/-- What the page of an instruction of form `v` asks of it before it joins the queue of context `k` as `q`, the machine being `u` with
the pins it took (R158, R181, R212, R229, R349; page 5 as above). -/
def vecAdmits (s : State) (k : Nat) (v : VecForm) (q : QEntry) (u : State) : Prop :=
  let y := ctxAt s k
  let e := formEntry s k v
  let even (rs : List VReg) : Prop := ∀ r ∈ rs, r.toNat % 2 = 0
  (vecPage v.op = 2 ∧ q = e ∧ u = s ∧ (vtSew y.vtype = 64 → even v.srcs) ∧ operandsOk y e = true ∧ relayFits y e = true) ∨
  (vecPage v.op = 3 ∧ (formatOf v.op).has (vtFmt y.vtype) = true ∧ operandsOk y e = true ∧ relayFits y e = true ∧
    (vtSew y.vtype = 64 → even (v.srcs ++ v.dsts)) ∧ (destWidth v.op y.vtype e.gb = 64 → even v.dsts) ∧
    (let ea := (me s).fmtp + BitVec.ofNat 64 (80 * fld e.gb 8 6)
     isAdaptive e = false ∧ q = e ∧ u = s ∨
       isAdaptive e = true ∧ ea.toNat % 8 = 0 ∧ pinAtIssue s k { e with acc := [ea] } needRW ea 80 = .ok q u)) ∨
  (vecPage v.op = 4 ∧ q = e ∧ u = s ∧ (vtSew y.vtype = 64 → even v.srcs) ∧ memFmtOk v.op y.vtype = true ∧ memOwnOk e = true ∧
    memAligned e = true ∧ (isRowForm v.op = true → isNear e.ga = false)) ∨
  (vecPage v.op = 5 ∧ productAdmits s k e q u)

end Sys2Proof.Machine
end

