-- ==== Sys2Proof/Certificates/Slice0/Obligations.lean ====
section
/-! DEFINITION. The statements about the KR8: each docstring names the rules of spec/ it rests on. -/

open Sys2Proof Sys2Proof.Machine

/-! The machine as a whole. -/

/-- The machine as reset is released: bring-up at stage 1 with no code and not done, no slot, context, core or production set
up, memory listing nothing, and the dimmer's registers at the reset values of R412, R415 and R417. That an unlisted byte reads
zero is the model's choice before stage 4 (log 2). Memory is canonical at reset. -/
def Obligations.ResetLeaves : Prop :=
  (State.reset.mgmt.stage = 1 ∧ State.reset.mgmt.error = 0 ∧ State.reset.mgmt.done = false ∧ State.reset.slots = [] ∧
   State.reset.ctxs = [] ∧ State.reset.cores = [] ∧ State.reset.prods = [] ∧ State.reset.mem = [] ∧
   (∀ a, memByte State.reset.mem a = 0) ∧ State.reset.agenda = [] ∧ State.reset.dimmer.hold = 0x320000C8 ∧
   State.reset.dimmer.blind = 0x6400 ∧ State.reset.dimmer.deadline = 1000 ∧ State.reset.dimmer.level = 0 ∧
   State.reset.mgmt.i3cAddr = 0x5A) ∧
  (MemOk State.reset)

/-- A step runs what it decodes. An event on the agenda is executed, and leaves it. With none there, and the turn of slot `n`
next, a slot that stands ready at its turn, with no freeze under way and no debug stop due, fetches its words; where they decode
to an instruction the step executes it with its words in the register, and what follows a turn (the patience trap, a STEP's
stop) is added. Words that are no instruction trap at the word that makes them none: a fifth prefix word or a second one of its
kind with the illegal-format trap, an encoding that is none with the illegal-instruction trap (02 R43, R44). -/
def Obligations.StepRunsDecoded : Prop :=
  ((∀ (s : State) (i : Instr) (rest : List Instr), s.agenda = i :: rest → step s = exec i { s with agenda := rest }) ∧
   ∀ (s u : State) (n k : Nat) (ws : List Half) (i : Instr), s.agenda = [] → s.mgmt.error = 0 → nextPick s = .turn n →
     (slotAt (testTurn (startTurn s n) n) n).st = .ready → (slotAt (testTurn (startTurn s n) n) n).freezing = none →
     stepHeld (testTurn (startTurn s n) n) n = false → stopBefore (testTurn (startTurn s n) n) n = none →
     fetch (testTurn (startTurn s n) n) = .words ws u →
     decode ws = .ok i k → step s = thenEnd n (exec i (issuing u ws k))) ∧
  (∀ (s u : State) (n k : Nat) (ws : List Half), s.agenda = [] → s.mgmt.error = 0 → nextPick s = .turn n →
     (slotAt (testTurn (startTurn s n) n) n).st = .ready → (slotAt (testTurn (startTurn s n) n) n).freezing = none →
     stepHeld (testTurn (startTurn s n) n) n = false → stopBefore (testTurn (startTurn s n) n) n = none →
     fetch (testTurn (startTurn s n) n) = .words ws u →
     (decode ws = .illegalFormat k → step s = .next (endTurn (takeTrap u 2 (wordAddr u k)) n)) ∧
     (decode ws = .illegalInstruction k → step s = .next (endTurn (takeTrap u 3 (wordAddr u k)) n)))

/-- Every instruction and every event answers a next state, whatever the state: none is refused and none faults. A step never
refuses, and it faults only where bring-up has stopped with an ERROR and nothing is on the agenda (20 R476). -/
def Obligations.EveryStepAnswers : Prop :=
  (∀ (i : Instr) (s : State), ∃ t, exec i s = .next t) ∧
  ((∀ (s : State) (r : Refusal), step s ≠ .refused r) ∧
   ∀ (s : State) (f : Fault), step s = .fault f ↔ f = .bringUpStopped ∧ s.mgmt.error ≠ 0 ∧ s.agenda = [])

/-- Every step keeps memory canonical: addresses strictly rising and no byte listed that reads as an unlisted one. -/
def Obligations.StepKeepsMemoryCanonical : Prop :=
  ∀ (s t : State), MemOk s → step s = .next t → MemOk t

/-- Decode and encode agree: the words of every well-formed instruction, whatever follows them, decode to it and to their
number; the seven PRODCTL rows share their words (log 4). -/
def Obligations.DecodeEncode : Prop :=
  ∀ (i : Instr) (rest : List Half), i.wf = true → i.isEvent = false →
    decode (encode i ++ rest) = .ok (canonical i) (encode i).length

/-- The worked encodings of chapter 02 and words written out from its tables decode to what they stand for: `add g3, g4, g5`;
`addi g3, g3, 300`; `addi g2, g2, -64`; `ldd g5, [g6+16]`; `bne g4, g0, .-12`; `vfma v20, v17, v3, v9, ~m2`; `ret`; the word 0;
`vadd v5, v6, v7`; `vld v1, g2, g3`; `mma v4, g2`; `fork g3, g4, g6`; `retire`. A run of 0xFFFF is illegal format at its second
word, a fifth prefix at the fifth, and a major that page 1 does not assign is illegal instruction (02 R34 to R52). -/
def Obligations.DecodeWords : Prop :=
  decode [0x0394] = .ok (.add 3 4 5) 1 ∧ decode [0xF809, 0x436C] = .ok (.addi 3 3 300) 2 ∧
  decode [0xF9FE, 0x4240] = .ok (.addi 2 2 (-64)) 2 ∧ decode [0xF800, 0x95DA] = .ok (.ldd 5 6 2) 2 ∧
  decode [0xC41A] = .ok (.bne 4 0 (-6)) 1 ∧ decode [0xFC03, 0xFB40, 0xFEB9, 0x142C] = .ok (.vfma 20 17 3 9 ⟨true, true, 2⟩) 4 ∧
  decode [0x3823] = .ok (.jalr 0 1) 1 ∧ decode [0x0000] = .ok (.add 0 0 0) 1 ∧
  decode [0xFC02, 0x0DDC] = .ok (.vadd 5 6 7 VMask.all) 2 ∧ decode [0xFC04, 0x014C] = .ok (.vld 1 2 3 VMask.all) 2 ∧
  decode [0xFC05, 0x0442] = .ok (.mma 4 2 VMask.all) 2 ∧ decode [0xFC06, 0x0398] = .ok (.fork 3 4 6) 2 ∧
  decode [0xFC06, 0x0002] = .ok .retire 2 ∧ decode [0xFFFF, 0xFFFF] = .illegalFormat 1 ∧
  decode [0xF800, 0xF801, 0xF802, 0xF803, 0xF804] = .illegalFormat 4 ∧ decode [0xFC01, 0x3000] = .illegalInstruction 1

/-! Page 0: integer instructions, immediates, branches and jumps (05). -/

/-- g0 reads as zero and discards what is written; every other register holds what was written last, and a write changes no
other register (05 R124). The register-register family: each instruction completes with g[d] as the table says and every other
part of the machine but the pc as it was (05 R133, R137). -/
def Obligations.RegisterRegisterResults : Prop :=
  ((∀ x : Slot, readG x 0 = 0) ∧ (∀ (x : Slot) (v : Word), setG x 0 v = x) ∧
   (∀ (x : Slot) (r : GReg) (v : Word), r ≠ 0 → readG (setG x r v) r = v) ∧
   ∀ (x : Slot) (r q : GReg) (v : Word), q ≠ r → readG (setG x r v) q = readG x q) ∧
  ∀ (s : State) (d a b : GReg), Plain s [a, b, d] →
    let x := readG (me s) a
    let y := readG (me s) b
    exec (.add d a b) s = .next (wrote s d (BitVec.ofNat 64 (x.toNat + y.toNat))) ∧
    exec (.sub d a b) s = .next (wrote s d (trunc64 (x.toInt - y.toInt))) ∧
    exec (.and d a b) s = .next (wrote s d (x &&& y)) ∧
    exec (.or d a b) s = .next (wrote s d (x ||| y)) ∧
    exec (.xor d a b) s = .next (wrote s d (x ^^^ y)) ∧
    exec (.andn d a b) s = .next (wrote s d (x &&& ~~~y)) ∧
    exec (.sll d a b) s = .next (wrote s d (BitVec.ofNat 64 (x.toNat * 2 ^ (y.toNat % 64)))) ∧
    exec (.srl d a b) s = .next (wrote s d (BitVec.ofNat 64 (x.toNat / 2 ^ (y.toNat % 64)))) ∧
    exec (.sra d a b) s = .next (wrote s d (trunc64 (x.toInt / (2 ^ (y.toNat % 64) : Nat)))) ∧
    exec (.rol d a b) s = .next (wrote s d (x <<< (y.toNat % 64) ||| x >>> (64 - y.toNat % 64))) ∧
    exec (.slt d a b) s = .next (wrote s d (if x.toInt < y.toInt then 1 else 0)) ∧
    exec (.sltu d a b) s = .next (wrote s d (if x.toNat < y.toNat then 1 else 0)) ∧
    exec (.min d a b) s = .next (wrote s d (trunc64 (min x.toInt y.toInt))) ∧
    exec (.max d a b) s = .next (wrote s d (trunc64 (max x.toInt y.toInt))) ∧
    exec (.minu d a b) s = .next (wrote s d (BitVec.ofNat 64 (min x.toNat y.toNat))) ∧
    exec (.maxu d a b) s = .next (wrote s d (BitVec.ofNat 64 (max x.toNat y.toNat))) ∧
    exec (.mul d a b) s = .next (wrote s d (BitVec.ofNat 64 (x.toNat * y.toNat))) ∧
    exec (.mulh d a b) s = .next (wrote s d (trunc64 (x.toInt * y.toInt / 2 ^ 64))) ∧
    exec (.mulhu d a b) s = .next (wrote s d (BitVec.ofNat 64 (x.toNat * y.toNat / 2 ^ 64))) ∧
    exec (.cmov d a b) s = .next (wrote s d (if y = 0 then readG (me s) d else x)) ∧
    ∀ n : BitVec 2, exec (.lea d a b n) s = .next (wrote s d (BitVec.ofNat 64 (x.toNat + y.toNat * 2 ^ n.toNat)))

/-- Division never traps: by zero the quotient is all ones and the remainder the dividend; −2^63 by −1 gives itself and 0;
otherwise the quotient rounds toward zero and the remainder has the dividend's sign (05 R134). `div`, `divu`, `rem` and `remu`
are minors 0 to 3 of major 5. -/
def Obligations.DivisionResults : Prop :=
  (∀ (s : State) (d a b : GReg), Plain s [a, b, d] →
     let x := readG (me s) a
     let y := readG (me s) b
     (y = 0 →
       exec (.div d a b) s = .next (wrote s d 0xFFFFFFFFFFFFFFFF) ∧ exec (.divu d a b) s = .next (wrote s d 0xFFFFFFFFFFFFFFFF) ∧
       exec (.rem d a b) s = .next (wrote s d x) ∧ exec (.remu d a b) s = .next (wrote s d x)) ∧
     (x = 0x8000000000000000 → y = 0xFFFFFFFFFFFFFFFF →
       exec (.div d a b) s = .next (wrote s d 0x8000000000000000) ∧ exec (.rem d a b) s = .next (wrote s d 0)) ∧
     (y ≠ 0 → ∃ q r : Int, x.toInt = q * y.toInt + r ∧ r.natAbs < y.toInt.natAbs ∧ 0 ≤ r * x.toInt ∧
       exec (.div d a b) s = .next (wrote s d (trunc64 q)) ∧ exec (.rem d a b) s = .next (wrote s d (trunc64 r))) ∧
     (y ≠ 0 → exec (.divu d a b) s = .next (wrote s d (BitVec.ofNat 64 (x.toNat / y.toNat))) ∧
       exec (.remu d a b) s = .next (wrote s d (BitVec.ofNat 64 (x.toNat % y.toNat))))) ∧
  ∀ d a b : BitVec 3,
    let w (minor : BitVec 2) : Half := (5 : BitVec 5) ++ d ++ a ++ b ++ minor
    decode [w 0] = .ok (.div (d.setWidth 5) (a.setWidth 5) (b.setWidth 5)) 1 ∧
    decode [w 1] = .ok (.divu (d.setWidth 5) (a.setWidth 5) (b.setWidth 5)) 1 ∧
    decode [w 2] = .ok (.rem (d.setWidth 5) (a.setWidth 5) (b.setWidth 5)) 1 ∧
    decode [w 3] = .ok (.remu (d.setWidth 5) (a.setWidth 5) (b.setWidth 5)) 1

/-- The immediate family, `li` and `lih` (05 R136, R138). The one-operand forms (05 R135): `clz` and `ctz` count the zero bits
above the highest and below the lowest 1, 64 where there is none; `popc` the 1 bits; `bswap` turns the bytes round; the `sext`
forms extend the low 8, 16 or 32 bits by their sign. -/
def Obligations.ImmediateAndOneOperandResults : Prop :=
  ((∀ (s : State) (d a : GReg) (imm : Int) (n : BitVec 6), Plain s [a, d] →
     let x := readG (me s) a
     exec (.addi d a imm) s = .next (wrote s d (trunc64 (x.toInt + imm))) ∧
     exec (.andi d a imm) s = .next (wrote s d (x &&& trunc64 imm)) ∧
     exec (.ori d a imm) s = .next (wrote s d (x ||| trunc64 imm)) ∧
     exec (.xori d a imm) s = .next (wrote s d (x ^^^ trunc64 imm)) ∧
     exec (.slli d a n) s = .next (wrote s d (BitVec.ofNat 64 (x.toNat * 2 ^ n.toNat))) ∧
     exec (.srli d a n) s = .next (wrote s d (BitVec.ofNat 64 (x.toNat / 2 ^ n.toNat))) ∧
     exec (.srai d a n) s = .next (wrote s d (trunc64 (x.toInt / (2 ^ n.toNat : Nat))))) ∧
   ∀ (s : State) (d : GReg) (imm : Int), Plain s [d] →
     exec (.li d imm) s = .next (wrote s d (trunc64 imm)) ∧
     exec (.lih d imm) s = .next (wrote s d ((trunc64 imm).setWidth 32 ++ (readG (me s) d).setWidth 32))) ∧
  (∀ (s : State) (d a : GReg), Plain s [a, d] →
     let x := readG (me s) a
     (∃ n, exec (.clz d a) s = .next (wrote s d (BitVec.ofNat 64 n)) ∧ n ≤ 64 ∧ x.toNat < 2 ^ (64 - n) ∧
       (n < 64 → 2 ^ (63 - n) ≤ x.toNat)) ∧
     (∃ n, exec (.ctz d a) s = .next (wrote s d (BitVec.ofNat 64 n)) ∧ n ≤ 64 ∧ (∀ i < n, bitOf x i = false) ∧
       (n < 64 → bitOf x n = true)) ∧
     exec (.popc d a) s = .next (wrote s d (BitVec.ofNat 64 (((List.range 64).filter (bitOf x)).length))) ∧
     (∃ v : Word, exec (.bswap d a) s = .next (wrote s d v) ∧
       ∀ i < 8, v.extractLsb' (8 * i) 8 = x.extractLsb' (56 - 8 * i) 8) ∧
     exec (.sextb d a) s = .next (wrote s d (trunc64 (x.setWidth 8).toInt)) ∧
     exec (.sexth d a) s = .next (wrote s d (trunc64 (x.setWidth 16).toInt)) ∧
     exec (.sextw d a) s = .next (wrote s d (trunc64 (x.setWidth 32).toInt)))

/-- A branch is taken when its relation holds, to its own address + 2 × disp, and has no other effect (05 R139). `j` and `jal`
go to their own address + 2 × disp, `jal` with the address after its words in g1; `jalr` goes to the old value of g[a], with the
address after its words in g[d], and where that value is odd it takes the instruction-misalignment trap and leaves g[d] (05
R140, R141). -/
def Obligations.BranchAndJumpResults : Prop :=
  (∀ (s : State) (a b : GReg) (disp : Int), Plain s [a, b] →
     let x := readG (me s) a
     let y := readG (me s) b
     let go (taken : Prop) [Decidable taken] : State :=
       jumped s (me s) (if taken then trunc64 ((me s).pc.toNat + 2 * disp) else nextPc s)
     exec (.beq a b disp) s = .next (go (x = y)) ∧ exec (.bne a b disp) s = .next (go (x ≠ y)) ∧
     exec (.blt a b disp) s = .next (go (x.toInt < y.toInt)) ∧ exec (.bge a b disp) s = .next (go (y.toInt ≤ x.toInt)) ∧
     exec (.bltu a b disp) s = .next (go (x.toNat < y.toNat)) ∧ exec (.bgeu a b disp) s = .next (go (y.toNat ≤ x.toNat))) ∧
  ((∀ (s : State) (disp : Int), exec (.j disp) s = .next (jumped s (me s) (trunc64 ((me s).pc.toNat + 2 * disp)))) ∧
   (∀ (s : State) (disp : Int), Plain s [1] →
     exec (.jal disp) s = .next (jumped s (setG (me s) 1 (nextPc s)) (trunc64 ((me s).pc.toNat + 2 * disp)))) ∧
   (∀ (s : State) (d a : GReg), Plain s [a, d] → bitOf (readG (me s) a) 0 = false →
     exec (.jalr d a) s = .next (jumped s (setG (me s) d (nextPc s)) (readG (me s) a))) ∧
   ∀ (s : State) (d a : GReg), Plain s [a, d] → bitOf (readG (me s) a) 0 = true →
     exec (.jalr d a) s = .next (takeTrap s 5 (readG (me s) a)))

/-- The frame of the instructions over g registers: where every register named is plain, the next state keeps everything of the
machine but the acting slot, every byte of memory among it; and of that slot everything but g[d], the pc and, for the
floating-point ones, flags, which only rise (05 R124, R133 to R140; 08 R224). -/
def Obligations.RegisterFormFrame : Prop :=
  ∀ (i : Instr) (d : Option GReg) (rs : List GReg) (s t : State), regForm i = some (d, rs) → Plain s (rs ++ d.toList) →
    exec i s = .next t →
    KeepsAllButSlots s t ∧ KeepsOtherSlots s t ∧ slotRest (me t) = slotRest (me s) ∧ slotTraffic (me t) = slotTraffic (me s) ∧
    (∀ r : GReg, some r ≠ d → readG (me t) r = readG (me s) r ∧ bitOf (me t).pend r.toNat = bitOf (me s).pend r.toNat ∧
      bitOf (me t).poison r.toNat = bitOf (me s).poison r.toNat) ∧
    (joinsFlags i = false → (me t).fflags = (me s).fflags) ∧ (me t).fflags ||| (me s).fflags = (me t).fflags

/-- What stops an instruction over g registers before it issues, in this order: the first a, b or c source bound to a push port,
a d source bound to any port, and a destination bound to a pop port trap with the queue-direction fault, code 22, at the port's
number; the first register that is pending and no port parks the slot; the first source whose pop port has no item left for it,
then a destination's push port that is full or has a result under way to it, parks it; and the first poisoned source takes the
seal fault, code 9, at the EA it was poisoned at, in the production state (04 R90, R91, R117; 05 R126; 17 R438). A park leaves
the pc, the registers and everything else of the machine as they were, and the first park of an instruction sets the turn its
patience counts from (04 R91, R123). -/
def Obligations.OperandStopsAndParking : Prop :=
  (∀ (i : Instr) (d : Option GReg) (rs : List GReg) (s : State), regForm i = some (d, rs) →
     let data := regData i
     let srcs := rs.take (rs.length - data.length)
     let code (r : GReg) : Nat := portCode (me s) r
     let stops (t : State) : Prop := exec i s = .next t
     let wrong (r : GReg) : Prop := stops (takeTrap s 22 (BitVec.ofNat 64 (r.toNat - 24)))
     let pends (r : GReg) : Prop := code r = 0 ∧ bitOf (me s).pend r.toNat = true
     let empty (l : List GReg) (r : GReg) : Prop :=
       isPop (code r) = true ∧ (queueItems s s.cur (code r)).length ≤ (l.filter (· == r)).length
     let full (r : GReg) : Prop := isPush (code r) = true ∧
       (queueDepth (code r) ≤ (queueItems s s.cur (code r)).length ∨ aimedAt s s.cur r = true)
     let bad (r : GReg) : Prop := code r = 0 ∧ isUser (me s) = true ∧ bitOf (me s).poison r.toNat = true
     let clear1 : Prop := ∀ r ∈ srcs, isPush (code r) = false
     let clear2 : Prop := clear1 ∧ ∀ r ∈ data, code r = 0
     let clear3 : Prop := clear2 ∧ ∀ r, d = some r → isPop (code r) = false
     let clear4 : Prop := clear3 ∧ ∀ r ∈ rs ++ d.toList, ¬pends r
     let clear5 : Prop := clear4 ∧ ∀ l r t, srcs = l ++ r :: t → ¬empty l r
     let clear6 : Prop := clear5 ∧ ∀ r, d = some r → ¬full r
     (∀ l r t, srcs = l ++ r :: t → (∀ q ∈ l, isPush (code q) = false) → isPush (code r) = true → wrong r) ∧
     (clear1 → ∀ r ∈ data, code r ≠ 0 → wrong r) ∧
     (clear2 → ∀ r, d = some r → isPop (code r) = true → wrong r) ∧
     (clear3 → ∀ l r t, rs ++ d.toList = l ++ r :: t → (∀ q ∈ l, ¬pends q) → pends r → stops (park s (.pending r.toNat))) ∧
     (clear4 → ∀ l r t, srcs = l ++ r :: t → (∀ k q m, l = k ++ q :: m → ¬empty k q) → empty l r →
       stops (park s (.port (r.toNat - 24)))) ∧
     (clear5 → ∀ r, d = some r → full r → stops (park s (.port (r.toNat - 24)))) ∧
     (clear6 → ∀ l r t, rs = l ++ r :: t → (∀ q ∈ l, ¬bad q) → bad r →
       stops (takeTrapAt s s.cur 9 (look (me s).gea r.toNat 0) r.toNat))) ∧
  (∀ (s : State) (w : ParkWhy), KeepsAllButSlots s (park s w) ∧ KeepsOtherSlots s (park s w) ∧
     slotRest (me (park s w)) = slotRest (me s) ∧ slotTraffic (me (park s w)) = slotTraffic (me s) ∧
     (me (park s w)).pc = (me s).pc ∧ (me (park s w)).g = (me s).g ∧ (me (park s w)).fflags = (me s).fflags ∧
     (me (park s w)).st = .parked w ∧ (me (park s w)).since = some ((me s).since.getD (cycleOf s (myCore s))))

/-- A bound port: a read of a pop port takes the oldest item, leaving the rest in order; a result for a push port joins the end
and leaves the register; a port's code is a register's own only from g24 up. A poisoned or plain destination that is no port is
written, and then neither pending nor poisoned (04 R117; 05 R126; 17 R438). -/
def Obligations.PortOperands : Prop :=
  (∀ (s : State) (a b d : GReg) (f : Word → Word → Word) (v : Word) (q : List Word), isPop (portCode (me s) a) = true →
    queueItems s s.cur (portCode (me s) a) = v :: q → Plain s [b, d] →
    ∃ t, alu2 s d a b f = .next t ∧ readG (me t) d = (if d = 0 then 0 else f v (readG (me s) b)) ∧
      queueItems t t.cur (portCode (me s) a) = q ∧ t.mem = s.mem) ∧
  (∀ (s : State) (a b d : GReg) (f : Word → Word → Word), isPush (portCode (me s) d) = true → Plain s [a, b] →
    (portCode (me s) d = 5 → (myCtx s).isSome = true) →
    (queueItems s s.cur (portCode (me s) d)).length < queueDepth (portCode (me s) d) → aimedAt s s.cur d = false →
    ∃ t, alu2 s d a b f = .next t ∧ (me t).g = (me s).g ∧
      queueItems t t.cur (portCode (me s) d) =
        queueItems s s.cur (portCode (me s) d) ++ [f (readG (me s) a) (readG (me s) b)] ∧ t.mem = s.mem) ∧
  (∀ (x : Slot) (r : GReg), r.toNat < 24 → portCode x r = 0) ∧
  ∀ (s : State) (a b d : GReg) (f : Word → Word → Word), Plain s [a, b] → portCode (me s) d = 0 → bitOf (me s).pend d.toNat = false →
    alu2 s d a b f = .next (wrote s d (f (readG (me s) a) (readG (me s) b))) ∧
    (d ≠ 0 → bitOf (setG (me s) d (f (readG (me s) a) (readG (me s) b))).poison d.toNat = false ∧
      bitOf (setG (me s) d (f (readG (me s) a) (readG (me s) b))).pend d.toNat = false)

/-! The scalar floating-point instructions (08 R223, R224). -/

/-- The binary64 instructions: the exact result of the operation rounded once under FRM, SR as RNE, the flags of the operation
and of the rounding joined to FFLAGS; compares give 1 or 0; `fmin` and `fmax` an operand's own pattern; `f2i` a 64-bit integer;
`fclass` and `fabs` no flag; `fcvt` NV and 0 for an invalid g[b], and the hook-operand fault, code 16, for an FP32 hook (03 R73,
R78, R88; 08 R217, R220, R221, R223, R224). `fcadapt`: one read-modify-write of the card at g[a], in scratch: OFFSET, byte 1,
becomes the card's new offset, which the result is too, pending until it arrives; no other byte of the card changes (08 R228,
R230). -/
def Obligations.ScalarFloatAndCardResults : Prop :=
  (∀ (s : State) (d a b : GReg), Plain s [a, b, d] →
     let m := (scalarRounding (me s)).mode
     let x := dec64 (readG (me s) a)
     let y := dec64 (readG (me s) b)
     let z := dec64 (readG (me s) d)
     let go (r : Sys2Proof.Machine.Num × BitVec 6) : State := wroteFlags s d (BitVec.ofNat 64 (encNum fp64 (scalarRounding (me s)) r.1 ⟨0, 1⟩).1)
       ((encNum fp64 (scalarRounding (me s)) r.1 ⟨0, 1⟩).2.flags ||| r.2)
     let rel (r : Bool × BitVec 6) : State := wroteFlags s d (if r.1 then 1 else 0) r.2
     let pick (r : Nat × BitVec 6) : State := wroteFlags s d (BitVec.ofNat 64 r.1) r.2
     exec (.fadd d a b) s = .next (go (addNum m x y)) ∧ exec (.fsub d a b) s = .next (go (addNum m x (negNum y))) ∧
     exec (.fmul d a b) s = .next (go (mulNum x y)) ∧ exec (.fdiv d a b) s = .next (go (divNum x y)) ∧
     exec (.fma d a b) s = .next (go (fmaNum m x y z)) ∧ exec (.fsqrt d a) s = .next (go (sqrtNum x)) ∧
     exec (.i2f d a) s = .next (go (.fin (decide ((readG (me s) a).toInt < 0)) (readG (me s) a).toInt.natAbs 0, 0)) ∧
     exec (.fmin d a b) s = .next (pick (minMaxPat fp64 false (readG (me s) a).toNat (readG (me s) b).toNat x y)) ∧
     exec (.fmax d a b) s = .next (pick (minMaxPat fp64 true (readG (me s) a).toNat (readG (me s) b).toNat x y)) ∧
     exec (.fceq d a b) s = .next (rel (floatRel .vfceq x y)) ∧ exec (.fclt d a b) s = .next (rel (floatRel .vfclt x y)) ∧
     exec (.fcle d a b) s = .next (rel (floatRel .vfcle x y)) ∧
     exec (.f2i d a) s = .next (wroteFlags s d (BitVec.ofNat 64 (toIntNum 64 true m x ⟨0, 1⟩).1) (toIntNum 64 true m x ⟨0, 1⟩).2.flags) ∧
     exec (.fclass d a) s = .next (wrote s d (BitVec.ofNat 64 (classOf fp64 (readG (me s) a).toNat))) ∧
     exec (.fabs d a) s = .next (wrote s d (readG (me s) a &&& 0x7FFFFFFFFFFFFFFF)) ∧
     (let g := readG (me s) b
      let p := (readG (me s) a).toNat % 2 ^ codeWidth (fld g 4 4)
      let ok := fld g 8 56 = 0 ∧ 2 ≤ fld g 0 4 ∧ fld g 0 4 ≤ 5 ∧ 2 ≤ fld g 4 4 ∧ fld g 4 4 ≤ 5
      (¬ ok → exec (.fcvt d a b) s = .next (wroteFlags s d 0 flagNV)) ∧
      (ok → fld g 4 4 = 3 → isHook p = true → exec (.fcvt d a b) s = .next (takeTrap s 16 0)) ∧
      (ok → ¬ (fld g 4 4 = 3 ∧ isHook p = true) →
        let r := encNum (fmtOf (fld g 0 4)) (scalarRounding (me s)) (decNum (fmtOf (fld g 4 4)) p) ⟨0, 1⟩
        exec (.fcvt d a b) s = .next (wroteFlags s d (BitVec.ofNat 64 r.1) r.2.flags)))) ∧
  (∀ (s : State) (d a : GReg) (c p o : Nat), Plain s [a, d] → readG (me s) a = BitVec.ofNat 64 (nearBase + o) → o % 8 = 0 →
     (me s).sup = false → c = myCore s → p = (me s).prodid → o + 80 ≤ scratchSize s c p → scratchSize s c p ≤ 2 ^ 19 →
     acqWaits s s.cur = false → (∀ k, myCtx s = some k → (ctxAt s k).queue = []) →
     (me s).sbuf = [] → lateLoads s = false → engineOwns s (.scratch c p o) 80 = false → (me s).outL < 63 →
     (∀ b < 80, (scratchAt s c p).poison.contains ((o + b) / 32) = false) →
     let off := cardOffset (scratchBytes s c p o 80)
     ∃ t, exec (.fcadapt d a) s = .next t ∧
       scratchBytes t c p (o + 1) 1 = [BitVec.ofInt 8 off] ∧
       (∀ b, b ≠ o + 1 → scratchBytes t c p b 1 = scratchBytes s c p b 1) ∧ t.mem = s.mem ∧
       (me t).pc = nextPc s ∧ (me t).outL = (me s).outL + 1 ∧ (d ≠ 0 → bitOf (me t).pend d.toNat = true) ∧
       (me t).arrivals = (me s).arrivals ++ [⟨d.toNat, trunc64 off, false, readG (me s) a, .l, none, none⟩])

/-! Loads and stores of page 0 (05 R142 to R145). -/

/-- What a load of `n` bytes gives: their little-endian number, extended by zeros or by its sign (05 R143). Each load takes the
bytes of the newest store in the slot's buffer that overlaps it, where that store holds them all, and waits where it holds only
some (05 R144). That a load so forwarded is at the next instruction, wherever its line is, is the model's choice (log 14). -/
def Obligations.LoadValuesAndForwarding : Prop :=
  (∀ (n : Nat) (bs : List Byte), 1 ≤ n → n ≤ 8 → bs.length = n →
     (loadValue n false bs).toNat = leNat bs ∧
     (loadValue n true bs).toInt = if leNat bs < 2 ^ (8 * n - 1) then (leNat bs : Int) else (leNat bs : Int) - 2 ^ (8 * n)) ∧
  ∀ q ∈ ([(.ldb, 1, true), (.ldbu, 1, false), (.ldh, 2, true), (.ldhu, 2, false), (.ldw, 4, true), (.ldwu, 4, false),
      (.ldd, 8, false)] : List ((GReg → GReg → Int → Instr) × Nat × Bool)),
    ∀ (s u : State) (d a : GReg) (off : Int) (l : Loc) (leaf : Word) (e : StoreEntry), Plain s [a, d] →
      let n := q.2.1
      let ea := readG (me s) a + trunc64 (off * n)
      checkAccess s n needR ea = (.ok l leaf, u) → acqWaits u u.cur = false → unitAhead s l n = false →
      newestOverlap (me u) l n = some e →
      (∀ bs, forwardFrom e l n = some bs → exec (q.1 d a off) s = .next (wrote u d (loadValue n q.2.2 bs))) ∧
      (forwardFrom e l n = none → exec (q.1 d a off) s = .next (park s (.entry ea)))

/-- A load whose checks pass and which nothing makes wait: from scratch, or from a line in L1, the value at the next
instruction, every byte of memory as it was; from beyond L1 the register is pending, OUTST.L rises by one and the value is on
its way with its line, and memory changes only where the L2 writes back a line it evicts; a poisoned line takes the seal fault
at the load where L1 or scratch serves it (04 R90; 05 R131, R143; 12 R321, R322; 17 R437). That the value on its way is the one
the bytes have as the load issues is the model's choice (log 12), and so is where its line stands in the caches (log 7). A store
whose checks pass, with room in the buffer: it enters the slot's buffer with the low bytes of g[d] and OUTST.S rises by one;
every byte of memory and every register stays as it was until it drains (05 R131, R144). -/
def Obligations.LoadAndStoreResults : Prop :=
  (∀ q ∈ ([(.ldb, 1, true), (.ldbu, 1, false), (.ldh, 2, true), (.ldhu, 2, false), (.ldw, 4, true), (.ldwu, 4, false),
       (.ldd, 8, false)] : List ((GReg → GReg → Int → Instr) × Nat × Bool)),
     ∀ (s u : State) (d a : GReg) (off : Int) (l : Loc) (leaf : Word), Plain s [a, d] →
       let n := q.2.1
       let ea := readG (me s) a + trunc64 (off * n)
       let c := myCore s
       checkAccess s n needR ea = (.ok l leaf, u) → Calm s u l n →
       (∀ k p o, l = .scratch k p o → locPoisoned u c l = false →
         exec (q.1 d a off) s = .next (wrote u d (loadValue n q.2.2 (scratchBytes u k p o n)))) ∧
       (∀ k p o, l = .scratch k p o → locPoisoned u c l = true → exec (q.1 d a off) s = .next (takeTrap s 9 ea)) ∧
       (∀ pa, l = .phys pa → isAperture pa = false →
         (inL1 (coreAt u c) (lineOf pa) = true → coreLinePoisoned u c pa = false →
           exec (q.1 d a off) s = .next (wrote (fillL1 u c (lineOf pa)) d (loadValue n q.2.2 (coreBytes u c pa n)))) ∧
         (inL1 (coreAt u c) (lineOf pa) = true → coreLinePoisoned u c pa = true →
           exec (q.1 d a off) s = .next (takeTrap s 9 ea)) ∧
         (inL1 (coreAt u c) (lineOf pa) = false → (me u).outL < 63 →
           ∃ t, exec (q.1 d a off) s = .next t ∧ (∀ x, owesHome s c x = false → memByte t.mem x = memByte s.mem x) ∧
             (me t).pc = nextPc s ∧
             (me t).outL = (me s).outL + 1 ∧ (d ≠ 0 → bitOf (me t).pend d.toNat = true) ∧ (me t).g = (me s).g ∧
             (me t).arrivals = (me s).arrivals ++
               [⟨d.toNat, loadValue n q.2.2 (coreBytes u c pa n), coreLinePoisoned u c pa, ea, .l, none, some (lineOf pa)⟩] ∧
             slotRest (me t) = slotRest (me s) ∧ KeepsOtherSlots s t))) ∧
  (∀ q ∈ ([(.stb, 1), (.sth, 2), (.stw, 4), (.std, 8)] : List ((GReg → GReg → Int → Instr) × Nat)),
     ∀ (s u : State) (d a : GReg) (off : Int) (l : Loc) (leaf : Word), Plain s [a, d] →
       let n := q.2
       let ea := readG (me s) a + trunc64 (off * n)
       checkAccess s n needW ea = (.ok l leaf, u) → acqWaits u u.cur = false → storeAhead s l n = false →
       (me s).sbuf.length < 8 → (me s).outS < 63 →
       ∃ t, exec (q.1 d a off) s = .next t ∧ (∀ x, memByte t.mem x = memByte s.mem x) ∧ t.ctxs = s.ctxs ∧ KeepsOtherSlots s t ∧
         (me t).pc = nextPc s ∧ (me t).g = (me s).g ∧ (me t).pend = (me s).pend ∧ (me t).fflags = (me s).fflags ∧
         slotRest (me t) = slotRest (me s) ∧ (me t).outS = (me s).outS + 1 ∧
         (me t).sbuf = (me s).sbuf ++ [⟨l, n, readG (me s) d, ea, lastSeq u⟩])

/-- STORE_DRAIN writes the oldest buffered store where its address lies and lowers OUTST.S: its bytes there are the data's low
bytes, and every other byte of memory, or of scratch, is as it was, but where the L2 writes back a line it evicts (05 R144; 12
R318, R321, R322). A store enters the write-through buffer, which has room for it, and lies within a line. A line homed on
another die of a core with an L2 changes in that core's copy alone: the core then reads the data there, and its home stays (12
R323). RESULT_ARRIVAL: a result under way arrives at its plain register, which is pending no longer, and its counter falls; a
poisoned one leaves the register poisoned at its EA; the line that a load miss brings is then in the core's L1, where it has one
(04 R90; 05 R125, R131; 12 R321; 17 R437). -/
def Obligations.BufferedTrafficArrives : Prop :=
  (∀ (s : State) (c i : Nat) (e : StoreEntry) (q : List StoreEntry), i < 16 → (slotAt s (16 * c + i)).sbuf = e :: q →
     drainHeld s (16 * c + i) e = false →
     (∀ pa, MemOk s → e.loc = .phys pa → isAperture pa = false → pa % 32 + e.n ≤ 32 → (throughNow s c).length < 16 →
       (isRemote c pa = false ∨ hasL2 (coreAt s c) = false) →
       ∃ t, exec (.storeDrain c i) s = .next t ∧ memBytes t.mem pa e.n = leBytes e.n e.data.toNat ∧
         (∀ x, x < pa ∨ pa + e.n ≤ x → owesHome s c x = false → memByte t.mem x = memByte s.mem x) ∧ (slotAt t (16 * c + i)).sbuf = q ∧
         (slotAt t (16 * c + i)).outS = (slotAt s (16 * c + i)).outS - 1 ∧ t.ctxs = s.ctxs ∧
         ∀ j, j ≠ 16 * c + i → slotAt t j = slotAt s j) ∧
     (∀ pa, e.loc = .phys pa → isAperture pa = false → pa % 32 + e.n ≤ 32 → (throughNow s c).length < 16 →
       isRemote c pa = true → hasL2 (coreAt s c) = true → (∀ r, findLine (coreAt s c) (lineOf pa) = some r → r.data.length = 32) →
       ∃ t, exec (.storeDrain c i) s = .next t ∧ coreBytes t c pa e.n = leBytes e.n e.data.toNat ∧
         (∀ x, owesHome s c x = false → memByte t.mem x = memByte s.mem x) ∧ (slotAt t (16 * c + i)).sbuf = q ∧
         (slotAt t (16 * c + i)).outS = (slotAt s (16 * c + i)).outS - 1 ∧ t.ctxs = s.ctxs ∧
         ∀ j, j ≠ 16 * c + i → slotAt t j = slotAt s j) ∧
     (∀ k p o, e.loc = .scratch k p o →
       ∃ t, exec (.storeDrain c i) s = .next t ∧ scratchBytes t k p o e.n = leBytes e.n e.data.toNat ∧
         (∀ x, x < o ∨ o + e.n ≤ x → scratchBytes t k p x 1 = scratchBytes s k p x 1) ∧ t.mem = s.mem ∧
         (slotAt t (16 * c + i)).sbuf = q ∧ (slotAt t (16 * c + i)).outS = (slotAt s (16 * c + i)).outS - 1)) ∧
  (∀ (s : State) (c i k : Nat) (a : Arrival) (r : GReg), i < 16 → (slotAt s (16 * c + i)).arrivals[k]? = some a → a.load = none →
     a.reg = r.toNat → r ≠ 0 → portCode (slotAt s (16 * c + i)) r = 0 →
     ∃ t, exec (.resultArrival c i k) s = .next t ∧ (a.line = none → KeepsAllButSlots s t) ∧ t.mem = s.mem ∧ t.ctxs = s.ctxs ∧
       (∀ l, a.line = some l → l1Granules (coreAt s c) ≠ [] → inL1 (coreAt t c) l = true) ∧ (∀ j, j ≠ c → coreAt t j = coreAt s j) ∧
       (∀ j, j ≠ 16 * c + i → slotAt t j = slotAt s j) ∧
       bitOf (slotAt t (16 * c + i)).pend r.toNat = false ∧
       ctrOf (slotAt t (16 * c + i)) a.ctr = ctrOf (slotAt s (16 * c + i)) a.ctr - 1 ∧
       (a.poison = false → readG (slotAt t (16 * c + i)) r = a.val ∧ bitOf (slotAt t (16 * c + i)).poison r.toNat = false) ∧
       (a.poison = true → bitOf (slotAt t (16 * c + i)).poison r.toNat = true ∧ look (slotAt t (16 * c + i)).gea r.toNat 0 = a.ea) ∧
       ∀ q : GReg, q ≠ r → readG (slotAt t (16 * c + i)) q = readG (slotAt s (16 * c + i)) q)

/-- Each load and store with a failed check takes the trap R142 names with TRAPADDR its EA: a misaligned address code 6; bits 63
to 55 not all equal, or beyond the scratch of the near window, of which a supervisor slot has none, code 7; a walk that finds no
leaf, or one that does not permit the access, code 8 (05 R142; 12 R316; 13 R336, R337; 17 R423). -/
def Obligations.AccessTraps : Prop :=
  ∀ q ∈ ([(.ldb, 1, needR), (.ldbu, 1, needR), (.ldh, 2, needR), (.ldhu, 2, needR), (.ldw, 4, needR), (.ldwu, 4, needR),
      (.ldd, 8, needR), (.stb, 1, needW), (.sth, 2, needW), (.stw, 4, needW), (.std, 8, needW)] :
      List ((GReg → GReg → Int → Instr) × Nat × Need)),
    ∀ (s : State) (d a : GReg) (off : Int), Plain s [a, d] →
      let n := q.2.1
      let ea := readG (me s) a + trunc64 (off * n)
      let traps (t : State) : Prop := exec (q.1 d a off) s = .next t
      (ea.toNat % n ≠ 0 → traps (takeTrap s 6 ea)) ∧
      (ea.toNat % n = 0 → fld ea 55 9 ≠ 0 → fld ea 55 9 ≠ 511 → traps (takeTrap s 7 ea)) ∧
      (∀ o, ea.toNat % n = 0 → ea = BitVec.ofNat 64 (nearBase + o) → o < 2 ^ 44 →
        (me s).sup = true ∨ scratchSize s (myCore s) (me s).prodid ≤ o → traps (takeTrap s 7 ea)) ∧
      (ea.toNat % n = 0 → (fld ea 55 9 = 0 ∨ fld ea 55 9 = 511) → isNear ea = false →
        (∀ p, (translate s (myCore s) (ea.toNat % 2 ^ 56)).1 = .fail p → traps (accessTrap s 8 ea)) ∧
        ∀ t, (translate s (myCore s) (ea.toNat % 2 ^ 56)).1 = .page t → permits t.leaf q.2.2 (isUser (me s)) = false →
          traps (accessTrap s 8 ea))

/-! Acquires, releases, fences, atomics and cache-line operations (05 R146 to R149, R153; 14 R385 to R387). -/

/-- `lacq`: at thread scope the zero-extending load of its size; at any other the load, its value at the next instruction from
scratch or an L1 line, on its way from beyond, and at row scope from one version of the row, and then, at cluster scope or
wider, every copy the core holds of a line homed on another die dropped, the dirty ones written back first; a poisoned line
takes the seal fault where scratch or L1 serves it (05 R146, R147; 12 R326; 14 R371, R382; 17 R437; log 12: the value on its way
is the one of its issue). `srel`: at thread scope the store of its size; at any other, once the slot's earlier accesses have
performed, the core's dirty copies are written back at cluster scope or wider, and the bytes are written with no stay in the
buffer (05 R146, R147; 12 R323, R325). -/
def Obligations.AcquiresAndReleases : Prop :=
  (∀ (s u : State) (d a : GReg) (p : Scope) (z : Size) (l : Loc) (leaf : Word), Plain s [a, d] →
     (exec (.lacq d a .thread .b) s = exec (.ldbu d a 0) s ∧ exec (.lacq d a .thread .h) s = exec (.ldhu d a 0) s ∧
       exec (.lacq d a .thread .w) s = exec (.ldwu d a 0) s ∧ exec (.lacq d a .thread .d) s = exec (.ldd d a 0) s) ∧
     (let ea := readG (me s) a
      let c := myCore s
      p ≠ .thread → checkAccess s z.bytes needR ea = (.ok l leaf, u) → Calm s u l z.bytes → (me s).sbuf = [] → (me s).outL < 63 →
       let dropped (t : State) : Prop :=
         2 ≤ p.rank → (coreAt t c).remote = [] ∧ ∀ y ∈ (coreAt t c).l1, isRemote c (y.line * 32) = false
       let comes (v : Word) (bad : Bool) (line : Option Nat) : Prop :=
         ∃ t, exec (.lacq d a p z) s = .next t ∧ (me t).pc = nextPc s ∧ (me t).outL = (me s).outL + 1 ∧
           (d ≠ 0 → bitOf (me t).pend d.toNat = true) ∧ dropped t ∧
           (me t).arrivals = (me s).arrivals ++ [⟨d.toNat, v, bad, ea, .l, none, line⟩]
       (∀ k q o, l = .scratch k q o →
         (locPoisoned u c l = false →
           exec (.lacq d a p z) s = .next (wrote (acquireAt u c p) d (loadValue z.bytes false (scratchBytes u k q o z.bytes)))) ∧
         (locPoisoned u c l = true → exec (.lacq d a p z) s = .next (takeTrap s 9 ea))) ∧
       (∀ pa, l = .phys pa → isAperture pa = false →
         (p ≠ .row → inL1 (coreAt u c) (lineOf pa) = true →
           (coreLinePoisoned u c pa = false →
             let t := acquireAt (wrote (fillL1 u c (lineOf pa)) d (loadValue z.bytes false (coreBytes u c pa z.bytes))) c p
             exec (.lacq d a p z) s = .next t ∧ dropped t) ∧
           (coreLinePoisoned u c pa = true → exec (.lacq d a p z) s = .next (takeTrap s 9 ea))) ∧
         (p ≠ .row → inL1 (coreAt u c) (lineOf pa) = false →
           comes (loadValue z.bytes false (coreBytes u c pa z.bytes)) (coreLinePoisoned u c pa) (some (lineOf pa))) ∧
         (p = .row →
           let v := loadValue z.bytes false (((rowRead u c (rowOf pa)).1.drop (pa % 256)).take z.bytes)
           comes v (rowPoisoned u c (rowOf pa)) none ∧
           (isRemote c pa = false → pa % 256 + z.bytes ≤ 256 → v = loadValue z.bytes false (memBytes u.mem pa z.bytes)))))) ∧
  (∀ (s u : State) (d a : GReg) (p : Scope) (z : Size) (l : Loc) (leaf : Word), Plain s [a, d] →
     (exec (.srel d a .thread .b) s = exec (.stb d a 0) s ∧ exec (.srel d a .thread .h) s = exec (.sth d a 0) s ∧
       exec (.srel d a .thread .w) s = exec (.stw d a 0) s ∧ exec (.srel d a .thread .d) s = exec (.std d a 0) s) ∧
     (let ea := readG (me s) a
      p ≠ .thread → checkAccess s z.bytes needW ea = (.ok l leaf, u) → acqWaits u u.cur = false → releaseReady s = true →
       engineOwns s l z.bytes = false → (me s).outS < 63 →
       (∀ k q o, l = .scratch k q o →
         ∃ t, exec (.srel d a p z) s = .next t ∧ scratchBytes t k q o z.bytes = leBytes z.bytes (readG (me s) d).toNat ∧
           (me t).pc = nextPc s ∧ (me t).sbuf = [] ∧ (me t).g = (me s).g) ∧
       (∀ pa, MemOk s → l = .phys pa → isAperture pa = false → (2 ≤ p.rank ∨ isRemote (myCore s) pa = false) →
         ∃ t, exec (.srel d a p z) s = .next t ∧ memBytes t.mem pa z.bytes = leBytes z.bytes (readG (me s) d).toNat ∧
           (me t).pc = nextPc s ∧ (me t).sbuf = [] ∧ (me t).g = (me s).g ∧ (2 ≤ p.rank → ∀ y r, findLine (coreAt t (myCore s)) y = some r → r.dirty = 0))))

/-- The fences: at thread scope no effect; `rel` and `full` write the core's dirty copies back at cluster scope or wider, `acq`,
`full` and `flush` drop its copies of lines homed elsewhere, once the slot's accesses they order have performed; a release at
system scope also goes out on each aperture that the slot has stored through: that the packet is an empty WRITE with REL = 1,
and that no narrower scope sends one, is the model's choice (05 R148; 12 R325, R326; 18 R459; log 33). A core's dirty copy
written back changes at the line's home the bytes the core has written alone, to what the copy holds; every byte of memory
outside the line stays (12 R322, R324). -/
def Obligations.FencesAndWriteBacks : Prop :=
  (∀ (s : State) (p : Scope), releaseReady s = true →
     (∀ i ∈ [Instr.fenceFull .thread, .fenceAcq .thread, .fenceRel .thread, .fenceFlush .thread], exec i s = .next (advance s)) ∧
     (p ≠ .thread →
       exec (.fenceFull p) s = .next (advance (acquireAt (fenceRelease s p) (myCore s) p)) ∧
       exec (.fenceAcq p) s = .next (advance (acquireAt s (myCore s) p)) ∧
       exec (.fenceRel p) s = .next (advance (fenceRelease s p)) ∧
       exec (.fenceFlush p) s = .next (advance (acquireAt s (myCore s) p))) ∧
     (p ≠ .system ∨ (∀ q ∈ s.door.conns, q.2.wrote.contains s.cur = false) → fenceRelease s p = releaseAt s (myCore s) p) ∧
     (let u := releaseAt s (myCore s) .system
      let far (q : Nat × Conn) : Prop := q ∈ u.door.conns ∧ q.1 < 32 ∧ q.2.wrote.contains s.cur = true
      tableWaits u = false → u.door.deferred = [] → (∀ q, far q → (stageConn u q.1).isSome = true) →
        ∀ q e, far q → stageConn u q.1 = some e →
          ∃ w, Sent.packet w ∈ (fenceRelease s .system).door.outbox ∧ w.kind = 0 ∧ w.rel = true ∧ w.len = 0 ∧ w.recs = [] ∧
            w.conn = e.remote % 65536 ∧ w.win = e.rwin) ∧
     (2 ≤ p.rank →
       (∀ y r, findLine (coreAt (releaseAt s (myCore s) p) (myCore s)) y = some r → r.dirty = 0) ∧ (coreAt (acquireAt s (myCore s) p) (myCore s)).remote = [])) ∧
  (∀ (s : State) (c line : Nat) (r : RLine), MemOk s → findLine (coreAt s c) line = some r → r.dirty ≠ 0 →
     (∀ i < 32, memByte (writeBackLine s c line).mem (line * 32 + i) =
       if i < r.data.length ∧ bitOf r.dirty i = true then r.data.getD i 0 else memByte s.mem (line * 32 + i)) ∧
     ∀ a, a < line * 32 ∨ line * 32 + 32 ≤ a → memByte (writeBackLine s c line).mem a = memByte s.mem a)

/-- The atomics on an unpoisoned word of scratch, or, at its home, of a line of the core's die or at cluster scope or wider,
once the slot's earlier accesses have performed: the word becomes what R385 gives, every other byte of memory stays, but where
copies of the core are written back, and the old word is on its way to g[d], which is pending, with OUTST.L risen by one (05
R131; 12 R325; 14 R385 to R387). -/
def Obligations.AtomicResults : Prop :=
  ∀ q ∈ ([(.amoadd, false, fun n x v _ => (x + v) % 2 ^ n), (.amoswap, false, fun _ _ v _ => v),
      (.amomax, false, fun n x v _ => if (BitVec.ofNat n x).toInt < (BitVec.ofNat n v).toInt then v else x),
      (.amomin, false, fun n x v _ => if (BitVec.ofNat n v).toInt < (BitVec.ofNat n x).toInt then v else x),
      (.amoand, false, fun _ x v _ => x &&& v), (.amoor, false, fun _ x v _ => x ||| v), 
      (.amocas, true, fun _ x v w => if x = v then w else x)] :
        List ((GReg → GReg → Scope → Size → Instr) × Bool × (Nat → Nat → Nat → Nat → Nat))),
    ∀ (s u : State) (d a : GReg) (p : Scope) (z : Size) (l : Loc) (leaf : Word), Plain s [a, d] →
      (q.2.1 = true → Plain s [d + 1]) →
      let ea := readG (me s) a
      let c := myCore s
      let n := z.bytes
      let v := (readG (me s) d).toNat % 2 ^ (8 * n)
      let w := (readG (me s) (d + 1)).toNat % 2 ^ (8 * n)
      checkAccess s n needRW ea = (.ok l leaf, u) → acqWaits u u.cur = false → releaseReady s = true →
      engineOwns s l n = false → (me s).outL < 63 →
      (∀ k o r, l = .scratch k r o → locPoisoned u c l = false →
        let x := leNat (scratchBytes u k r o n)
        ∃ t, exec (q.1 d a p z) s = .next t ∧ scratchBytes t k r o n = leBytes n (q.2.2 (8 * n) x v w) ∧
          (me t).pc = nextPc s ∧ (me t).g = (me s).g ∧ (me t).outL = (me s).outL + 1 ∧ (d ≠ 0 → bitOf (me t).pend d.toNat = true) ∧
          (me t).arrivals = (me s).arrivals ++ [⟨d.toNat, BitVec.ofNat 64 x, false, ea, .l, none, none⟩]) ∧
      (∀ pa, MemOk s → l = .phys pa → isAperture pa = false → (isRemote c pa = false ∨ 2 ≤ p.rank) →
        coreLinePoisoned (releaseAt u c p) c pa = false →
        let x := leNat (memBytes (releaseAt u c p).mem pa n)
        ∃ t, exec (q.1 d a p z) s = .next t ∧ memBytes t.mem pa n = leBytes n (q.2.2 (8 * n) x v w) ∧
          (∀ y, y < pa ∨ pa + n ≤ y → owesHome s c y = false → memByte t.mem y = memByte s.mem y) ∧
          (me t).pc = nextPc s ∧ (me t).g = (me s).g ∧ (me t).outL = (me s).outL + 1 ∧ (d ≠ 0 → bitOf (me t).pend d.toNat = true) ∧
          (me t).arrivals = (me s).arrivals ++ [⟨d.toNat, BitVec.ofNat 64 x, false, ea, .l, none, none⟩])

/-- The cache-line operations over a range in a page that translates, with no store of the slot to its lines still to perform:
g[d] is the count of lines that overlap it, at once for `cprefetch`, which changes memory only where the L2 writes back a line
it evicts, and on its way for the rest; `cwb` and `cflush` leave no dirty copy of a line (05 R153; 12 R322). That the result on
its way carries address 0 for a patience trap is the model's choice (log 5). -/
def Obligations.CacheLineResults : Prop :=
  ∀ q ∈ ([.cwb, .cinv, .cflush] : List (GReg → GReg → GReg → Instr)), ∀ (s u : State) (d a b : GReg) (ls : List Loc), Plain s [a, b, d] →
    let va := readG (me s) a
    let len := min (readG (me s) b).toNat 65536
    let n := (va.toNat % 32 + max len 1 - 1) / 32 + 1
    (rangeLines s false (lineStarts va len) = .ok (ls, u) → (∀ l ∈ ls, lineHeld s l = false) → (me s).outL < 63 →
      (∃ t, exec (q d a b) s = .next t ∧ (me t).pc = nextPc s ∧ (me t).g = (me s).g ∧ (me t).outL = (me s).outL + 1 ∧
        (me t).arrivals = (me s).arrivals ++ [⟨d.toNat, BitVec.ofNat 64 n, false, 0, .l, none, none⟩]) ∧
      ∀ t pa r, Loc.phys pa ∈ ls → isAperture pa = false → (exec (.cwb d a b) s = .next t ∨ exec (.cflush d a b) s = .next t) →
        findLine (coreAt t (myCore s)) (lineOf pa) = some r → r.dirty = 0) ∧
    (rangeLines s true (lineStarts va len) = .ok (ls, u) → (∀ l ∈ ls, lineHeld s l = false) →
      ∃ t, exec (.cprefetch d a b) s = .next t ∧ (me t).pc = nextPc s ∧
        (∀ y, owesHome s (myCore s) y = false → memByte t.mem y = memByte s.mem y) ∧
        (d ≠ 0 → readG (me t) d = BitVec.ofNat 64 n))

/-! The control space and the system functions (05 R127 to R132, R150 to R152; 17 R423 to R429). -/

/-- `mfk` in a state that may use the index, with no vector instruction it must wait for: g[d] is the entry. What the slot's
entries read as: the fields of R118, R129 and R131, FFLAGS, FRM, STALERD, PATIENCE, the trap registers, HMODE, PENDMAP and
SAVEPTR; an unlisted index reads zero (05 R128, R150). While vector instructions are queued the entries of R150 leave g[d]
pending, for the value that program order gives it: VFAULT is what an `mtk` after the last of them wrote, and else what they
leave; FFLAGS starts from the last write still to take effect, else from FFLAGS as it is (log 14). -/
def Obligations.ControlReads : Prop :=
  ∀ (s : State) (d : GReg) (i : BitVec 8), Plain s [d] → kDenied (me s) i.toNat = false →
    ((isLate i.toNat = false ∨ (me s).handler = true ∨ ∀ k, myCtx s = some k → (ctxAt s k).queue = []) →
      exec (.mfk d i) s = .next (wrote s d (readK s i.toNat))) ∧
    (∀ k e, myCtx s = some k → (ctxAt s k).queue.getLast? = some e → isLate i.toNat = true → (me s).handler = false →
      ∃ t, exec (.mfk d i) s = .next t ∧ (me t).pc = nextPc s ∧ (d ≠ 0 → bitOf (me t).pend d.toNat = true) ∧
        (me t).late = (me s).late ++ [⟨d.toNat, i.toNat, e.seq, lateFloor (me s), if i = 4 then
            ((ctxAt s k).vfWrites.reverse.find? fun w => w.1 == e.seq).map fun w => w.2
          else if i = 0x0D then some (match (me s).flagWrites.getLast? with
            | some w => w.2.setWidth 64
            | none => (me s).fflags.setWidth 64)
          else some (readK s i.toNat)⟩]) ∧
    (let x := me s
     readK s 0x05 = BitVec.ofNat 64 (x.vctx.getD 0xFF) ∧ readK s 0x07 = x.fmtp ∧ readK s 0x08 = x.sclp ∧
     readK s 0x09 = x.taskid.setWidth 64 ∧ readK s 0x0A = BitVec.ofNat 64 x.prodid ∧ readK s 0x0B = x.cls.setWidth 64 ∧
     readK s 0x0C = BitVec.ofNat 64 (x.outL + 64 * x.outS + 4096 * x.outC + 262144 * x.outT) ∧
     readK s 0x0D = x.fflags.setWidth 64 ∧ readK s 0x0E = x.frm.setWidth 64 ∧ readK s 0x1E = x.stalerd.setWidth 64 ∧
     readK s 0x20 = BitVec.ofNat 64 (cycleOf s (myCore s)) ∧ readK s 0x21 = x.patience.setWidth 64 ∧
     readK s 0x40 = x.trappc ∧ readK s 0x41 = x.trapvc ∧ readK s 0x42 = x.trapcause ∧ readK s 0x43 = x.trapaddr ∧
     readK s 0x44 = x.trapvec ∧ readK s 0x45 = BitVec.ofNat 64 ((if x.sup then 1 else 0) + if x.handler then 2 else 0) ∧
     readK s 0x46 = x.hscratch0 ∧ readK s 0x47 = x.hscratch1 ∧ readK s 0x48 = x.pend.setWidth 64 ∧ readK s 0x49 = x.saveptr ∧
     readK s 0x50 = (coreAt s (myCore s)).ptroot ∧ readK s 0x51 = (coreAt s (myCore s)).asid.setWidth 64 ∧
     readK s 0x58 = (coreAt s (myCore s)).mbox ∧ readK s 0x91 = s.dimmer.hold ∧ readK s 0x93 = s.dimmer.deadline ∧
     readK s 0x14 = 0 ∧ readK s 0x3F = 0 ∧ readK s 0x60 = 0 ∧ readK s 0xFF = 0)

/-- `mtk` in a state that may use the index: the named entry takes the fields of R128's chapters, an RO or unlisted one ignores
the write; one of FFLAGS behind queued vector instructions takes effect when the last of them completes; VSTART, VFAULT and
VDCFG without a bound context trap with code 13 (03 R73; 05 R128, R151; 13 R338; 17 R426, R431, R447). -/
def Obligations.ControlWrites : Prop :=
  ∀ (s : State) (d : GReg), Plain s [d] →
    let x := me s
    let v := readG x d
    let k := coreAt s (myCore s)
    let put (i : BitVec 8) (x' : Slot) : Prop := kDenied x i.toNat = false → exec (.mtk d i) s = .next (issued s x')
    put 0x07 { x with fmtp := v } ∧ put 0x08 { x with sclp := v } ∧ put 0x1E { x with stalerd := v.setWidth 32 } ∧
    put 0x21 { x with patience := v.setWidth 32 } ∧ put 0x40 { x with trappc := v &&& ~~~1 } ∧ put 0x41 { x with trapvc := v } ∧
    put 0x42 { x with trapcause := v &&& 0x1F01FF } ∧ put 0x43 { x with trapaddr := v } ∧
    put 0x44 { x with trapvec := v &&& ~~~1 } ∧ put 0x46 { x with hscratch0 := v } ∧ put 0x47 { x with hscratch1 := v } ∧
    put 0x49 { x with saveptr := v &&& ~~~63 } ∧ put 0x0E (if 6 ≤ fld v 0 3 then x else { x with frm := v.setWidth 3 }) ∧
    (myCtx s = none → put 0x0D { x with fflags := v.setWidth 6, flagWrites := [] }) ∧
    (∀ n e, x.handler = false → myCtx s = some n → (ctxAt s n).queue.getLast? = some e →
      put 0x0D { x with flagWrites := x.flagWrites ++ [(e.seq, v.setWidth 6)] }) ∧
    (∀ i ∈ [(0x00 : BitVec 8), 0x01, 0x03, 0x05, 0x06, 0x09, 0x0A, 0x0B, 0x0C, 0x10, 0x13, 0x14, 0x18, 0x1D, 0x1F, 0x20, 0x22, 0x3F, 0x45,
      0x48, 0x52, 0x53, 0x60, 0x90, 0x94, 0x95, 0xC1, 0xFF], put i x) ∧
    (kDenied x 0x50 = false →
      exec (.mtk d 0x50) s = .next (advance (setCore s (myCore s) { k with ptroot := v &&& 0x000FFFFFFFFFE000 })) ∧
      exec (.mtk d 0x51) s = .next (advance (setCore s (myCore s) { k with asid := v.setWidth 12 })) ∧
      exec (.mtk d 0x58) s = .next (advance (setCore s (myCore s) { k with mbox := v }))) ∧
    (∀ i ∈ [(0x02 : BitVec 8), 0x04, 0x0F], myCtx s = none → exec (.mtk d i) s = .next (takeTrap s 13 0)) ∧
    (∀ n, myCtx s = some n → (ctxAt s n).queue = [] →
      exec (.mtk d 0x02) s = .next (advance (setCtx s n { ctxAt s n with vstart := v.toNat % 65536 })) ∧
      exec (.mtk d 0x04) s = .next (advance (setCtx s n { ctxAt s n with vfault := v &&& 0xFF00FFFFFFFF001F })) ∧
      exec (.mtk d 0x0F) s = .next (advance (setCtx s n { ctxAt s n with vdcfg := v })))

/-- Privilege: in the production state indices 0x40 up, and outside a supervisor slot indices 0x80 up, take the privilege trap,
code 4, and so do `tlbi`, `tlbia` and `tlbsync` in the production state, `rett` outside the handler state and `idle` outside a
supervisor slot; nothing else of the instruction happens (05 R127, R128, R152, R155). The system functions and `wait`: SYS 0
only goes on; `trap` and `brk` trap with codes 10 and 11 and their number as TRAPADDR; `yield` leaves the turns of the next 16 ×
(n + 1) cycles unused; `idle` parks a supervisor slot until it is woken; `wait` goes on where each counter it names is at or
below its field and parks otherwise (05 R132, R152). -/
def Obligations.SystemFunctions : Prop :=
  (∀ (s : State) (d a b : GReg) (i n : BitVec 8),
     (0x40 ≤ i.toNat → (me s).handler = false → (me s).sup = false →
       exec (.mfk d i) s = .next (takeTrap s 4 0) ∧ exec (.mtk d i) s = .next (takeTrap s 4 0)) ∧
     (0x80 ≤ i.toNat → (me s).sup = false →
       exec (.mfk d i) s = .next (takeTrap s 4 0) ∧ exec (.mtk d i) s = .next (takeTrap s 4 0)) ∧
     ((me s).handler = false → (me s).sup = false →
       exec (.tlbi a b) s = .next (takeTrap s 4 0) ∧ exec (.tlbia b) s = .next (takeTrap s 4 0) ∧
       exec .tlbsync s = .next (takeTrap s 4 0)) ∧
     ((me s).handler = false → exec (.rett n) s = .next (takeTrap s 4 0)) ∧
     ((me s).sup = false → exec (.idle n) s = .next (takeTrap s 4 0))) ∧
  (∀ (s : State) (n : BitVec 8) (l st c t : BitVec 4),
     exec (.sysNop n) s = .next (issued s (me s)) ∧ exec (.trap n) s = .next (takeTrap s 10 (BitVec.ofNat 64 n.toNat)) ∧
     ((me s).dbg.brk = false → exec (.brk n) s = .next (takeTrap s 11 (BitVec.ofNat 64 n.toNat))) ∧
     (∃ u, exec (.yield n) s = .next u ∧ (me u).pc = nextPc s ∧
       (me u).st = .parked (.yieldUntil (cycleOf s (myCore s) + 16 * (n.toNat + 1) + 1)) ∧ KeepsAllButSlots s u ∧ KeepsOtherSlots s u) ∧
     ((me s).sup = true → ∃ u, exec (.idle n) s = .next u ∧ (me u).pc = nextPc s ∧ (me u).st = .parked .idle ∧
       KeepsAllButSlots s u ∧ KeepsOtherSlots s u) ∧
     (let met (f : BitVec 4) (v : Nat) : Prop := f = 15 ∨ v ≤ f.toNat
      (met l (me s).outL ∧ met st (me s).outS ∧ met c (me s).outC ∧ met t (me s).outT →
        exec (.wait l st c t) s = .next (issued s (me s))) ∧
      (¬ (met l (me s).outL ∧ met st (me s).outS ∧ met c (me s).outC ∧ met t (me s).outT) →
        exec (.wait l st c t) s = .next (park s (.counters l.toNat st.toNat c.toNat t.toNat)))))

/-- Taking a trap outside the handler state, with no vector instruction queued and no strip running: TRAPPC is the pc, TRAPCAUSE
the code, TRAPADDR the address, TRAPVC zero; the slot is in the handler state, ready at TRAPVEC; its context is frozen; no g
register, flag, counter, buffer or byte of memory changes (17 R424, R426). With an instruction at the head of the queue of which
strips have still to start, none running and none that must go on to its end, TRAPVC holds its address with bit 0 set, and every
entry stays, at its restart point, a cross-element one that has only passed strips at its start (07 R188; 09 R240; 17 R424,
R426); that a tree-fed one that has begun behind it keeps what it has drained is the model's choice (log 11). While a strip
runs, the slot issues nothing and its context starts none, and the trap is taken once it has ended (17 R424). -/
def Obligations.TrapEntry : Prop :=
  (∀ (s : State) (c : Nat) (addr : Word), (me s).handler = false → (me s).st = .ready → c < 128 →
     (∀ k, myCtx s = some k → (ctxAt s k).queue = [] ∧ (ctxAt s k).trap = none ∧ ∀ q ∈ (coreAt s (ctxCore k)).strips, q.ctx ≠ k) →
     let t := takeTrap s c addr
     (me t).handler = true ∧ (me t).st = .ready ∧ (me t).freezing = none ∧ (me t).pc = (me s).trapvec ∧ (me t).trappc = (me s).pc &&& ~~~1 ∧
     (me t).trapcause = BitVec.ofNat 64 c ∧ (me t).trapaddr = addr ∧ (me t).trapvc = 0 ∧ (me t).g = (me s).g ∧
     (me t).pend = (me s).pend ∧ (me t).poison = (me s).poison ∧ (me t).fflags = (me s).fflags ∧ (me t).sup = (me s).sup ∧
     (me t).trapvec = (me s).trapvec ∧ (me t).hscratch0 = (me s).hscratch0 ∧ (me t).hscratch1 = (me s).hscratch1 ∧
     slotTraffic (me t) = slotTraffic (me s) ∧ t.mem = s.mem ∧ KeepsOtherSlots s t ∧
     ∀ k, myCtx s = some k → (ctxAt t k).frozen = true ∧ (ctxAt t k).vl = (ctxAt s k).vl ∧ (ctxAt t k).v = (ctxAt s k).v) ∧
  ((∀ (s : State) (k c : Nat) (addr : Word), (me s).handler = false → myCtx s = some k →
     (∃ t ∈ (coreAt s (ctxCore k)).strips, t.ctx = k ∧ t.way < 16) →
     takeTrap s c addr = setMe (setCtx s k { ctxAt s k with frozen := true }) { me s with freezing := some (.trap c addr 0) }) ∧
   ∀ (s : State) (k c : Nat) (addr : Word) (e : QEntry) (q : List QEntry), (me s).handler = false → myCtx s = some k →
     (ctxAt s k).queue = e :: q → (ctxAt s k).trap = none → allStarted (ctxAt s k) e = false → runsOn s k = none →
     (∀ t ∈ (coreAt s (ctxCore k)).strips, t.ctx ≠ k) →
     let t := takeTrap s c addr
     (me t).handler = true ∧ (me t).trapvc = e.addr ||| 1 ∧ (me t).pc = (me s).trapvec ∧ (ctxAt t k).frozen = true ∧
     (ctxAt t k).queue.map (fun e => (e.seq, e.snapV, e.snapM)) = (ctxAt s k).queue.map (fun e => (e.seq, e.snapV, e.snapM)) ∧
     (ctxAt t k).queue.map (·.restart) =
       (ctxAt s k).queue.map fun e => if entryKind e = .cross ∧ e.st = .queued then e.start else e.restart)

/-- A trap in the handler state is a double trap: the slot stops, TRAPPC, TRAPVC, TRAPCAUSE, TRAPADDR and the pc keep what the
first trap left, and so does every g register (17 R429). `rett` in the handler state: the pc is TRAPPC, the handler state is
left, the context is thawed; the trap registers, the g registers and memory stay. Straight after a trap it is back at the
instruction (05 R152; 17 R428). -/
def Obligations.DoubleTrapAndReturn : Prop :=
  (∀ (s : State) (c : Nat) (addr : Word), (me s).handler = true →
     let t := takeTrap s c addr
     (me t).st = .stopped .doubleTrap none ∧ (me t).handler = true ∧ (me t).pc = (me s).pc ∧ (me t).trappc = (me s).trappc ∧
     (me t).trapvc = (me s).trapvc ∧ (me t).trapcause = (me s).trapcause ∧ (me t).trapaddr = (me s).trapaddr ∧ (me t).g = (me s).g) ∧
  ((∀ (s : State) (n : BitVec 8), (me s).handler = true →
     ∃ t, exec (.rett n) s = .next t ∧ (me t).pc = (me s).trappc ∧ (me t).handler = false ∧ (me t).st = .ready ∧ (me t).g = (me s).g ∧
       (me t).trappc = (me s).trappc ∧ (me t).trapcause = (me s).trapcause ∧ (me t).sup = (me s).sup ∧
       (me t).pend = (me s).pend ∧ (me t).fflags = (me s).fflags ∧ slotTraffic (me t) = slotTraffic (me s) ∧ t.mem = s.mem ∧
       KeepsOtherSlots s t ∧ ∀ k, myCtx s = some k → (ctxAt t k).frozen = false) ∧
   ∀ (s : State) (c : Nat) (addr : Word) (n : BitVec 8), (me s).handler = false → bitOf (me s).pc 0 = false →
     (∀ k, myCtx s = some k → (ctxAt s k).queue = [] ∧ (ctxAt s k).trap = none ∧ ∀ q ∈ (coreAt s (ctxCore k)).strips, q.ctx ≠ k) →
     ∃ t, exec (.rett n) (takeTrap s c addr) = .next t ∧ (me t).pc = (me s).pc ∧ (me t).g = (me s).g ∧ (me t).handler = false)

/-- The translation instructions outside the production state, once the slot's earlier accesses have performed: `tlbi` leaves no
translation of its page under the selected numbers in any TLB of the package, `tlbia` none under them at all; `tlbsync` goes on
where nothing uses one that was removed, and parks where something does (05 R154, R155). That an entry with G = 1 goes whatever
number is selected is the model's choice (log 13). -/
def Obligations.TranslationMaintenance : Prop :=
  ∀ (s : State) (a b : GReg), isUser (me s) = false → releaseReady s = true → Plain s [a, b] →
    let sel := readG (me s) b
    let asid := if bitOf sel 12 then none else some (sel.setWidth 12)
    (∃ t, exec (.tlbi a b) s = .next t ∧ (me t).pc = nextPc s ∧ (me t).g = (me s).g ∧
      (∀ c, ∀ e ∈ (coreAt t c).tlb, ¬ (onPage e (some (readG (me s) a)) = true ∧ selected e asid = true)) ∧
      (∀ d, ∀ e ∈ (dieAt t d).tlb, ¬ (onPage e (some (readG (me s) a)) = true ∧ selected e asid = true)) ∧
      (me t).invals.length = (me s).invals.length + 1) ∧
    (∃ t, exec (.tlbia b) s = .next t ∧ (me t).pc = nextPc s ∧ (me t).g = (me s).g ∧
      (∀ c, ∀ e ∈ (coreAt t c).tlb, selected e asid = false) ∧ (∀ d, ∀ e ∈ (dieAt t d).tlb, selected e asid = false)) ∧
    ((me s).invals.all (invalDone s) = true → ∃ t, exec .tlbsync s = .next t ∧ (me t).pc = nextPc s ∧ (me t).invals = [] ∧
      (me t).g = (me s).g) ∧
    ((me s).invals.all (invalDone s) = false → exec .tlbsync s = .next (park s (.entry 0)))

/-! Vector instructions at issue (06 R158, R171 to R177; 07 R181; 08 R211, R212; 09 R238; 13 R348, R349; 10; 11). -/

/-- `vset` and `vsetk` outside the handler state with a context bound and no vldff in its queue: VL is the greatest multiple of
the type's block length at or below both the request and VLMAX, VTYPE the type, VSTART 0, HIWATER no lower, and g[d] the new VL;
an invalid type traps with code 15. `pgang` and `vdcfg` set their value or trap with code 14 (06 R172 to R176; 10 R272; 11 R289,
R291). -/
def Obligations.VectorTypeResults : Prop :=
  ∀ (s : State) (d a b : GReg) (k : Nat), (me s).handler = false → myCtx s = some k → trimming (ctxAt s k) = false → Plain s [a, b, d] →
    let y := ctxAt s k
    let x := readG (me s) a
    let t := readG (me s) b
    let set (n : Nat) (ty : BitVec 20) : State :=
      wrote (setCtx s k { y with vl := n, vtype := ty, vstart := 0, hiElems := max y.hiElems n }) d (BitVec.ofNat 64 n)
    let granted (n l : Nat) : Prop := n % l = 0 ∧ n ≤ x.toNat ∧ n ≤ vlmax y ∧ min x.toNat (vlmax y) < n + l
    (vtypeValid t = true → ∃ n, exec (.vset d a b) s = .next (set n (t.setWidth 20)) ∧ granted n (vtBlock (t.setWidth 20))) ∧
    (vtypeValid t = false → exec (.vset d a b) s = .next (takeTrap s 15 0)) ∧
    (∃ n, exec (.vsetk d a) s = .next (set n y.vtype) ∧ granted n (vtBlock y.vtype)) ∧
    (∀ n ≤ 9, x.toNat = 2 ^ n → exec (.pgang a) s = .next (advance (setCtx s k { y with logG := n }))) ∧
    ((∀ n ≤ 9, x.toNat ≠ 2 ^ n) → exec (.pgang a) s = .next (takeTrap s 14 0)) ∧
    (vdcfgValid x = true → exec (.vdcfg a) s = .next (advance (setCtx s k { y with vdcfg := x }))) ∧
    (vdcfgValid x = false → exec (.vdcfg a) s = .next (takeTrap s 14 0))

/-- Every instruction of page 2, 3 or 4 whose operands its page allows takes its place at the end of the context's queue, with
the operands, VL, VTYPE and VSTART that it finds. Page 2: even registers where SEW is 64, its operand limits, room for its relay
(07 R180, R181; 09 R238). Page 3: its format column, its control operand and the widths of its registers checked; a `vqpack`
with ADAPT pins its card too (08 R211, R212, R222, R226, R229). Page 4: its formats, its operand limits, its alignment, and no
row form on the near window (13 R348, R349). -/
def Obligations.VectorIssue : Prop :=
  (∀ (i : Instr) (v : VecForm) (s : State) (k : Nat), vecForm i = some v → vecPage v.op = 2 → CanIssue s k v.op (formRegs v) →
     let y := ctxAt s k
     let e := formEntry s k v
     Countable s e → (vtSew y.vtype = 64 → ∀ r ∈ v.srcs, r.toNat % 2 = 0) → operandsOk y e = true → relayFits y e = true →
       exec i s = .next (queued s k e)) ∧
  (∀ (i : Instr) (v : VecForm) (s : State) (k : Nat), vecForm i = some v → vecPage v.op = 3 → CanIssue s k v.op (formRegs v) →
     let y := ctxAt s k
     let e := formEntry s k v
     (formatOf v.op).has (vtFmt y.vtype) = true → operandsOk y e = true → relayFits y e = true →
     (vtSew y.vtype = 64 → ∀ r ∈ v.srcs ++ v.dsts, r.toNat % 2 = 0) →
     (destWidth v.op y.vtype e.gb = 64 → ∀ r ∈ v.dsts, r.toNat % 2 = 0) →
       (isAdaptive e = false → Countable s e → exec i s = .next (queued s k e)) ∧
       (isAdaptive e = true → ∀ q u, let ea := (me s).fmtp + BitVec.ofNat 64 (80 * (e.gb.toNat / 256 % 64))
         ea.toNat % 8 = 0 → pinAtIssue s k { e with acc := [ea] } needRW ea 80 = .ok q u → Countable s q →
         exec i s = .next (queued u k q))) ∧
  (∀ (i : Instr) (v : VecForm) (s : State) (k : Nat), vecForm i = some v → vecPage v.op = 4 → CanIssue s k v.op (formRegs v) →
     let y := ctxAt s k
     let e := formEntry s k v
     Countable s e → (vtSew y.vtype = 64 → ∀ r ∈ v.srcs, r.toNat % 2 = 0) → memFmtOk v.op y.vtype = true → memOwnOk e = true →
     memAligned e = true → (isRowForm v.op = true → isNear e.ga = false) →
       exec i s = .next (queued s k e))

/-- Page 5 at issue: each instruction that meets what its entry asks, which `productAdmits` spells out instruction by
instruction, joins the queue: a `pload` with its band, an `mma` or `mmav` with its buffer's row count, and a `tld`, `tst` or
`mmav` that reads a verdict word with its pages pinned (10 R269, R274, R278, R282, R285 to R287; 11 R296, R303). What the checks
of `mma`, `pload` and `prow` refuse: no band or no held buffer, a band or a count of rows out of range (10 R269, R274, R278). -/
def Obligations.ProductIssueAndChecks : Prop :=
  (∀ (i : Instr) (v : VecForm) (s u : State) (k : Nat) (q : QEntry), vecForm i = some v → vecPage v.op = 5 →
     CanIssue s k v.op (formRegs v) → productAdmits s k (formEntry s k v) q u → Countable s q → exec i s = .next (queued u k q)) ∧
  (∀ (s : State) (k : Nat) (y : Ctx) (e : QEntry),
     (let b := y.bandIssue
      let h := look y.holdsIssue (e.ga.toNat % 2) hold0
      b.regs ≠ 0 → h.held = true → ftWidth h.ft = ftWidth b.ft → ftInt h.ft = ftInt b.ft → h.l = b.l → h.k = 2 ^ y.logG * b.kc →
        y.vl % 2 ^ y.logG = 0 → e.f.d.toNat + h.m ≤ 32 → (e.f.d.toNat + h.m ≤ b.band ∨ b.band + b.regs ≤ e.f.d.toNat) →
        checkMma y e = some { e with acc := [BitVec.ofNat 64 h.m] }) ∧
     (y.bandIssue.regs = 0 ∨ (look y.holdsIssue (e.ga.toNat % 2) hold0).held = false → checkMma y e = none) ∧
     (fld e.gb 12 6 = 0 ∨ 32 < e.f.d.toNat + fld e.gb 12 6 ∨ fld e.gb 24 12 = 0 → checkPload s k e = .trap 14 0) ∧
     (fld e.gb 16 5 = 0 ∨ 16 < fld e.gb 16 5 ∨ 8192 < prowBytes e + prowScales e → checkProw s k e = .trap 14 0))

/-- What an entry changes as it joins: the queue grows by it at its end, the instruction count, VSTART and HIWATER move as R176
and R177 give, its counters rise and its scalar result's register is pending; the pc is past the instruction. Nothing else of
the context, of another slot, of a register's value or of memory changes (05 R131; 06 R176, R177; 09 R238). -/
def Obligations.VectorQueueFrame : Prop :=
  ∀ (s : State) (k : Nat) (e : QEntry), myCtx s = some k →
    let t := queued s k e
    let y := ctxAt s k
    let y' := ctxAt t k
    y'.queue = y.queue ++ [e] ∧ y'.seq = e.seq ∧ y'.vstart = 0 ∧ y'.hiRegs = max y.hiRegs (regsWritten e) ∧
    y'.vl = y.vl ∧ y'.vtype = y.vtype ∧ y'.v = y.v ∧ y'.m = y.m ∧ y'.accs = y.accs ∧ y'.vfault = y.vfault ∧ y'.vdcfg = y.vdcfg ∧
    (∀ j, j ≠ k → ctxAt t j = ctxAt s j) ∧ KeepsOtherSlots s t ∧ t.cores = s.cores ∧ t.mem = s.mem ∧
    (∀ a, memByte t.mem a = memByte s.mem a) ∧
    (me t).pc = nextPc s ∧ (me t).g = (me s).g ∧ (me t).fflags = (me s).fflags ∧ slotRest (me t) = slotRest (me s) ∧
    (me t).sbuf = (me s).sbuf ∧ (me t).arrivals = (me s).arrivals ∧
    (owesG e.op = true → portCode (me s) e.f.d = 0 → e.f.d ≠ 0 → bitOf (me t).pend e.f.d.toNat = true) ∧
    (owesG e.op = false → (me t).pend = (me s).pend)

/-- What stops a vector instruction before it is queued: the handler state, code 4; no bound context, code 13; a vldff in the
queue, a wait; with its operands plain and all that its page asks met, a full queue, or a counter of OUTST at its limit, a wait
(04 R123; 05 R131; 06 R158; 09 R238; 13 R354; 17 R427). An odd register where SEW is 64 on page 2 is the vector-operand fault,
code 14 (06 R158). -/
def Obligations.VectorIssueStops : Prop :=
  ∀ (i : Instr) (v : VecForm) (s : State), vecForm i = some v →
    ((me s).handler = true → exec i s = .next (takeTrap s 4 0)) ∧
    ((me s).handler = false → myCtx s = none → exec i s = .next (takeTrap s 13 0)) ∧
    (∀ k, (me s).handler = false → myCtx s = some k → trimming (ctxAt s k) = true → exec i s = .next (park s (.entry 0))) ∧
    (∀ k q u, (me s).handler = false → myCtx s = some k → trimming (ctxAt s k) = false → Plain s (formRegs v) →
      (readsSeed v.op (ctxAt s k).vtype = true → Plain s [23]) → vecAdmits s k v q u →
      (16 ≤ (ctxAt s k).queue.length → exec i s = .next (park s .vectorQueue)) ∧
      ((ctxAt s k).queue.length < 16 → ¬Countable s q → exec i s = .next (park s (.entry 0)))) ∧
    (∀ k, (me s).handler = false → myCtx s = some k → trimming (ctxAt s k) = false → vecPage v.op = 2 → Plain s (formRegs v) →
      vtSew (ctxAt s k).vtype = 64 → (∃ r ∈ v.srcs, r.toNat % 2 = 1) → exec i s = .next (takeTrap s 14 0))

/-! What vector instructions compute (06 R158; 07 R184 to R210). -/

/-- The element-wise integer instructions on elements of width w, x and z (a register's element or a scalar truncated to w) and
d the old element, all below 2^w: the two-operand family, the scalar forms, multiply-accumulate, the one-operand forms with the
counts of bits, leading and trailing zeros, and `vsext` and `vzext` from 2^n bits, the moves and `vid` (07 R190 to R194). -/
def Obligations.IntegerElementResults : Prop :=
  ∀ (w n i x z d : Nat), w ∈ [1, 2, 4, 8, 16, 32, 64] → x < 2 ^ w → z < 2 ^ w → d < 2 ^ w →
    let X := BitVec.ofNat w x
    let Z := BitVec.ofNat w z
    let D := BitVec.ofNat w d
    let lim (v : Int) : Int := max (-2 ^ (w - 1)) (min v (2 ^ (w - 1) - 1))
    let is (op : VOp) (r : BitVec w) : Prop := intOp op w n i x z d = r.toNat
    (is .vadd (X + Z) ∧ is .vsub (X - Z) ∧ is .vrsubS (Z - X) ∧ is .vand (X &&& Z) ∧ is .vor (X ||| Z) ∧ is .vxor (X ^^^ Z) ∧
     is .vandn (X &&& ~~~Z) ∧ is .vmin (BitVec.ofInt w (min X.toInt Z.toInt)) ∧ is .vmax (BitVec.ofInt w (max X.toInt Z.toInt)) ∧
     is .vminu (BitVec.ofNat w (min x z)) ∧ is .vmaxu (BitVec.ofNat w (max x z)) ∧ is .vmul (X * Z) ∧
     is .vmulh (BitVec.ofInt w (X.toInt * Z.toInt / 2 ^ w)) ∧ is .vmulhu (BitVec.ofNat w (x * z / 2 ^ w)) ∧
     is .vsll (X <<< (z % w)) ∧ is .vsrl (X >>> (z % w)) ∧ is .vsra (X.sshiftRight (z % w)) ∧
     is .vsadd (BitVec.ofInt w (lim (X.toInt + Z.toInt))) ∧ is .vssub (BitVec.ofInt w (lim (X.toInt - Z.toInt))) ∧
     is .vsaddu (BitVec.ofNat w (min (x + z) (2 ^ w - 1))) ∧ is .vssubu (BitVec.ofNat w (x - z)) ∧
     is .vmacc (D + X * Z) ∧ is .vnmsac (D - X * Z) ∧ is .vneg (-X) ∧ is .vnot (~~~X) ∧ is .vid (BitVec.ofNat w i) ∧
     is .vabs (BitVec.ofInt w (X.toInt.natAbs : Int))) ∧
    (is .vaddS (X + Z) ∧ is .vsubS (X - Z) ∧ is .vandS (X &&& Z) ∧ is .vorS (X ||| Z) ∧ is .vxorS (X ^^^ Z) ∧
     is .vminS (BitVec.ofInt w (min X.toInt Z.toInt)) ∧ is .vmaxS (BitVec.ofInt w (max X.toInt Z.toInt)) ∧
     is .vsllS (X <<< (z % w)) ∧ is .vsrlS (X >>> (z % w)) ∧ is .vsraS (X.sshiftRight (z % w)) ∧ is .vmulS (X * Z) ∧
     is .vmv X ∧ is .vmvS Z) ∧
    is .vpopc (BitVec.ofNat w ((List.range w).filter X.getLsbD).length) ∧
    (∀ k ≤ w, x < 2 ^ (w - k) → (k < w → 2 ^ (w - k - 1) ≤ x) → is .vclz (BitVec.ofNat w k)) ∧
    (∀ k ≤ w, x % 2 ^ k = 0 → (k < w → x / 2 ^ k % 2 = 1) → is .vctz (BitVec.ofNat w k)) ∧
    (2 ^ n < w → is .vsext ((X.setWidth (2 ^ n)).signExtend w) ∧ is .vzext ((X.setWidth (2 ^ n)).setWidth w))

/-- An element-wise page 2 instruction over elements lo to hi − 1 of a context: an active element of the destination is the
instruction's value of the elements of its sources as they were, a scalar operand truncated to SEW; an inactive one, an element
outside the range and every other register but, where SEW is 64, the upper of the pair stay. `vsel` writes every element of the
range, from a where the mask bit is 1 − MINV and from b elsewhere (06 R158; 07 R185, R188 to R191, R195). Compares and mask
instructions write mask bits alone: a compare its relation where active, signed for `vclt`, `vcle` and `vclt.s`, and the mask
algebra every bit of its range (07 R196, R197). -/
def Obligations.IntegerLaneAndMaskResults : Prop :=
  ∀ (y : Ctx) (e : QEntry) (lo hi i : Nat), vtSew e.vtype ≤ 64 →
    let w := vtSew e.vtype
    let d := e.f.d.toNat
    let y' := laneInt y e lo hi
    let act : Bool := predicate (maskBits y e.f.k.reg.toNat) e.f.k i
    let a := (src y e.f.a.toNat).at w i
    let b := (src y e.f.b.toNat).at w i
    let z := if e.op ∈ scalarOps ∨ e.op ∈ [VOp.vceqS, .vcltS] then e.gb.toNat % 2 ^ w
      else if e.op = .vmvS then e.ga.toNat % 2 ^ w else b
    let sgn (v : Nat) : Int := (BitVec.ofNat w v).toInt
    let bit (c : Ctx) (r : Nat) : Bool := (maskBits c r).getD i false
    (e.op ∈ elementOps ∨ e.op = .vsel →
      (e.op ≠ .vsel → lo ≤ i → i < hi → act = true →
        (src y' d).at w i = intOp e.op w e.f.b.toNat i a z ((src y d).at w i) % 2 ^ w) ∧
      (e.op ≠ .vsel → act = false → (src y' d).at w i = (src y d).at w i) ∧
      (e.op = .vsel → lo ≤ i → i < hi → (src y' d).at w i = if bit y e.f.k.reg.toNat ≠ e.f.k.inv then a else b) ∧
      (i < lo ∨ hi ≤ i → (src y' d).at w i = (src y d).at w i) ∧
      (∀ r, r ≠ d → (w = 64 → r ≠ d + 1) → look y'.v r [] = look y.v r []) ∧
      y'.m = y.m ∧ y'.vl = y.vl ∧ y'.vtype = y.vtype ∧ y'.queue = y.queue) ∧
    (e.op ∈ compareOps →
      (lo ≤ i → i < hi → act = true →
        bit y' d = match e.op with
          | .vceq | .vceqS => a == z
          | .vcne => a != z
          | .vclt | .vcltS => decide (sgn a < sgn z)
          | .vcltu => decide (a < z)
          | .vcle => decide (sgn a ≤ sgn z)
          | _ => decide (a ≤ z)) ∧
      (i < lo ∨ hi ≤ i ∨ act = false → bit y' d = bit y d)) ∧
    (e.op ∈ maskOps →
      (lo ≤ i → i < hi →
        bit y' d = match e.op with
          | .mand => bit y e.f.a.toNat && bit y e.f.b.toNat
          | .mor => bit y e.f.a.toNat || bit y e.f.b.toNat
          | .mxor => xor (bit y e.f.a.toNat) (bit y e.f.b.toNat)
          | .mandn => bit y e.f.a.toNat && !bit y e.f.b.toNat
          | .mnot => !bit y e.f.a.toNat
          | .mmv => bit y e.f.a.toNat
          | .mset => true
          | _ => false) ∧
      (i < lo ∨ hi ≤ i → bit y' d = bit y d)) ∧
    (e.op ∈ compareOps ++ maskOps →
      y'.v = y.v ∧ (∀ r, r ≠ d → look y'.m r [] = look y.m r []) ∧ y'.vl = y.vl ∧ y'.vtype = y.vtype ∧ y'.queue = y.queue)

/-- Reductions and counts over the active elements from VSTART to VL − 1. A reduction combines g[b] with each: `vredsum` adds
them modulo 2^64, widened signed where FMT is int and unsigned otherwise, the others take the signed or unsigned maximum or
minimum, or AND, OR or XOR. `mpopc` counts set bits; `mfirst` and `vprobe` give the first, or all ones; `msbf` and `msif` write
the active bits below the first set one, or up to it, or all of them where none is set (07 R198, R199, R208 to R210). -/
def Obligations.CrossElementResults : Prop :=
  ∀ (y : Ctx) (e : QEntry), vtSew e.vtype ≤ 64 →
    let w := vtSew e.vtype
    let on := (tab (e.vl - e.start) e.start id).filter fun i => predicate (maskBits y e.f.k.reg.toNat) e.f.k i
    let bit (i : Nat) : Bool := (maskBits y e.f.a.toNat).getD i false
    let x (i : Nat) : Nat := (src y e.f.a.toNat).at w i
    let sgn (i : Nat) : Int := (BitVec.ofNat w (x i)).toInt
    let uns (i : Nat) : Word := BitVec.ofNat 64 (x i)
    let gives (v : Word) : Prop := crossInt y e = (y, some v, [])
    (e.op = .vredsum → vtFmt e.vtype = 0 → gives (BitVec.ofInt 64 (e.gb.toNat + (on.map sgn).sum))) ∧
    (e.op = .vredsum → vtFmt e.vtype ≠ 0 → gives (BitVec.ofNat 64 (e.gb.toNat + (on.map x).sum))) ∧
    (e.op = .vredmax → gives (BitVec.ofInt 64 (on.foldl (fun m i => max m (sgn i)) e.gb.toInt))) ∧
    (e.op = .vredmin → gives (BitVec.ofInt 64 (on.foldl (fun m i => min m (sgn i)) e.gb.toInt))) ∧
    (e.op = .vredmaxu → gives (BitVec.ofNat 64 (on.foldl (fun m i => max m (x i)) e.gb.toNat))) ∧
    (e.op = .vredminu → gives (BitVec.ofNat 64 (on.foldl (fun m i => min m (x i)) e.gb.toNat))) ∧
    (e.op = .vredand → gives (on.foldl (fun m i => m &&& uns i) e.gb)) ∧
    (e.op = .vredor → gives (on.foldl (fun m i => m ||| uns i) e.gb)) ∧
    (e.op = .vredxor → gives (on.foldl (fun m i => m ^^^ uns i) e.gb)) ∧
    (e.op = .mpopc → gives (BitVec.ofNat 64 (on.filter bit).length)) ∧
    (e.op = .mfirst → (∀ i ∈ on, bit i = false) → gives 0xFFFFFFFFFFFFFFFF) ∧
    (e.op = .mfirst → ∀ l i r, on = l ++ i :: r → (∀ j ∈ l, bit j = false) → bit i = true → gives (BitVec.ofNat 64 i)) ∧
    (e.op = .vprobe → (∀ i ∈ on, x i ≠ e.gb.toNat % 2 ^ w) → gives 0xFFFFFFFFFFFFFFFF) ∧
    (e.op = .vprobe → ∀ l i r, on = l ++ i :: r → (∀ j ∈ l, x j ≠ e.gb.toNat % 2 ^ w) → x i = e.gb.toNat % 2 ^ w →
      gives (BitVec.ofNat 64 i)) ∧
    (e.op = .msbf ∨ e.op = .msif →
      let y' := (crossInt y e).1
      let now (i : Nat) : Bool := (maskBits y' e.f.d.toNat).getD i false
      (crossInt y e).2 = (none, []) ∧ y'.v = y.v ∧
      (∀ i ∈ on, (∀ j ∈ on, bit j = false) → now i = true) ∧
      (∀ f ∈ on, bit f = true → (∀ j ∈ on, j < f → bit j = false) → ∀ i ∈ on,
        now i = if e.op = .msbf then decide (i < f) else decide (i ≤ f)) ∧
      (∀ i, i ∉ on → now i = (maskBits y e.f.d.toNat).getD i false) ∧
      (∀ r, r ≠ e.f.d.toNat → look y'.m r [] = look y.m r []))

/-- The movement of elements, over the active ones from VSTART to VL − 1, the sources as they were: the slides, `vxchg`,
`vcompress` and `vexpand` with the mask as selection and the counts starting at VSTART, `vperm` and `vgath8` with an element
fault of index range where the index names none, `vconflict`, and `vmatch`, which writes mask bits alone. Every element that an
instruction does not write and every other register stay (07 R200 to R207). -/
def Obligations.CrossElementMoves : Prop :=
  ∀ (y : Ctx) (e : QEntry), vtSew e.vtype ≤ 64 →
    let w := vtSew e.vtype
    let on := (tab (e.vl - e.start) e.start id).filter fun i => predicate (maskBits y e.f.k.reg.toNat) e.f.k i
    let a (i : Nat) : Nat := (src y e.f.a.toNat).at w i
    let b (i : Nat) : Nat := (src y e.f.b.toNat).at w i
    let y' := (crossInt y e).1
    let faults := (crossInt y e).2.2
    let old (i : Nat) : Nat := (src y e.f.d.toNat).at w i
    let new (i : Nat) : Nat := (src y' e.f.d.toNat).at w i
    let rank (i : Nat) : Nat := (on.filter fun j => decide (j < i)).length
    let up := if e.op = .vslideup ∨ e.op = .vslidedn then e.f.b.toNat + 1 else e.gb.toNat
    let none17 (ok : Nat → Bool) : Prop := faults = (on.filter fun i => !ok i).map fun i => (⟨i, 17, 0⟩ : ElemFault)
    (e.op = .vslideup ∨ e.op = .vslideupS → faults = [] ∧ ∀ i ∈ on, new i = if up ≤ i then a (i - up) else old i) ∧
    (e.op = .vslidedn ∨ e.op = .vslidednS → faults = [] ∧ ∀ i ∈ on, new i = if i + up < e.vl then a (i + up) else 0) ∧
    (e.op = .vxchg → faults = [] ∧ ∀ i ∈ on, new i = if i ^^^ e.gb.toNat < e.vl then a (i ^^^ e.gb.toNat) else 0) ∧
    (e.op = .vcompress → faults = [] ∧ (∀ i ∈ on, new (e.start + rank i) = a i) ∧
      ∀ i, i < e.start ∨ e.start + on.length ≤ i → new i = old i) ∧
    (e.op = .vexpand → faults = [] ∧ ∀ i ∈ on, new i = a (e.start + rank i)) ∧
    (e.op = .vperm → none17 (fun i => decide (b i < e.vl)) ∧ ∀ i ∈ on, new i = if b i < e.vl then a (b i) else old i) ∧
    (e.op = .vgath8 →
      let r (i : Nat) : Nat := b i / e.vl
      let reg (i : Nat) : Nat := e.f.a.toNat + (if w = 64 then 2 * r i else r i)
      let ok (i : Nat) : Bool := decide (r i ≤ 7) && decide (reg i ≤ 31)
      none17 ok ∧ ∀ i ∈ on, new i = if ok i then (src y (reg i)).at w (b i % e.vl) else old i) ∧
    (e.op = .vconflict → faults = [] ∧
      (∀ i ∈ on, (∀ j ∈ on, j < i → a j ≠ a i) → new i = 2 ^ w - 1) ∧
      ∀ i ∈ on, ∀ j ∈ on, j < i → a j = a i → (∀ l ∈ on, j < l → l < i → a l ≠ a i) → new i = j % 2 ^ w) ∧
    (e.op = .vmatch → (crossInt y e).2 = (none, []) ∧ y'.v = y.v ∧
      (∀ i ∈ on, (maskBits y' e.f.d.toNat).getD i false = decide (∃ j < e.gc.toNat, b j = a i)) ∧
      (∀ i, i ∉ on → (maskBits y' e.f.d.toNat).getD i false = (maskBits y e.f.d.toNat).getD i false) ∧
      ∀ r, r ≠ e.f.d.toNat → look y'.m r [] = look y.m r []) ∧
    (e.op ∈ moveOps → (crossInt y e).2.1 = none ∧ y'.m = y.m ∧ y'.vl = y.vl ∧ y'.vtype = y.vtype ∧ y'.queue = y.queue ∧
      (∀ r, r ≠ e.f.d.toNat → (w = 64 → r ≠ e.f.d.toNat + 1) → look y'.v r [] = look y.v r []) ∧
      (e.op ≠ .vcompress → ∀ i, i ∉ on → new i = old i))

/-- The element-wise instructions of page 3 over elements lo to hi − 1 (08 R213). An active element that is no hook takes the
result of its own operands, read from registers in their format with FTZ or, of a scalar form, from g[b] as binary64, and joins
its flags: arithmetic and the fused forms rounded once into FMT with the element's own draws, `vfmin` and `vfmax`, the sign
forms, `vfclass`, `vfround`, the conversions, `vqunpack` out of its block's scale, `vsfu`, `vhksel` (08 R216 to R220, R222,
R227, R233, R235). A hook keeps its destination and records an element fault, code 16; every other element and register stays.
Compares and `vhktest` write mask bits (08 R221, R235). `vqscale` and `vqpack` write a block's scale word, and `vqpack` its
codes; `vfwht` writes a group; a block or group with a hook is left as it was (08 R215, R227, R232). Reductions fold the active
elements that are no hooks in ascending order, in FP32 or FP64, or in the tree of `vfredsumT`; with none of them they give g[b],
or g[c]; `vqamax` gives the largest magnitude, `vhkcnt` a count, and `vtopk` the k best candidates, best first (08 R225, R234,
R236, R237). That a zero sum of `vfwht` is +0, and that a group with a quiet NaN, +∞ and −∞ raises no NV, is the model's choice
(log 15). -/
def Obligations.FloatElementResults : Prop :=
  ∀ (y : Ctx) (e : QEntry), vtSew e.vtype ≤ 64 →
    let t := e.vtype
    let w := vtSew t
    let d := e.f.d.toNat
    let f := fmtOf (vtFmt t)
    let c := entryRounding e
    let gb := e.gb
    let a := src y e.f.a.toNat
    let b := src y e.f.b.toNat
    let raw (r : Src) (i : Nat) : Sys2Proof.Machine.Num := match blockFmt (vtFmt t) with
      | some k => decBlock k (r.at w i) (scaleAt r w i)
      | none => decNum f (r.at w i)
    let val (r : Src) (i : Nat) : Sys2Proof.Machine.Num := flushNum c (raw r i)
    let on (i : Nat) : Bool := predicate (maskBits y e.f.k.reg.toNat) e.f.k i
    (∀ lo hi : Nat, opKind e.op = .lane → isFloatOp e.op = true → e.op ∉ [VOp.vqscale, .vqpack, .vfwht] → firstElem e ≤ lo →
      let o := laneWork y e lo hi
      let range := tab (hi - lo) lo id
      let u := src y e.f.c.toNat
      let n := floatSources e.op
      let hook (i : Nat) : Bool := vtFmt t == 3 && e.op != .vhksel && e.op != .vhktest &&
        (isHook (a.at w i) || (n != 1 && isHook (b.at w i)) || (n == 3 && isHook (u.at w i)))
      (e.op ∉ [VOp.vfceq, .vfclt, .vfcle, .vfcun, .vhktest] → destWidth e.op t gb ≤ 64 →
        let dw := destWidth e.op t gb
        let res (i : Nat) : Nat × BitVec 6 :=
          let p := a.at w i
          let q := b.at w i
          let x := val a i
          let z := if n = 1 then flushNum c (decNum fp64 gb.toNat) else val b i
          let v := val u i
          let pb := BitVec.ofNat w p
          let sign := BitVec.intMin w
          let asFmt (g : FloatFmt) (k : Rounding) (r : Sys2Proof.Machine.Num × BitVec 6) : Nat × BitVec 6 :=
            let s := encNum g k r.1 (raiseN (numSt e.seed i) r.2)
            (s.1, s.2.flags)
          let int (m : RMode) : Nat × BitVec 6 :=
            let r := toIntNum (2 ^ fld gb 0 3) (!bitOf gb 3) m x (numSt e.seed i)
            (r.1, r.2.flags)
          match e.op with
          | .vfadd | .vfaddS => asFmt f c (addNum c.mode x z)
          | .vfsub | .vfsubS => asFmt f c (addNum c.mode x (negNum z))
          | .vfrsubS => asFmt f c (addNum c.mode z (negNum x))
          | .vfmul | .vfmulS => asFmt f c (mulNum x z)
          | .vfdiv => asFmt f c (divNum x z)
          | .vfsqrt => asFmt f c (sqrtNum x)
          | .vfma => asFmt f c (fmaNum c.mode x z v)
          | .vfms => asFmt f c (fmaNum c.mode x z (negNum v))
          | .vfnma => asFmt f c (fmaNum c.mode (negNum x) z (negNum v))
          | .vfnms => asFmt f c (fmaNum c.mode (negNum x) z v)
          | .vfmin => minMaxPat f false p q x z
          | .vfmax => minMaxPat f true p q x z
          | .vfabs => ((pb &&& ~~~sign).toNat, 0)
          | .vfneg => ((pb ^^^ sign).toNat, 0)
          | .vfsgnj => ((pb &&& ~~~sign ||| BitVec.ofNat w q &&& sign).toNat, 0)
          | .vfclass => (classOf f p, 0)
          | .vfround =>
            let r := integralNum c.mode x (numSt e.seed i)
            let s := encNum f { c with ftz := false } r.1 r.2
            (s.1, s.2.flags)
          | .vfcvt | .vqunpack => asFmt (fmtOf (fld gb 0 4)) c (x, 0)
          | .vf2i => int c.mode
          | .vf2iT => int .rtz
          | .vi2f => asFmt (fmtOf (fld gb 0 4)) c (numOfInt (if vtFmt t = 0 then pb.toInt else p), 0)
          | .vhksel => (if isHook p then q else p, 0)
          | _ =>
            let r := sfuElem e c (raw a i) (numSt e.seed i)
            (r.1, r.2.flags)
        (∀ i ∈ range, on i = true → hook i = false → (src o.ctx d).at dw i = (res i).1 % 2 ^ dw) ∧
        (∀ i, i ∉ range ∨ on i = false ∨ hook i = true → (src o.ctx d).at dw i = (src y d).at dw i) ∧
        o.flags = (range.filter fun i => on i && !hook i).foldl (fun g i => g ||| (res i).2) 0 ∧
        (∀ r, r ≠ d → (dw = 64 → r ≠ d + 1) → look o.ctx.v r [] = look y.v r []) ∧ o.ctx.m = y.m) ∧
      (e.op ∈ [VOp.vfceq, .vfclt, .vfcle, .vfcun, .vhktest] →
        let res (i : Nat) : Bool × BitVec 6 :=
          let x := val a i
          let z := val b i
          let sig := flagIf (isSig x || isSig z) flagNV
          let any := flagIf (isNan x || isNan z) flagNV
          match e.op with
          | .vfceq => (!isNan x && !isNan z && !ltNum x z && !ltNum z x, sig)
          | .vfclt => (ltNum x z, any)
          | .vfcle => (!isNan x && !isNan z && !ltNum z x, any)
          | .vfcun => (isNan x || isNan z, sig)
          | _ => (isHook (a.at w i), 0)
        (∀ i ∈ range, on i = true → hook i = false → (maskBits o.ctx d).getD i false = (res i).1) ∧
        (∀ i, i ∉ range ∨ on i = false ∨ hook i = true → (maskBits o.ctx d).getD i false = (maskBits y d).getD i false) ∧
        o.flags = (range.filter fun i => on i && !hook i).foldl (fun g i => g ||| (res i).2) 0 ∧ o.ctx.v = y.v ∧
        (∀ r, r ≠ d → look o.ctx.m r [] = look y.m r [])) ∧
      o.faults = (range.filter fun i => on i && hook i).map fun i => (⟨i, 16, 0⟩ : ElemFault)) ∧
    (∀ (lo hi b0 : Nat) (k : BlockFmt), e.op = .vqscale ∨ e.op = .vqpack → isAdaptive e = false → blockFmt (vtFmt t) = some k →
      w ≤ 16 → fld gb 0 4 ∈ [2, 3, 5, 6, 7] → 0 < unitOf e → b0 % unitOf e = 0 → lo ≤ b0 → b0 + unitOf e ≤ hi →
      let o := laneWork y e lo hi
      let block := tab (unitOf e) b0 id
      let g := fmtOf (fld gb 0 4)
      let xs := block.map fun i => flushNum c (decNum g (a.at (fmtWidth g) i))
      let hook (i : Nat) : Bool := fld gb 0 4 == 3 && isHook (a.at 32 i)
      let row (z : Ctx) (i : Nat) : Row32 := (look z.v d []).getD i 0
      let scale (z : Ctx) (i : Nat) : Nat := (row z i).toNat / 2 ^ w % (if isMx k then 2 ^ 8 else 2 ^ 16)
      let cut (v : Nat) : Nat := v % (if isMx k then 2 ^ 8 else 2 ^ 16)
      (block.any hook = true → ∀ i ∈ block, row o.ctx i = row y i ∧ (hook i = true → (⟨i, 16, 0⟩ : ElemFault) ∈ o.faults)) ∧
      (block.any hook = false → e.op = .vqscale → ∀ i ∈ block, (src o.ctx d).at w i = (src y d).at w i ∧
        scale o.ctx i = cut (scaleBlock k (vtGap t) xs).1) ∧
      (block.any hook = false → e.op = .vqpack →
        let word := if bitOf gb 4 then (scaleBlock k (vtGap t) xs).1 else (row y b0).toNat / 2 ^ w % 65536
        ∀ i ∈ block, (src o.ctx d).at w i = (encBlock k c.mode word e.seed b0 xs).1.getD (i - b0) 0 % 2 ^ w ∧
          scale o.ctx i = cut (if xs.any (fun x => isNan x || isInf x) then (if isMx k then 0xFF else 0xFFFF) else word))) ∧
    (∀ lo hi b0 : Nat, e.op = .vfwht → blockFmt (vtFmt t) = none →
      let k := gb.toNat % 16
      let group := tab (2 ^ k) b0 id
      let o := laneWork y e lo hi
      let xs := group.map (val a)
      let hook (i : Nat) : Bool := vtFmt t == 3 && isHook (a.at w i)
      let both : Bool := (xs.any fun x => isInf x && signOf x) && (xs.any fun x => isInf x && !signOf x)
      b0 % 2 ^ k = 0 → lo ≤ b0 → b0 + 2 ^ k ≤ hi → ∀ i ∈ group,
        (src o.ctx d).at w i =
          (if group.any hook then (src y d).at w i
           else if xs.any isNan || both then fmtNan f % 2 ^ w
           else
             let r := walshSum c.mode (i - b0) xs
             (encNum f c (overRoot k r.1) (raiseN (numSt e.seed i) r.2)).1 % 2 ^ w) ∧
        (hook i = true → (⟨i, 16, 0⟩ : ElemFault) ∈ o.faults)) ∧
    (e.op ∈ [VOp.vfredsumO, .vfredsumT, .vfredmax, .vfredmin, .vfdotO, .vqamax] →
      let g := if e.op = .vfdotO then e.gc else gb
      let hook (i : Nat) : Bool := vtFmt t == 3 && (isHook (a.at w i) || (e.op == .vfdotO && isHook (b.at w i)))
      let act := (tab (e.vl - e.start) e.start id).filter fun i => on i && decide (firstElem e ≤ i)
      let l := act.filter fun i => !hook i
      let faults := (act.filter hook).map fun i => (⟨i, 16, 0⟩ : ElemFault)
      let wide (x : Sys2Proof.Machine.Num) : Word := BitVec.ofNat 64 (encNum fp64 ⟨.rne, false, false, 0⟩ x ⟨0, 1⟩).1
      let k : Rounding := { c with mode := noSr (vtMode t), sat := false }
      let h := if vtFmt t = 4 then fp64 else fp32
      let init := flushNum k (decNum fp64 g.toNat)
      let item (r : Src) (i : Nat) : Sys2Proof.Machine.Num := flushNum k (raw r i)
      let once (acc : BitVec 6) (r : Sys2Proof.Machine.Num × BitVec 6) : Sys2Proof.Machine.Num × BitVec 6 :=
        let s := encNum h k r.1 ⟨r.2, 1⟩
        (decNum h s.1, acc ||| s.2.flags)
      let gives (r : Sys2Proof.Machine.Num × BitVec 6) : Prop := crossFloat y e = ⟨y, some (wide r.1), r.2, faults⟩
      (l = [] → crossFloat y e = ⟨y, some g, 0, faults⟩) ∧
      (l ≠ [] → e.op = .vfredsumO → gives (l.foldl (fun r i => once r.2 (addNum k.mode r.1 (item a i))) (init, 0))) ∧
      (l ≠ [] → e.op = .vfdotO → gives (l.foldl (fun r i => once r.2 (fmaNum k.mode (item a i) (item b i) r.1)) (init, 0))) ∧
      (l ≠ [] → e.op = .vfredmax ∨ e.op = .vfredmin → gives (l.foldl (fun r i =>
        let x := item a i
        (if isNan r.1 && isNan x then .nan false else if isNan r.1 then x else if isNan x then r.1
         else if pickFirst (e.op == .vfredmax) r.1 x then r.1 else x,
         r.2 ||| flagIf (isSig r.1 || isSig x) flagNV)) (init, 0))) ∧
      (l ≠ [] → e.op = .vfredsumT →
        let r := treeRoot (clog2 e.vl) h k (tab (2 ^ clog2 e.vl) 0 fun i => if l.contains i then some (item a i) else none) 0
        ∀ v, r.1 = some v → gives (once r.2 (addNum k.mode init v))) ∧
      (l ≠ [] → e.op = .vqamax →
        let xs := flushNum c (decNum fp64 gb.toNat) :: l.map (val a)
        (xs.any isNan = true → crossFloat y e = ⟨y, some 0x7FF8000000000000, flagIf (xs.any isSig) flagNV, faults⟩) ∧
        (xs.any isNan = false → ∃ x ∈ xs, (∀ z ∈ xs, ltNum (absNum x) (absNum z) = false) ∧ gives (absNum x, 0)))) ∧
    (e.op = .vhkcnt →
      let hits := (tab (e.vl - e.start) e.start id).filter fun i => on i && isHook (a.at 32 i) &&
        (gb == 0 || (a.at 32 i / 2 ^ 31 % 2 == 1) == (gb == 1))
      crossFloat y e = ⟨y, some (BitVec.ofNat 64 hits.length), 0, []⟩) ∧
    (e.op = .vtopk → e.start < e.vl →
      let o := crossFloat y e
      let p (i : Nat) : Nat := a.at 32 i
      let act := (tab (e.vl - e.start) e.start id).filter on
      let cand := act.filter fun i => if isHook (p i) then p i / 2 ^ 31 % 2 == 0 else !isNan (decNum fp32 (p i))
      let key (i : Nat) : Sys2Proof.Machine.Num := if isHook (p i) then decNum bf16 (p i % 2 ^ 16) else flushNum c (decNum fp32 (p i))
      let ahead (i j : Nat) : Prop := ltNum (key j) (key i) = true ∨ ltNum (key i) (key j) = false ∧ i < j
      o.result = none ∧ o.faults = [] ∧ o.flags = flagIf (act.any fun i => !isHook (p i) && isSig (decNum fp32 (p i))) flagNV ∧
      ((∀ i ∈ cand, isNan (key i) = false) → ∃ best : List Nat, best.length = min gb.toNat cand.length ∧ (∀ i ∈ best, i ∈ cand) ∧
        best.Pairwise ahead ∧ (∀ i ∈ cand, i ∉ best → ∀ j ∈ best, ahead j i) ∧
        ∀ j < gb.toNat, (src o.ctx d).at 32 j = (best[j]?.elim 0xFF800000 p) ∧
          ((look o.ctx.v (d + 1) []).getD j 0).toNat =
            (best[j]?.elim 0xFFFFFFFF fun i => ((look y.v (e.f.a.toNat + 1) []).getD i 0).toNat)))

/-- Page 4 on places of the core's own die or of scratch, in a format without blocks; a place is what R352 gives an address. A
strip of a load gives each active element the bits at its address: g[a] and the elements before it, g[a] and i times g[b], or
g[a] and index i of vB times the element size, an index of `vldw` at g[c] or past it being a deferred element fault; `vldsync`
sets its mask to whether its scope missed. A store puts each active element at its address, in ascending order, parts of a byte
apart, and `vstxa` on integers adds to each place what its elements bring. `vldrow` and `vstrow` move a row of 256 bytes to or
from the elements of each active row slot, at g[a] and 256 times its index; `vamorow` combines a row with that of a slot as its
rows are updated. The lowest faulting element stops a strip at its address, nothing of it done; of `vldff` the elements below it
are loaded and the rest dropped. Nothing else in registers and memory changes. STRIP_START gives the machine that strip's work,
whole as it starts (log 11) (13 R350 to R352, R354 to R359; 17 R437; 09 R250). That a strip waits for lines which an engine owns
is log 11's. -/
def Obligations.VectorMemoryResults : Prop :=
  (∀ (s : State) (x : Nat) (e : QEntry) (lo hi : Nat) (at_ : Nat → Loc), lo ≤ hi → hi ≤ e.vl → e.seen = [] → e.acc = [] → e.snapV = [] →
    s.door.remotes = [] → blockFmt (vtFmt e.vtype) = none → vtSew e.vtype ≤ 64 → memFmtOk e.op e.vtype = true → MemOk s →
    (∀ l n, engineOwns s l n = false) → hi ≤ 2 ^ 16 →
    let y := ctxAt s x
    let w := vtSew e.vtype
    let n := max (w / 8) 1
    let d := e.f.d.toNat
    let rows : Bool := e.op ∈ [.vldrow, .vstrow, .vamorow]
    let row := 2048 / w
    let idx (i : Nat) : Nat := ((look y.v e.f.b.toNat []).getD i 0).toNat
    let bit (i : Nat) : Nat := if e.op ∈ [.vld, .vst, .vldff] then i * w % 8 else 0
    let active (i : Nat) : Bool := decide (lo ≤ i) && decide (i < hi) && predicate (maskBits y e.f.k.reg.toNat) e.f.k i &&
      (!rows || i % row == 0)
    let ea (i : Nat) : Word := e.ga + (match e.op with
      | .vld | .vst | .vldff => BitVec.ofNat 64 (i * w / 8)
      | .vlds | .vsts => BitVec.ofNat 64 i * e.gb
      | .vldrow | .vstrow | .vamorow => BitVec.ofNat 64 (256 * idx (i / row))
      | _ => BitVec.ofNat 64 (idx i * n))
    let finds (i : Nat) (f : Found) : Prop := findVec s x e (pinsOf s x e.seq) (memNeed e.op) (ea i) = f
    let reads : Prop := e.op ∉ [.vst, .vsts, .vstx, .vstrow]
    let good (i : Nat) : Prop := finds i (.place (at_ i)) ∧
      (∀ pa, at_ i = .phys pa → isAperture pa = false ∧ (rows = true → pa % 256 = 0) ∧
        ∀ k < 256, (rows = true ∨ k < n) → isRemote (ctxCore x) (pa + k) = false ∧ owesHome s (ctxCore x) (pa + k) = false) ∧
      (reads → badAt s (ctxCore x) (at_ i) (if rows = true then 256 else n) = false)
    let elem (t : State) (i : Nat) : Nat := (src (ctxAt t x) d).at w i
    let there (t : State) (i : Nat) : Nat := leNat (bytesAt t (at_ i) n) / 2 ^ bit i % 2 ^ w
    let keepsRegs (u : State) : Prop := ∀ r, r ≠ d → (w = 64 → r ≠ d + 1) → look (ctxAt u x).v r [] = look y.v r []
    let keepsMem (u : State) (but : Loc → Prop) : Prop :=
      ∀ l, ¬but l → (∀ a, l = .phys a → owesHome s (ctxCore x) a = false) → placeByte u l = placeByte s l
    let did (f : QEntry) (u : State) : Prop := stripMem s x e lo hi = .did u f ∧ f.flags = e.flags ∧ f.seq = e.seq ∧ u.slots = s.slots
    (e.op ∈ [.vld, .vlds, .vldx, .vldff, .vldw, .vldsync] →
      let misses (i : Nat) : Bool := findVec s x e (pinsOf s x e.seq) needR (ea i) == .miss
      let hits (i : Nat) : Bool := active i && !(e.op == .vldw && decide (e.gc.toNat ≤ idx i)) && !misses i
      (∀ i, hits i = true → good i) →
      ∃ u f, did f u ∧ f.st = e.st ∧ keepsRegs u ∧ (keepsMem u fun _ => False) ∧
        (∀ q, q ∈ f.faults ↔ q ∈ e.faults ∨ e.op = .vldw ∧ ∃ i, active i = true ∧ e.gc.toNat ≤ idx i ∧ q = ⟨i, 17, ea i⟩) ∧
        (e.op ≠ .vldsync → (ctxAt u x).m = y.m) ∧
        (e.op = .vldsync → ∀ i, active i = true → (maskBits (ctxAt u x) e.f.c.toNat).getD i false = misses i) ∧
        ∀ i, elem u i = if hits i = true then there s i else elem s i) ∧
    (e.op ∈ [.vst, .vsts, .vstx] → (∀ i, active i = true → good i) →
      (∀ i j, active i = true → active j = true → at_ i = at_ j → 8 ≤ w ∨ ea i = ea j) →
      ∃ u f, did f u ∧ f.faults = e.faults ∧ f.st = e.st ∧ ctxAt u x = y ∧
        (keepsMem u fun l => ∃ i, active i = true ∧ ∃ k < n, l = locAdd (at_ i) k) ∧
        (∀ i, active i = true → (∀ j, active j = true → i < j → ∀ k < n, ∀ m < n, locAdd (at_ i) k ≠ locAdd (at_ j) m ∨ w < 8) →
          there u i = elem s i) ∧
        (w < 8 → ∀ i b, active i = true → b < 8 → (∀ j, active j = true → at_ j = at_ i → b < bit j ∨ bit j + w ≤ b) →
          bitOf (placeByte u (at_ i)) b = bitOf (placeByte s (at_ i)) b)) ∧
    (e.op = .vstxa → vtFmt e.vtype ≤ 1 → (∀ i, active i = true → idx i < e.gc.toNat → good i) →
      let adds (i : Nat) : Bool := active i && decide (idx i < e.gc.toNat)
      (∀ i j, adds i = true → adds j = true → at_ i = at_ j ∨ ∀ k < n, ∀ m < n, locAdd (at_ i) k ≠ locAdd (at_ j) m) →
      ∃ u f, did f u ∧ f.st = e.st ∧ (ctxAt u x).v = y.v ∧ (keepsMem u fun l => ∃ i, adds i = true ∧ ∃ k < n, l = locAdd (at_ i) k) ∧
        (∀ q, q ∈ f.faults ↔ q ∈ e.faults ∨ ∃ i, active i = true ∧ e.gc.toNat ≤ idx i ∧ q = ⟨i, 17, ea i⟩) ∧
        ∀ i, adds i = true →
          there u i = (there s i + (((List.range hi).filter fun j => adds j && decide (at_ j = at_ i)).map (elem s)).sum) % 2 ^ w) ∧
    (e.op = .vldrow → (∀ i, active i = true → good i) →
      ∃ u f, did f u ∧ f.faults = e.faults ∧ f.st = e.st ∧ keepsRegs u ∧ (keepsMem u fun _ => False) ∧
        ∀ i, elem u i = if active (i / row * row) = true then leNat (bytesAt s (locAdd (at_ (i / row * row)) (i % row * n)) n) else elem s i) ∧
    (e.op = .vstrow → (∀ i, active i = true → good i) →
      ∃ u f, did f u ∧ f.faults = e.faults ∧ f.st = e.st ∧ ctxAt u x = y ∧
        (keepsMem u fun l => ∃ i, active i = true ∧ ∃ k < 256, l = locAdd (at_ i) k) ∧
        ∀ i, active i = true → (∀ j, active j = true → i < j → at_ j ≠ at_ i) →
          ∀ k < row, leNat (bytesAt u (locAdd (at_ i) (k * n)) n) = elem s (i + k)) ∧
    (∀ i pa, e.op = .vamorow → w = 16 → active i = true → (∀ j, active j = true → j = i) → good i → at_ i = .phys pa →
      ∃ u f, stripMem s x e lo hi = .did u f ∧ u.mem = s.mem ∧ f.faults = e.faults ∧ ∀ k < row,
        leNat (bytesAt (flushRows u x f).1 (.phys (pa + 2 * k)) 2) =
          (rowOp e (leNat (memBytes s.mem (pa + 2 * k) 2)) (elem s (i + k))).1) ∧
    ∀ i cause, active i = true → (∀ j, active j = true → j < i → good j) →
      (finds i (.fault cause) ∨ (∃ l, finds i (.place l) ∧ badAt s (ctxCore x) l (if rows = true then 256 else n) = true) ∧ reads ∧ cause = 9) →
      (e.op ∈ [.vld, .vlds, .vldx, .vldsync, .vst, .vsts, .vstx, .vldrow, .vstrow] → stripMem s x e lo hi = .stop s cause (ea i)) ∧
      (e.op = .vldff → (∀ j, active j = true → i ≤ j) → stripMem s x e lo hi = .stop s cause (ea i)) ∧
      (∀ j, e.op = .vldff → active j = true → j < i → ∃ u f, stripMem s x e lo hi = .did u f ∧ f.st = .done ∧ f.faults = e.faults ∧
        f.acc = [BitVec.ofNat 64 i, BitVec.ofNat 64 cause] ∧ keepsRegs u ∧
        ∀ k, elem u k = if active k = true ∧ k < i then there s k else elem s k)) ∧
  ∀ (s : State) (x : Nat) (e : QEntry) (p : StripPart), vecPage e.op = 4 →
    let z := setCtx s x (setLatches (ctxAt s x) x e p.way (stripGroups (ctxAt s x) p.way).1 p.hi p.lo p.top)
    (∀ u cause addr, stripMem z x e p.lo p.top = .stop u cause addr → startStrip s x e p = stopStrip u x e p cause addr) ∧
    ∀ u f, stripMem z x e p.lo p.top = .did u f → f.seq = e.seq →
      let t := startStrip s x e p
      t.mem = (lastStripDone u x { f with restart := p.hi, passes := 0 }).1.mem ∧ (ctxAt t x).v = (ctxAt u x).v ∧ (ctxAt t x).m = (ctxAt u x).m ∧
      ∀ q ∈ (ctxAt t x).queue, q.seq = e.seq → q.restart = p.hi ∧ q.faults = f.faults ∧ (e.op ≠ .vamorow → q.flags = f.flags)

/-- Page 5. A strip of `mma` gives each active column, row by row of its M registers, the element, or zero, with S of each block
position added and rounded in turn, by the array's map, S being R276's sum of a block of the held row times the column's
weights: for an integer class the exact sum of products modulo 2^32. A column with a hook among its M elements keeps them, with
an element fault. `mmav` under a declared threshold gives the same value where no test of the monitor settles an element, and at
the first position that one does a hook with its bound. `ptree` puts the sum of a gang's elements, one by one, in its first
element, and keeps one that holds a hook. STRIP_START gives the machine a strip's work, whole as it starts (log 11) (10 R276 to
R279, R282; 11 R298 to R300, R304). -/
def Obligations.ProductResults : Prop :=
  (∀ (s : State) (x : Nat) (e : QEntry) (way lo hi : Nat), lo ≤ hi →
    let y := ctxAt s x
    let b := e.band
    let int := ftInt b.ft
    let c := productRounding e.vtype
    let zero := bitOf e.ga 1
    let nb := bandBlocks b
    let rows := (e.acc.headD 0).toNat
    let active (j : Nat) : Bool := decide (lo ≤ j) && decide (j < hi) && predicate (maskBits y e.f.k.reg.toNat) e.f.k j
    let elem (t : State) (m j : Nat) : Nat := ((look (ctxAt t x).v (e.f.d.toNat + m) []).getD j 0).toNat
    let blk (j q : Nat) : Nat := blockAt y (arrayOf (stripGroups y way) j) q
    let held (m k : Nat) : Sys2Proof.Machine.Num := heldRow (heldFor y e) x e.seq (fld e.ga 0 1) m k
    let col (j : Nat) : Nat := columnBits (bandRegs y b) j
    let at_ (j q i : Nat) : Nat := (j % gangOf e * nb + blk j q) * b.l + i
    let sum (j m q : Nat) : Sys2Proof.Machine.Num × BitVec 6 := blockSum (ftWidth b.ft == 16) (if int = true then { c with ftz := false } else c)
      ((List.range b.l).map fun i => held m (at_ j q i)) (columnBlock b (col j) q)
    let first (m j : Nat) : Nat := if zero = true then 0 else elem s m j
    let acc (j m n : Nat) : Nat := (List.range n).foldl (fun a q => (accStep int c a (sum j m q)).1) (first m j)
    let hooked (j : Nat) : Prop := zero = false ∧ int = false ∧ ∃ m < rows, isHook (elem s m j) = true
    let others (t : State) : Prop := t.mem = s.mem ∧ t.slots = s.slots ∧
      ∀ r, (r < e.f.d.toNat ∨ e.f.d.toNat + rows ≤ r) → look (ctxAt t x).v r [] = look y.v r []
    (∀ j, ∀ q < nb, blk j q < nb) →
    (∃ u f, stripMma s x e way lo hi = .did u f ∧ others u ∧
      (∀ j, ∀ m < rows, (active j = false ∨ hooked j → elem u m j = elem s m j) ∧
        (active j = true → ¬hooked j → elem u m j = acc j m nb)) ∧
      ∀ q, q ∈ f.faults ↔ q ∈ e.faults ∨ ∃ j, active j = true ∧ hooked j ∧ q = ⟨j, 16, 0⟩) ∧
    (∀ (j m : Nat) (za : Nat → Int) (zb : Nat → Nat → Int), int = true → 0 < b.l → (∀ k, held m k = numOfInt (za k)) →
      (∀ q, ∀ i < b.l, (columnBlock b (col j) q)[i]? = some (numOfInt (zb q i))) →
      BitVec.ofNat 32 (acc j m nb) = BitVec.ofInt 32 (first m j + ((List.range nb).map fun q =>
        ((List.range b.l).map fun i => za (at_ j q i) * zb q i).sum).sum)) ∧
    ∀ front wait reads, int = false → readsVerdict e = false →
      let u := (stripMmav s x e way lo hi front wait reads).st
      let sufs (m j : Nat) : List Sys2Proof.Machine.Num := (suffixes c.ftz (laterBound y e j) ((List.range nb).map fun q =>
        termBound c.ftz b.l ((heldFor y e).bound.getD (m * nb + blk j q) (Config.lostByte x e.seq (2 + fld e.ga 0 1) (m * nb + blk j q))).toNat
          (boundAt b (col j) q))).1
      let test (j m k : Nat) : Option (Bool × Sys2Proof.Machine.Num) := (monitorTest c.ftz (fld e.vdcfg 0 2) (decNum fp32 (fld e.vdcfg 32 32))
        (flushNum c (decNum fp32 (acc j m k))) ((sufs m j).getD k (.fin false 0 0)) (nb - k)).1
      others u ∧ ∀ j, ∀ m < rows, (active j = false ∨ zero = false ∧ isHook (elem s m j) = true → elem u m j = elem s m j) ∧
        (active j = true → zero = true ∨ isHook (elem s m j) = false →
          ((∀ k < nb, test j m k = none) → elem u m j = acc j m nb) ∧
          ∀ k below bound, k < nb → (∀ i < k, test j m i = none) → test j m k = some (below, bound) →
            elem u m j = hookPat below k bound ∧ isHook (elem u m j) = true)) ∧
  (∀ (o y : Ctx) (e : QEntry), (∀ f, f < e.vl → f % gangOf e = 0 → f + gangOf e ≤ e.vl) →
    let g := gangOf e
    let int : Bool := decide (vtFmt e.vtype ≤ 1)
    let c := productRounding e.vtype
    let xs (f : Nat) : List Nat := (List.range g).map fun i => ((look o.v e.f.a.toNat []).getD (f + i) 0).toNat
    let elem (z : Ctx) (i : Nat) : Nat := ((look z.v e.f.d.toNat []).getD i 0).toNat
    let heads (f : Nat) : Bool := f % g == 0 && decide (e.start ≤ f) && decide (f < e.vl)
    let hooked (f : Nat) : Bool := !int && (xs f).any isHook
    let step (a v : Nat) : Nat := (accStep false c a (flushNum c (decNum fp32 v), 0)).1
    let t := gangTree o y e
    t.result = none ∧ (∀ r, r ≠ e.f.d.toNat → look t.ctx.v r [] = look y.v r []) ∧
    (∀ f, heads f = false ∨ hooked f = true → elem t.ctx f = elem y f) ∧
    (∀ f, heads f = true → int = true → elem t.ctx f = (xs f).sum % 2 ^ 32) ∧
    (∀ f, heads f = true → int = false → hooked f = false →
      let v := (xs f).tail.foldl step ((xs f).headD 0)
      elem t.ctx f = if isNan (decNum fp32 v) = true then 0x7FC00000 else v) ∧
    ∀ q, q ∈ t.faults ↔ ∃ f, heads f = true ∧ hooked f = true ∧ q = ⟨f, 16, 0⟩) ∧
  ∀ (s : State) (x : Nat) (e : QEntry) (p : StripPart),
    let z := setCtx s x (setLatches (ctxAt s x) x e p.way (stripGroups (ctxAt s x) p.way).1 p.hi p.lo p.top)
    (∀ u f, e.op = .mma → stripMma z x e p.way p.lo p.top = .did u f → f.seq = e.seq →
      let t := startStrip s x e p
      t.mem = s.mem ∧ (ctxAt t x).v = (ctxAt u x).v ∧ ∀ q ∈ (ctxAt t x).queue, q.seq = e.seq → q.restart = p.hi ∧ q.faults = f.faults ∧ q.flags = f.flags) ∧
    (e.op = .mmav → readsVerdict e = false → ∃ front wait,
      (ctxAt (startStrip s x e p) x).v = (ctxAt (stripMmav z x { e with restart := p.hi } p.way p.lo p.top front wait []).st x).v)

/-- The tile unit's work (TILE_START gives it the instruction). `tmma` on panels in scratch adds A[row][k] × B[k][col] for each
k in turn with one rounding each, and on items of its queue likewise; an FP32 hook leaves aD as it was, with a trap to follow.
`tld` sets the 64 elements to the 64 words at g[a], and `tst` writes them there. `trow` sets the first ROWS rows to elements of
vA, and `tacc` adds them, by mode: FP32 as binary64, INT32 by its sign in 64 bits or wrapped to 32, or the 64-bit pair; with a
hook in mode 0 aD stays, with element faults. Nothing else changes (10 R283 to R287; 17 R430). -/
def Obligations.TileResults : Prop :=
  ∀ (s : State) (x : Nat) (e : QEntry),
    let y := ctxAt s x
    let c := tileRounding e.vtype
    let d := e.f.d.toNat
    let z := tmmaSize e
    let k := tmmaSteps e
    let num (v : Nat) : Sys2Proof.Machine.Num := if z = 4 then decNum fp32 (v % 2 ^ 32) else decNum fp64 v
    let step (f : Nat → Nat → Sys2Proof.Machine.Num × Sys2Proof.Machine.Num) (n : Nat) (w : Word) (i : Nat) : Word :=
      let r := fmaNum c.mode (f i n).1 (f i n).2 (decNum fp64 w.toNat)
      BitVec.ofNat 64 (encNum fp64 c r.1 ⟨r.2, 0⟩).1
    let ends (t : State × QEntry) : Prop := t.2.st = .done ∧ t.1.slots = s.slots ∧ (ctxAt t.1 x).v = y.v ∧
      ∀ a n, n < 64 → a ≠ d → accAt (ctxAt t.1 x) a n = accAt y a n
    let keeps (t : State × QEntry) : Prop := ends t ∧ ∀ n < 64, accAt (ctxAt t.1 x) d n = accAt y d n
    let t := tileWork s x e
    (e.op = .tmma → bitOf e.gb 3 = false → k = 0 → keeps t) ∧
    (∀ oa ob, e.op = .tmma → bitOf e.gb 3 = false → 0 < k → e.ga = BitVec.ofNat 64 (nearBase + oa) → tmmaB e = BitVec.ofNat 64 (nearBase + ob) →
      oa < 2 ^ 40 → ob < 2 ^ 40 → (scratchAt s (ctxCore x) (ctxProd x)).poison = [] →
      let val (o i : Nat) : Nat := leNat (scratchBytes s (ctxCore x) (ctxProd x) (o + z * i) z)
      let hook : Prop := z = 4 ∧ ∃ i < 8 * k, isHook (val oa i) = true ∨ isHook (val ob i) = true
      (hook → keeps t ∧ t.1 = s ∧ ∃ a, t.2.late = some ⟨e.addr, 16, false, a⟩) ∧
      (¬hook → ends t ∧ t.1.mem = s.mem ∧ ∀ n < 64, accAt (ctxAt t.1 x) d n =
        (List.range k).foldl (step (fun i n => (num (val oa (8 * i + n / 8)), num (val ob (8 * i + n % 8)))) n) (accAt y d n))) ∧
    (e.op = .tmma → bitOf e.gb 3 = true → 0 < k → e.acc = [] → e.late = none → 16 * k ≤ y.tileQ.length →
      let item (i : Nat) : Nat := (y.tileQ.getD i 0).toNat
      let hook : Prop := z = 4 ∧ ∃ i < 16 * k, isHook (item i % 2 ^ 32) = true
      (ctxAt t.1 x).tileQ = y.tileQ.drop (16 * k) ∧ t.1.mem = s.mem ∧
      (hook → keeps t ∧ t.2.late = some ⟨e.addr, 16, false, 0⟩) ∧
      (¬hook → ends t ∧ ∀ n < 64, accAt (ctxAt t.1 x) d n =
        (List.range k).foldl (step (fun i n => (num (item (16 * i + n / 8)), num (item (16 * i + 8 + n % 8)))) n) (accAt y d n))) ∧
    (∀ at_ : Nat → Loc, (∀ n < 64, pinnedLoc s x e.seq (if e.op = .tld then needR else needW) (e.ga + BitVec.ofNat 64 (8 * n)) = some (at_ n) ∧
        ∀ pa, at_ n = .phys pa → isAperture pa = false ∧ ∀ i < 8, isRemote (ctxCore x) (pa + i) = false) → s.door.remotes = [] → MemOk s →
      (e.op = .tld → (∀ n < 64, locPoisoned s (ctxCore x) (at_ n) = false) →
        ends t ∧ ∀ n < 64, (accAt (ctxAt t.1 x) d n).toNat = leNat (bytesAt s (at_ n) 8)) ∧
      (e.op = .tst → (∀ n < 64, ∀ m < 64, n ≠ m → ∀ i < 8, ∀ j < 8, locAdd (at_ n) i ≠ locAdd (at_ m) j) →
        keeps t ∧ (∀ n < 64, leNat (bytesAt t.1 (at_ n) 8) = (accAt y d n).toNat) ∧
        ∀ l, (∀ n < 64, ∀ i < 8, l ≠ locAdd (at_ n) i) → (∀ a, l = .phys a → owesHome s (ctxCore x) a = false) →
          placeByte t.1 l = placeByte s l)) ∧
    (e.op = .tacc ∨ e.op = .trow → fld e.gb 0 4 ≤ 3 → fld e.gb 4 4 ≤ 8 →
      let mode := fld e.gb 0 4
      let n := 8 * fld e.gb 4 4
      let from_ (i : Nat) : Nat := fld e.gb 16 16 + fld e.gb 32 16 * i
      let v (i : Nat) : Nat := (src y e.f.a.toNat).at (if mode = 3 then 64 else 32) (from_ i)
      let wide (i : Nat) : Word := (BitVec.ofNat 32 (v i)).signExtend 64
      let f64 (x : Sys2Proof.Machine.Num) (fl : BitVec 6) : Word := BitVec.ofNat 64 (encNum fp64 c x ⟨fl, 0⟩).1
      let plus (i : Nat) (x : Sys2Proof.Machine.Num) : Word :=
        let r := addNum c.mode (decNum fp64 (accAt y d i).toNat) x
        f64 r.1 r.2
      let hook : Prop := mode = 0 ∧ ∃ i < n, isHook (v i) = true
      (e.vl = 0 → keeps t ∧ t.2.faults = e.faults) ∧
      (0 < e.vl → hook → keeps t ∧ ∀ q, q ∈ t.2.faults ↔ q ∈ e.faults ∨ ∃ i < n, isHook (v i) = true ∧ q = ⟨from_ i, 16, 0⟩) ∧
      (0 < e.vl → ¬hook → ends t ∧ t.2.faults = e.faults ∧ t.1.mem = s.mem ∧ ∀ i < 64, accAt (ctxAt t.1 x) d i =
        if n ≤ i then accAt y d i
        else if e.op = .trow then (match mode with
          | 0 => f64 (decNum fp32 (v i)) 0
          | 3 => BitVec.ofNat 64 (v i)
          | _ => wide i)
        else (match mode with
          | 0 => plus i (decNum fp32 (v i))
          | 1 => accAt y d i + wide i
          | 2 => ((accAt y d i + wide i).setWidth 32).signExtend 64
          | _ => plus i (decNum fp64 (v i)))))

/-! The prompter and the units (09 R238 to R261; 10; 11; 13 R342, R343). -/

/-- STRIP_START: with a strip slot free, the strip of the context that the arbitration picks starts; an element-wise instruction
of page 2 or page 3 then has its results for the strip's elements, its flags and element faults in its entry, its restart point
past the strip, and a way that runs it; that a strip's effect is whole as it starts is the model's choice (log 11). The one
entry of the one context with work starts so whenever its next strip has an active element and needs no relay (09 R240, R252,
R256, R257). STRIP_END: the first thing that has ended on a way leaves it, at its end or later. TREE_PASS: a tree-fed
instruction alone on its core gets the tree, and one with no element is over at once with its starting value; as the only strip
of a cross-element or tree-fed instruction drains into its one pass, or as the last of its passes starts, its effect on
registers, its result and its element faults stand, and its entry is done (09 R252, R254, R258, R259; 07 R209). -/
def Obligations.StripsRun : Prop :=
  ((∀ (s u : State) (c : Nat) (pick k : Contender) (e : QEntry) (p : StripPart), heldStep s c = none →
     ((coreAt s c).strips.filter fun t => decide (t.way < 16)).length < min (coreAt s c).stripSlots (slotsNow s) →
     drrPick s c .strips ((stripContenders s c).map (·.1)) = (u, some pick) →
     (stripContenders s c).find? (fun q => q.1.ctx == pick.ctx) = some (k, e, p) →
       exec (.stripStart c) s = .next (startPicked u pick.ctx e p)) ∧
   (∀ (s : State) (x : Nat) (e : QEntry) (p : StripPart), opKind e.op = .lane → isMemOp e.op = false →
     vecPage e.op = 2 ∨ vecPage e.op = 3 ∧ e.op ≠ .vsfu →
     let t := startStrip s x e p
     let o := laneWork (setLatches (ctxAt s x) x e p.way (stripGroups (ctxAt s x) p.way).1 p.hi p.lo p.top) e p.lo p.top
     (vecPage e.op = 2 → o.ctx.v = (laneInt (ctxAt s x) e p.lo p.top).v ∧ o.ctx.m = (laneInt (ctxAt s x) e p.lo p.top).m) ∧
     (ctxAt t x).v = o.ctx.v ∧ (ctxAt t x).m = o.ctx.m ∧
     (coreAt t (ctxCore x)).strips.length = (coreAt s (ctxCore x)).strips.length + 1 ∧ t.mem = s.mem ∧
     ∀ q ∈ (ctxAt t x).queue, q.seq = e.seq →
       q.restart = p.hi ∧ q.flags = e.flags ||| o.flags ∧ q.faults = e.faults ++ o.faults) ∧
   ∀ (s : State) (c x : Nat) (e : QEntry) (p : StripPart), Alone s c x e → opKind e.op = .lane → isMemOp e.op = false →
     vecPage e.op = 2 → relayNeed e = 0 → nextStrip (ctxAt s x) e = some p → stripActive (ctxAt s x) e p = true →
     0 < (coreAt s c).stripSlots → 0 < slotsNow s →
       ∃ u, exec (.stripStart c) s = .next (startStrip u x e p) ∧ (coreAt u c).stripPtr = x + 1 ∧ (ctxAt u x).skipStrip = 0 ∧
         ctxAt u x = { ctxAt s x with defStrip := (ctxAt u x).defStrip, skipStrip := 0 } ∧
         coreAt u c = { coreAt s c with stripPtr := x + 1 } ∧ u.slots = s.slots ∧ u.mem = s.mem) ∧
  ((∀ (s : State) (c w : Nat) (t : Strip), w < 16 → (coreAt s c).strips.find? (fun q => q.way == w && q.endAt != 0) = some t →
     ∃ u, exec (.stripEnd c w) s = .next u ∧ t ∉ (coreAt u c).strips ∧ t.endAt ≤ cycleOf u c ∧ u.slots = s.slots ∧ u.mem = s.mem) ∧
   (∀ (s : State) (c x : Nat) (e : QEntry), Alone s c x e → e.op = .vredsum → e.vl ≤ e.start →
     ∃ t, exec (.treePass c) s = .next t ∧ ((coreAt t c).strips.any fun w => w.way == 16 && w.endAt != 0) = true ∧
       (∃ f ∈ (ctxAt t x).queue, f.seq = e.seq ∧ f.st = .done ∧ f.result = some e.gb) ∧
       (ctxAt t x).v = (ctxAt s x).v ∧ t.slots = s.slots ∧ t.mem = s.mem) ∧
   (∀ (s : State) (c x : Nat) (e : QEntry) (p : StripPart), Alone s c x e → e.op = .vredsum →
     nextStrip (ctxAt s x) e = some p → stripActive (ctxAt s x) e p = true →
       ∃ t w, exec (.treePass c) s = .next t ∧ (coreAt t c).strips = [w] ∧ w.way = 16 ∧ w.ctx = x ∧ w.seq = e.seq ∧ w.endAt = 0 ∧
         (ctxAt t x).queue = [e] ∧ (ctxAt t x).v = (ctxAt s x).v ∧ t.slots = s.slots ∧ t.mem = s.mem) ∧
   ∀ (s t : State) (x : Nat) (e : QEntry) (src : Ctx), (ctxAt s x).queue = [e] → e.st = .queued →
     opKind e.op = .tree ∧ e.op ≠ .ptree ∨ opKind e.op = .cross →
     (∃ (p : StripPart) (w : Strip), treePasses e 0 ≤ 1 ∧ (coreAt s (ctxCore x)).strips = [w] ∧ w.way = 16 ∧ w.ctx = x ∧
        w.seq = e.seq ∧ w.endAt = 0 ∧ p.way < 16 ∧ e.vl ≤ p.hi ∧ (∀ q ∈ stripsOf (ctxAt s x), q.2.2 ≤ p.hi) ∧
        src = (if opKind e.op = .tree then
          { ctxAt s x with
            v := (drainInto (ctxAt s x) e p.lo p.top).snapV, m := (drainInto (ctxAt s x) e p.lo p.top).snapM }
          else ctxAt s x) ∧ t = startDrain s x e p) ∨
     (opKind e.op = .cross ∧ 0 < e.passes ∧ treePasses e 0 ≤ e.passes + 1 ∧ src = ctxAt s x ∧ t = runPass s x e none) →
       let o : CrossOut := if isFloatOp e.op then crossFloat src e
         else ⟨(crossInt src e).1, (crossInt src e).2.1, 0, (crossInt src e).2.2⟩
       (∃ f ∈ (ctxAt t x).queue, f.seq = e.seq ∧ f.st = .done ∧ f.result = o.result ∧ f.faults = o.faults ∧
         (isFloatOp e.op = true → f.flags = o.flags)) ∧
       (opKind e.op = .tree → (ctxAt t x).v = (ctxAt s x).v ∧ (ctxAt t x).m = (ctxAt s x).m) ∧
       (opKind e.op = .cross → (ctxAt t x).v = o.ctx.v ∧ (ctxAt t x).m = o.ctx.m) ∧ t.slots = s.slots ∧ t.mem = s.mem)

/-- ROW_BUFFER_GRANT gives a relay its buffers where enough are free, to the context picked or to the one that is alone on its
core; VERDICT_READ_RETURN gives a strip the key its verdict word holds; PIN_GRANT takes the pages of the oldest request that may
walk, and drops the request of an entry that has gone (09 R251, R258; 10 R273; 11 R299; 13 R343). TILE_START: the tile unit
takes the instruction its arbitration picks, or the one that is alone on its core: a `tzero` clears the 64 values of its
accumulator and no other (10 R284, R286). -/
def Obligations.UnitsRun : Prop :=
  ((∀ (s u : State) (c : Nat) (pick k : Contender) (e : QEntry) (p : StripPart),
     drrPick s c .rows ((rowContenders s c).map (·.1)) = (u, some pick) →
     (rowContenders s c).find? (fun q => q.1.ctx == pick.ctx) = some (k, .relay e p) →
     (coreAt u c).rowHold.length + relayNeed e ≤ 2 →
       ∃ t, exec (.rowBufferGrant c) s = .next t ∧ (coreAt t c).rowHold.length = (coreAt u c).rowHold.length + relayNeed e ∧
         t.slots = u.slots ∧ t.ctxs = u.ctxs ∧ t.mem = u.mem) ∧
   (∀ (s : State) (c x : Nat) (e : QEntry) (p : StripPart), Alone s c x e → opKind e.op = .lane → isMemOp e.op = false →
     vecPage e.op = 2 → relayNeed e ≠ 0 → nextStrip (ctxAt s x) e = some p → stripActive (ctxAt s x) e p = true →
     ((coreAt s c).rowHold.filter fun h => isRelay x h) = [] → (coreAt s c).rowHold.length + relayNeed e ≤ 2 →
       ∃ t, exec (.rowBufferGrant c) s = .next t ∧
         (coreAt t c).rowHold = (coreAt s c).rowHold ++ List.replicate (relayNeed e) (2 ^ 32 + x) ∧
         (ctxAt t x).queue = [e] ∧ (ctxAt t x).v = (ctxAt s x).v ∧ t.slots = s.slots ∧ t.mem = s.mem) ∧
   (∀ (s : State) (c x : Nat) (t : Strip) (e : QEntry) (l : Loc), ctxCore x = c → (coreAt s c).strips = [t] → t.ctx = x →
     t.way < 16 → t.reads = [] → t.begun ≤ cycleOf s c → (ctxAt s x).queue = [e] → e.seq = t.seq → e.op = .mmav →
     readsVerdict e = true → pinWaits s x e.seq (e.vdcfg &&& ~~~7) = false → pinnedLoc s x e.seq needR (e.vdcfg &&& ~~~7) = some l →
     apertureOf l = none →
     locPoisoned (acquireAt s c .package) c l = false →
       ∃ u r, exec (.verdictReadReturn c x) s = .next u ∧ (coreAt u c).strips = [r] ∧ r.ctx = x ∧ r.way = t.way ∧
         r.reads = [⟨0, elapsed s c t, BitVec.ofNat 64 (leNat (locBytes (acquireAt s c .package) c l 4))⟩] ∧
         cycleOf s c < r.endAt) ∧
   (∀ (s t : State) (c : Nat) (w : PinWait) (e : QEntry) (p : StripPart),
     (coreAt s c).pinWait.find? (fun v => decide (v.until_ ≤ cycleOf s c)) = some w →
     (ctxAt s w.ctx).queue.find? (fun q => q.seq == w.seq) = some e → nextStrip (ctxAt s w.ctx) e = some p →
     pinnedFor (setCore s c { coreAt s c with pinWait := (coreAt s c).pinWait.filter (· != w) }) w.ctx e p true = (t, true) →
       exec (.pinGrant c) s = .next t) ∧
   (∀ (s : State) (c : Nat) (w : PinWait) (e : QEntry) (p : StripPart), ctxCore w.ctx = c → (coreAt s c).pinWait = [w] →
     w.until_ ≤ cycleOf s c → (ctxAt s w.ctx).queue = [e] → e.seq = w.seq → nextStrip (ctxAt s w.ctx) e = some p →
     pinsPages e = true → e.op ≠ .vldw → e.pinned = 0 → 0 < p.top →
     let s0 := setCore s c { coreAt s c with pinWait := [] }
     let a := pinSet s0 c (pageAddrs [] (pinAddrs (ctxAt s w.ctx) e p.lo e.vl))
     a.mig = false → a.pins.length + a.fails ≤ 256 → unitPins s0 c + a.pins.length ≤ 3840 →
       ∃ t, exec (.pinGrant c) s = .next t ∧ (coreAt t c).pinWait = (coreAt a.st c).pinWait ∧
         (coreAt t c).pins = (coreAt a.st c).pins ++ a.pins.map (fun q => ⟨q, w.ctx, e.seq, false⟩) ∧
         (∃ f ∈ (ctxAt t w.ctx).queue, f.seq = e.seq ∧ f.pinned = max e.vl p.top) ∧ t.mem = a.st.mem) ∧
   ∀ (s : State) (c : Nat) (w : PinWait), (coreAt s c).pinWait.find? (fun v => decide (v.until_ ≤ cycleOf s c)) = some w →
     (ctxAt s w.ctx).queue.find? (fun q => q.seq == w.seq) = none →
       exec (.pinGrant c) s = .next (setCore s c { coreAt s c with pinWait := (coreAt s c).pinWait.filter (· != w) })) ∧
  ((∀ (s u : State) (c : Nat) (k k' : Contender) (e : QEntry) (before : List QEntry),
     ((coreAt s c).strips.find? fun t => t.way == 17) = none →
     drrPick s c .tile ((tileContenders s c).map (·.1)) = (u, some k) →
     (tileContenders s c).find? (fun q => q.1.ctx == k.ctx) = some (k', e, before) →
       exec (.tileStart c) s = .next (runTile u c k.ctx e before false)) ∧
   ∀ (s : State) (c x : Nat) (e : QEntry), Alone s c x e → e.op = .tzero →
     ∃ t, exec (.tileStart c) s = .next t ∧ (∀ n < 64, accAt (ctxAt t x) e.f.d.toNat n = 0) ∧
       (∀ a n, a ≠ e.f.d.toNat → n < 64 → accAt (ctxAt t x) a n = accAt (ctxAt s x) a n) ∧
       (∃ f ∈ (ctxAt t x).queue, f.seq = e.seq ∧ f.st = .done) ∧
       ((coreAt t c).strips.any fun w => w.way == 17 && w.ctx == x) = true ∧ (ctxAt t x).v = (ctxAt s x).v ∧
       t.slots = s.slots ∧ t.mem = s.mem)

/-- ENTRY_COMPLETE: a context's oldest entry, ended, with no fault and none of completion's special effects, leaves the queue;
its flags join FFLAGS, its result is in its register, pending no longer; memory and the vector registers stay (05 R131; 06 R170;
07 R189; 09 R239). TRAP_ENTRY: a slot that is ready, outside the handler state, takes the trap that has fallen due in its
context: in the handler state at TRAPVEC with TRAPCAUSE's VEC bit, the context frozen and the trap no longer due; while a strip
of the context runs, it waits, and no strip starts (17 R424, R430). -/
def Obligations.EntriesEndOrTrap : Prop :=
  (∀ (s : State) (c x i : Nat) (e : QEntry) (q : List QEntry) (v : Word), (ctxAt s x).queue = e :: q → ctxCore x = c →
     entryEnded s x e = true → (ctxAt s x).trap = none → (ctxAt s x).frozen = false → (ctxAt s x).bound = some i →
     e.faults = [] → e.late = none → e.result = some v → owesG e.op = true → e.f.d ≠ 0 → portCode (slotAt s i) e.f.d = 0 →
     (slotAt s i).late = [] → (slotAt s i).flagWrites = [] → (slotAt s i).dbg.vcen = false → (slotAt s i).dbg.vcHit = false →
     (slotAt s i).dbg.stepping = false →
       ∃ t, exec (.entryComplete c x) s = .next t ∧ (ctxAt t x).queue = q.filter (fun f => f.seq != e.seq) ∧
         readG (slotAt t i) e.f.d = v ∧ bitOf (slotAt t i).pend e.f.d.toNat = false ∧
         (slotAt t i).fflags = (slotAt s i).fflags ||| e.flags ∧ (ctxAt t x).v = (ctxAt s x).v ∧ (ctxAt t x).m = (ctxAt s x).m ∧
         t.mem = s.mem ∧ (∀ j, j ≠ i → slotAt t j = slotAt s j)) ∧
  ((∀ (s : State) (c i x : Nat) (z : VTrap), ctxOf s (16 * c + i) = some x → (ctxAt s x).trap = some z →
     (ctxAt s x).frozen = false → (slotAt s (16 * c + i)).handler = false → (slotAt s (16 * c + i)).st = .ready →
     (slotAt s (16 * c + i)).freezing = none → z.cause ≠ 8 →
     (∃ w ∈ (coreAt s (ctxCore x)).strips, w.ctx = x ∧ w.way < 16) →
       exec (.trapEntry c i) s = .next (setSlot (setCtx { s with cur := 16 * c + i } x { ctxAt s x with frozen := true }) (16 * c + i)
         { slotAt s (16 * c + i) with freezing := some .vector })) ∧
   ∀ (s : State) (c i x : Nat) (z : VTrap), ctxOf s (16 * c + i) = some x → (ctxAt s x).trap = some z → (ctxAt s x).frozen = false →
     (slotAt s (16 * c + i)).handler = false → (slotAt s (16 * c + i)).st = .ready → (slotAt s (16 * c + i)).freezing = none →
     z.cause ≠ 8 → z.cause < 128 → (ctxAt s x).queue = [] → (∀ w ∈ (coreAt s (ctxCore x)).strips, w.ctx ≠ x) →
       ∃ t, exec (.trapEntry c i) s = .next t ∧ (slotAt t (16 * c + i)).handler = true ∧
         (slotAt t (16 * c + i)).pc = (slotAt s (16 * c + i)).trapvec ∧
         (slotAt t (16 * c + i)).trappc = (slotAt s (16 * c + i)).pc &&& ~~~1 ∧
         (slotAt t (16 * c + i)).trapcause = BitVec.ofNat 64 (z.cause + 128 + if z.elem then 256 else 0) ∧
         (slotAt t (16 * c + i)).trapaddr = z.addr ∧ (slotAt t (16 * c + i)).trapvc = z.entry ∧
         (slotAt t (16 * c + i)).g = (slotAt s (16 * c + i)).g ∧ (ctxAt t x).frozen = true ∧ (ctxAt t x).trap = none ∧ t.mem = s.mem)

/-! Tasks, contexts and productions (04). -/

/-- `fork` of an even entry with no handle pushes a packet of the task at the new end of the core's wings and takes the next
task number; that it is the lowest from NEXTTASK on that no live task has is the model's choice (log 32). An odd entry traps
with code 5, a bad handle with code 23. `join` of handle 0 goes on; of another, its request leaves and the slot waits. `retire`
of a task with nothing outstanding and no handle frees the slot. At its turn DISPATCH gives a free slot the packet its search
finds, the one in its core's wings for one: the pc, g3 the argument, every other g register 0 (04 R93, R94, R96 to R98, R101,
R105). -/
def Obligations.TaskResults : Prop :=
  (∀ (s : State) (d a b : GReg) (p : Prod), (me s).handler = false → (me s).sup = false → Plain s [a, b, d] →
    let e := readG (me s) a
    let h := readG (me s) d
    (bitOf e 0 = false → h = 0 → prodAt s (me s).prodid = some p → (coreAt s (myCore s)).wings.length < 64 → releaseReady s = true →
      ∃ t, exec (.fork d a b) s = .next t ∧ (me t).pc = nextPc s ∧ (me t).g = (me s).g ∧
        (coreAt t (myCore s)).wings = (coreAt s (myCore s)).wings ++
          [⟨e, readG (me s) b, 0, (me s).fmtp, (me s).sclp, (me s).prodid, BitVec.ofNat 32 (freshTask s (me s).prodid p)⟩] ∧
        prodAt t (me s).prodid = some { p with nextTask := freshTask s (me s).prodid p + 1 }) ∧
    (bitOf e 0 = true → exec (.fork d a b) s = .next (takeTrap s 5 e)) ∧
    (bitOf e 0 = false → h ≠ 0 → badHandle h = true → exec (.fork d a b) s = .next (takeTrap s 23 h))) ∧
  (∀ (s : State) (a : GReg), (me s).handler = false → (me s).sup = false → Plain s [a] → (me s).waiting = .none →
    (readG (me s) a = 0 → exec (.join a) s = .next (advance s)) ∧
    (readG (me s) a ≠ 0 → badHandle (readG (me s) a) = true → exec (.join a) s = .next (takeTrap s 23 (readG (me s) a))) ∧
    (∀ pa leaf u, readG (me s) a ≠ 0 → badHandle (readG (me s) a) = false →
      checkAccess s 8 needR (readG (me s) a) = (.ok (.phys pa) leaf, u) → acqWaits u u.cur = false → isAperture pa = false →
      (me s).sbuf = [] → storeAhead s (.phys pa) 8 = false →
      ∃ t, exec (.join a) s = .next t ∧ (me t).waiting = .request (readG (me s) a) ∧ (me t).st = .parked (.join (readG (me s) a)) ∧
        (me t).pc = (me s).pc ∧
        t.feReqs = s.feReqs ++ [⟨.join, 0, s.cur, .phys pa, readG (me s) a, 0, underPage u (.phys pa) (readG (me s) a)⟩])) ∧
  (∀ (s : State), (me s).sup = false → (me s).handler = false → (me s).handle = 0 → (me s).outT = 0 → (me s).outC = 0 → (me s).outS = 0 →
    (me s).outL = 0 → (∀ k, myCtx s = some k → (ctxAt s k).queue = []) → sfuOut s s.cur = false → releaseReady s = true →
    ∃ t, exec .retire s = .next t ∧ (me t).st = .free ∧ (me t).vctx = none ∧ (∀ r, readG (me t) r = 0) ∧
      (me t).saveptr = (me s).saveptr ∧ (me t).trapvec = (me s).trapvec ∧ KeepsOtherSlots s t) ∧
  (∀ (s u : State) (c i : Nat) (t : TaskPacket), (slotAt s (16 * c + i)).sup = false → (slotAt s (16 * c + i)).st = .free →
    nextSaved (takeTurn s (16 * c + i)) c = none → search (takeTurn s (16 * c + i)) c = some (t, u) →
      exec (.dispatch c i) s = .next (dispatchTo u (16 * c + i) t)) ∧
  ∀ (s : State) (c i : Nat) (t : TaskPacket) (p : Prod), i < 16 → (slotAt s (16 * c + i)).sup = false →
    (slotAt s (16 * c + i)).st = .free → (coreAt s c).saved = [] → (coreAt s c).wings = [t] → prodAt s t.prodid = some p →
    eligible p c = true →
    ∃ v, exec (.dispatch c i) s = .next v ∧ (coreAt v c).wings = [] ∧ (slotAt v (16 * c + i)).st = .ready ∧ (slotAt v (16 * c + i)).pc = t.pc ∧
      readG (slotAt v (16 * c + i)) 3 = t.arg ∧ (∀ r, r ≠ 3 → readG (slotAt v (16 * c + i)) r = 0) ∧
      (slotAt v (16 * c + i)).handle = t.handle ∧ (slotAt v (16 * c + i)).prodid = t.prodid ∧ (slotAt v (16 * c + i)).taskid = t.taskid ∧
      (slotAt v (16 * c + i)).vctx = none ∧ (slotAt v (16 * c + i)).handler = false ∧ (slotAt v (16 * c + i)).cls = p.cls ∧
      (slotAt v (16 * c + i)).patience = p.patience ∧ ∀ j, j ≠ 16 * c + i → slotAt v j = slotAt s j

/-- `vacq` binds the lowest free context of the production, with VL 0 and VTYPE at its reset value, and answers its number, or
the one already bound; −1 on a supervisor slot or, with bit 0 of g[a], where none is free; `vrel` unbinds it, its queue empty,
or has no effect with none bound; `boost` sets the allowance and answers the tokens; `qbind` binds a port and answers its old
code, and traps with code 21 on a bad operand and 13 for a context's queue with none bound (04 R114 to R117; 06 R171, R178). -/
def Obligations.ContextResults : Prop :=
  ∀ (s : State) (d a b : GReg), Plain s [a, b, d] →
    let x := readG (me s) a
    ((me s).handler = false → (me s).sup = false →
      (∀ k, (me s).vctx = some k → exec (.vacq d a) s = .next (wrote s d (BitVec.ofNat 64 k))) ∧
      (∀ k, (me s).vctx = none → freeCtx s s.cur = some k →
        ∃ t, exec (.vacq d a) s = .next t ∧ (me t).vctx = some k ∧ (d ≠ 0 → readG (me t) d = BitVec.ofNat 64 k) ∧
          (let y := ctxAt t (ctxNo (myCore s) (me s).prodid k)
           y.bound = some s.cur ∧ y.vl = 0 ∧ y.vstart = 0 ∧ y.vtype = 0x0041D ∧ y.vfault = 0 ∧ y.queue = [] ∧
           y.v = (ctxAt s (ctxNo (myCore s) (me s).prodid k)).v) ∧ (me t).pc = nextPc s ∧ t.mem = s.mem ∧ KeepsOtherSlots s t) ∧
      ((me s).vctx = none → freeCtx s s.cur = none → bitOf x 0 = true →
        ∃ t, exec (.vacq d a) s = .next t ∧ (d ≠ 0 → readG (me t) d = 0xFFFFFFFFFFFFFFFF) ∧ (me t).pc = nextPc s ∧ (me t).vctx = none)) ∧
    ((me s).handler = false → myCtx s = none → exec .vrel s = .next (advance s)) ∧
    (∀ k, (me s).handler = false → myCtx s = some k → (ctxAt s k).queue = [] →
      ∃ t, exec .vrel s = .next t ∧ (me t).vctx = none ∧ (ctxAt t k).bound = none ∧ (me t).pc = nextPc s ∧ (me t).g = (me s).g) ∧
    (∀ k, myCtx s = some k → ∃ t, exec (.boost d a) s = .next t ∧ (ctxAt t k).allow = min x.toNat 65535 ∧
      (d ≠ 0 → readG (me t) d = BitVec.ofNat 64 (ctxAt s k).tokens) ∧ (me t).pc = nextPc s ∧ t.mem = s.mem) ∧
    ((me s).handler = false → (me s).sup = true → exec (.vacq d a) s = .next (wrote s d 0xFFFFFFFFFFFFFFFF)) ∧
    (myCtx s = none → exec (.boost d a) s = .next (takeTrap s 13 0)) ∧
    ((7 < x.toNat ∨ 6 < (readG (me s) b).toNat) → exec (.qbind d a b) s = .next (takeTrap s 21 0)) ∧
    (x.toNat ≤ 7 → ((readG (me s) b).toNat = 5 ∨ (readG (me s) b).toNat = 6) → (me s).vctx = none →
      exec (.qbind d a b) s = .next (takeTrap s 13 0)) ∧
    (x.toNat ≤ 7 → (readG (me s) b).toNat ≤ 4 → ∃ t, exec (.qbind d a b) s = .next t ∧ (me t).pc = nextPc s ∧
      (d ≠ 0 → readG (me t) d = BitVec.ofNat 64 ((me s).qcode.toList.getD x.toNat 0).toNat) ∧
      ((me t).qcode.toList.getD x.toNat 0).toNat = (readG (me s) b).toNat ∧
      ∀ n < 8, n ≠ x.toNat → (me t).qcode.toList.getD n 0 =
        if ((me s).qcode.toList.getD n 0).toNat = (readG (me s) b).toNat then 0 else (me s).qcode.toList.getD n 0)

/-- `prodctl`, whichever of its rows is named: what its checks refuse is answered −1 to −3 and changes no production; that −3
comes before −2 is the model's choice (log 4). QUERY answers the state word, SHARE, PAUSE, RESUME and GRANT change their one
field and answer 0, KILL ends the production with REASON 1, or 2 from a handler of its own, PREEMPT stops each of its tasks and
answers how many; that a task its double trap has stopped is not among them is the model's choice (log 27), while QUERY and KILL
wait for a page of the production's regions or areas that migrates (13 R346). Each does so for a supervisor slot with any live
production in PROD. `launch` of a misaligned block answers −1, one of a block that fails a check its status; of a block whose
every check holds, the lowest free number, which is under way to its register: the production is live with the block's fields,
each of its cores has given it its ways, its contexts and its scratch granules, and its first task lies on the callboard of its
first core's die (04 R102, R104, R107 to R109, R112, R113). -/
def Obligations.ProductionControl : Prop :=
  (∀ i ∈ ([.prodctlQuery, .prodctlShare, .prodctlPause, .prodctlResume, .prodctlKill, .prodctlGrant, .prodctlPreempt] :
      List (GReg → GReg → GReg → Instr)), ∀ (s : State) (d a b : GReg), Plain s [a, b, d] →
    let op := readG (me s) a
    let w := readG (me s) b
    (∀ n, ctlCheck s op w = .stat n → exec (i d a b) s = .next (ctlResult s d (-(BitVec.ofNat 64 n)))) ∧
    let acts (n : Nat) (p : Prod) : Prop :=
      (op = 0 → ctlWaits s 0 n p = none → exec (i d a b) s = .next (ctlResult s d (prodState s n p))) ∧
      (op = 1 → exec (i d a b) s = .next (ctlResult (setProd s n { p with share := fld w 0 16 }) d 0)) ∧
      (op = 2 → exec (i d a b) s = .next (ctlResult (setProd s n { p with paused := true }) d 0)) ∧
      (op = 3 → exec (i d a b) s = .next (ctlResult (setProd s n { p with paused := false }) d 0)) ∧
      (op = 4 → ctlWaits s 4 n p = none → (me s).sup = true ∨ (me s).prodid ≠ n →
        exec (i d a b) s = .next (killProd (ctlResult s d 0) n 1)) ∧
      (op = 4 → ctlWaits s 4 n p = none → (me s).sup = false → (me s).prodid = n →
        exec (i d a b) s = .next (killProd s n (if (me s).handler then 2 else 1))) ∧
      (op = 5 → exec (i d a b) s = .next (ctlResult (setProd s n { p with lright := bitOf w 0 }) d 0)) ∧
      (op = 6 → let is := (taskSlots s n).filter fun j => (slotAt s j).st != .stopped .doubleTrap none
        exec (i d a b) s = .next (is.foldl (fun s j => markPreempt s j .prodctl) (ctlResult s d (BitVec.ofNat 64 is.length))))
    (∀ n p, ctlCheck s op w = .target n p → acts n p) ∧
    ∀ p, (me s).sup = true → fld w 28 36 = 0 → op.toNat ≤ 6 → (op = 1 → 1 ≤ fld w 0 16 ∧ fld w 0 16 ≤ 255) → fld w 16 12 ≠ 0 →
      prodAt s (fld w 16 12) = some p → acts (fld w 16 12) p) ∧
  (∀ (s : State) (op w : Word), (6 < op.toNat ∨ fld w 28 36 ≠ 0) → ctlCheck s op w = .stat 3) ∧
  (∀ (s : State) (op w : Word), op.toNat ≤ 6 → fld w 28 36 = 0 → op ≠ 1 → prodAt s (if fld w 16 12 = 0 then (me s).prodid else fld w 16 12) = none →
    ctlCheck s op w = .stat 2) ∧
  (∀ (s : State) (d a : GReg), mayLaunch s = false → exec (.launch d a) s = .next (takeTrap s 4 0)) ∧
  (∀ (s : State) (d a : GReg), mayLaunch s = true → Plain s [a, d] → releaseReady s = true → (readG (me s) a).toNat % 64 ≠ 0 →
    exec (.launch d a) s = .next (ctlResult (releaseAt s (myCore s) .system) d 0xFFFFFFFFFFFFFFFF)) ∧
  ∀ (s u v : State) (d a : GReg) (bs : List Byte) (ls : List (Loc × Nat)) (l : Loc) (leaf : Word) (n : Nat), mayLaunch s = true →
    Plain s [a, d] → releaseReady s = true → (readG (me s) a).toNat % 64 = 0 →
    blockPlaces (releaseAt s (myCore s) .system) needRW (blockPieces 6 (readG (me s) a) 128) = .ok (ls, u) →
    (∀ q ∈ ls, apertureOf q.1 = none ∧ locPoisoned u (myCore s) q.1 = false ∧ engineOwns u q.1 q.2 = false) → bs = (ls.map fun q => locBytes u (myCore s) q.1 q.2).flatten →
    checkAddr u (myCore s) (me s).prodid (me s).sup (isUser (me s)) needRW (readG (me s) a + 0x50) = (.ok l leaf, v) →
    (launchStatus v bs = .error n → exec (.launch d a) s = .next (ctlResult v d (-(BitVec.ofNat 64 n)))) ∧
    (let cs := coreSet (launchRanges bs)
     let ways := blockNat bs 0x20 1
     badBlock bs = false →
     (∀ c ∈ cs, coreExists v c = true ∧ allRetired (coreAt v c) = false ∧ ways ≤ (freeWays (coreAt v c)).length ∧
       blockNat bs 0x22 1 + 2 ≤ (l1Granules (coreAt v c)).length) →
     (∀ k < 8, (∃ c ∈ cs, coreDie c = k) → dieCurtains v k + blockNat bs 0x28 2 ≤ 256) →
     packageCurtains v + blockNat bs 0x2A 2 ≤ 64 → (dieAt v (coreDie (cs.headD 0))).board.length < 256 → 1 ≤ n → n ≤ 4095 →
     prodAt v n = none → (∀ m, 1 ≤ m → m < n → prodAt v m ≠ none) →
     (blockNat bs 0x48 8 = 0 ∨ supMigrates v (cs.headD 0) (blockWord bs 0x40) = false) →
     ∃ t, exec (.launch d a) s = .next t ∧ (me t).pc = nextPc s ∧ (d ≠ 0 → bitOf (me t).pend d.toNat = true) ∧
      (me t).arrivals = (me v).arrivals ++ [⟨d.toNat, BitVec.ofNat 64 n, false, 0, .none, none, none⟩] ∧
      (∃ p, prodAt t n = some p ∧ p.cores = launchRanges bs ∧ p.ways = ways ∧ p.contexts = blockNat bs 0x21 1 ∧
        p.scratchG = blockNat bs 0x22 1 ∧ p.cls = BitVec.ofNat 2 (blockNat bs 0x23 1) ∧ p.domain = blockNat bs 0x24 1 ∧
        p.share = blockNat bs 0x25 1 ∧ p.lright = bitOf (BitVec.ofNat 16 (blockNat bs 0x26 2)) 0 ∧
        p.curtains = blockNat bs 0x28 2 ∧ p.pcurtains = blockNat bs 0x2A 2 ∧ p.patience = BitVec.ofNat 32 (blockNat bs 0x2C 4) ∧
        p.fmtp = blockWord bs 0x30 ∧ p.sclp = blockWord bs 0x38 ∧ p.spillBase = blockWord bs 0x40 ∧ p.spillSize = blockWord bs 0x48 ∧
        p.done = l ∧ p.launcher = (me s).prodid ∧ p.nextTask = 1) ∧
      (∀ c ∈ cs, (scratchAt t c n).granules.length = blockNat bs 0x22 1 ∧
        (∀ w ∈ chooseWays (coreAt v c) ways, wayAt (coreAt t c) w = ⟨.compute, n⟩) ∧
        ∀ j < blockNat bs 0x21 1, (ctxAt t (ctxNo c n j)).bound = none ∧ (ctxAt t (ctxNo c n j)).ways =
          ((chooseWays (coreAt v c) ways).drop (ways / blockNat bs 0x21 1 * j)).take (ways / blockNat bs 0x21 1)) ∧
      ⟨blockWord bs 0, blockWord bs 8, 0, blockWord bs 0x30, blockWord bs 0x38, n, 0⟩ ∈ (dieAt t (coreDie (cs.headD 0))).board)

/-! Curtains and full/empty words (14 R388 to R396). -/

/-- The curtain instructions: an operand with a reserved bit, outside the production's allotment from the table it names, or, of
`curtain`, with N = 0, is the curtain fault, code 19, and so is either on a supervisor slot. Else an arrival of `curtain` leaves
and the slot parks; at its home, CURTAIN_HOME, a count that is not the curtain's is the fault there; else it is counted, and
with the Nth the generation rises and every waiting slot goes on at the next instruction. `curtainx` goes on, g[d] pending until
the generation it arrived in comes back; with N = 0 it counts nothing. The home of a curtain of the package table is the door
die's, of any other that of the issuing core's die (14 R392 to R394; 04 R90). That `curtainx` counts as it issues is the model's
choice (log 26). -/
def Obligations.CurtainResults : Prop :=
  (∀ (s : State) (d a b : GReg), (me s).waiting = .none → (me s).handler = false → Plain s [a, b, d] →
    let x := readG (me s) a
    let n := readG (me s) b
    let i := fld x 0 8
    let home := if bitOf x 15 then 16 else coreDie (myCore s)
    let c := curtainAt s home (me s).prodid i
    let gen : Word := c.gen.setWidth 64
    let go : Prop := (me s).sup = false ∧ fld x 16 48 = 0 ∧ fld x 8 7 = 0 ∧ fld n 16 48 = 0 ∧
      ∃ p, prodAt s (me s).prodid = some p ∧ i < (if bitOf x 15 then p.pcurtains else p.curtains) ∧ p.shed = false
    let others (u : State) : Prop := ∀ j, j ≠ s.cur → (slotAt s j).waiting = .arrived home i c.gen →
      (slotAt s j).prodid = (me s).prodid →
        (slotAt u j).waiting = .none ∧ (slotAt u j).pc = (slotAt s j).pc + BitVec.ofNat 64 (slotAt s j).ilen ∧
        ((∀ w v, (slotAt s j).st ≠ .stopped w v) → (slotAt u j).st = .ready)
    (go → n ≠ 0 → releaseReady s = true →
      (∃ t, exec (.curtain a b) s = .next t ∧ (me t).st = .parked (.curtain x) ∧ (me t).pc = (me s).pc ∧
        t.curtainReqs = s.curtainReqs ++ [⟨s.cur, home, (me s).prodid, i, n.toNat, none⟩]) ∧
      (s.curtainReqs = [] → c.count + 1 < n.toNat → c.count = 0 ∨ n.toNat = c.n →
        ∃ t u, exec (.curtain a b) s = .next t ∧ exec (.curtainHome 0) t = .next u ∧ u.curtainReqs = [] ∧
          curtainAt u home (me s).prodid i = { c with count := c.count + 1, n := n.toNat } ∧
          (me u).waiting = .arrived home i c.gen ∧ (me u).st = .parked (.curtain x) ∧ (me u).pc = (me s).pc) ∧
      (s.curtainReqs = [] → c.count + 1 = n.toNat → c.count = 0 ∨ n.toNat = c.n →
        ∃ t u, exec (.curtain a b) s = .next t ∧ exec (.curtainHome 0) t = .next u ∧ u.curtainReqs = [] ∧
          curtainAt u home (me s).prodid i = { c with gen := c.gen + 1, count := 0, n := 0 } ∧
          (me u).waiting = .none ∧ (me u).st = .ready ∧ (me u).pc = nextPc s ∧ others u) ∧
      (c.count = 0 ∨ n.toNat = c.n → c.count + 1 ≠ n.toNat →
        ∃ t, exec (.curtainx d a b) s = .next t ∧ (me t).st = .ready ∧ (me t).pc = nextPc s ∧ (me t).g = (me s).g ∧
          (d ≠ 0 → bitOf (me t).pend d.toNat = true) ∧
          t.curtainReqs = s.curtainReqs ++ [⟨s.cur, home, (me s).prodid, i, n.toNat, some (d.toNat, gen)⟩] ∧
          curtainAt t home (me s).prodid i = { c with count := c.count + 1, n := n.toNat }) ∧
      (c.count = 0 ∨ n.toNat = c.n → c.count + 1 = n.toNat →
        ∃ t, exec (.curtainx d a b) s = .next t ∧ (me t).st = .ready ∧ (me t).pc = nextPc s ∧ (me t).g = (me s).g ∧
          (d ≠ 0 → bitOf (me t).pend d.toNat = true) ∧
          t.curtainReqs = s.curtainReqs ++ [⟨s.cur, home, (me s).prodid, i, n.toNat, some (d.toNat, gen)⟩] ∧
          curtainAt t home (me s).prodid i = { c with gen := c.gen + 1, count := 0, n := 0 } ∧ others t) ∧
      (c.count ≠ 0 → n.toNat ≠ c.n → exec (.curtainx d a b) s = .next (takeTrap s 19 x))) ∧
    (go → n = 0 →
      exec (.curtain a b) s = .next (takeTrap s 19 x) ∧
      ∃ t, exec (.curtainx d a b) s = .next t ∧ (me t).st = .ready ∧ (me t).pc = nextPc s ∧
        (d ≠ 0 → bitOf (me t).pend d.toNat = true) ∧ t.curtains = s.curtains ∧
        t.curtainReqs = s.curtainReqs ++ [⟨s.cur, home, (me s).prodid, i, 0, some (d.toNat, gen)⟩]) ∧
    ((me s).sup = true ∨ fld x 16 48 ≠ 0 ∨ fld x 8 7 ≠ 0 ∨ fld n 16 48 ≠ 0 ∨
        (∃ p, prodAt s (me s).prodid = some p ∧ (if bitOf x 15 then p.pcurtains else p.curtains) ≤ i) →
      exec (.curtain a b) s = .next (takeTrap s 19 x) ∧ exec (.curtainx d a b) s = .next (takeTrap s 19 x))) ∧
  ∀ (s : State) (q : CurtainReq) (r : List CurtainReq), s.curtainReqs = q :: r →
    let c := curtainAt s q.home q.prod q.index
    let i := q.slot
    ((∀ p, prodAt s (slotAt s i).prodid = some p → p.shed = false) → (∀ w v, (slotAt s i).st ≠ .stopped w v) → q.answer = none →
      (c.count = 0 ∨ q.n = c.n → c.count + 1 ≠ q.n →
        ∃ t, exec (.curtainHome 0) s = .next t ∧ curtainAt t q.home q.prod q.index = { c with count := c.count + 1, n := q.n } ∧
          (slotAt t i).waiting = .arrived q.home q.index c.gen ∧ t.curtainReqs = r ∧ (slotAt t i).pc = (slotAt s i).pc) ∧
      (c.count = 0 ∨ q.n = c.n → c.count + 1 = q.n → (slotAt s i).prodid = q.prod →
        ∃ t, exec (.curtainHome 0) s = .next t ∧ t.curtainReqs = r ∧
          curtainAt t q.home q.prod q.index = { c with gen := c.gen + 1, count := 0, n := 0 } ∧
          (slotAt t i).waiting = .none ∧ (slotAt t i).st = .ready ∧
          (slotAt t i).pc = (slotAt s i).pc + BitVec.ofNat 64 (slotAt s i).ilen ∧
          ∀ j, j ≠ i → (slotAt s j).waiting = .arrived q.home q.index c.gen → (slotAt s j).prodid = q.prod →
            (slotAt t j).waiting = .none ∧ (slotAt t j).pc = (slotAt s j).pc + BitVec.ofNat 64 (slotAt s j).ilen ∧
            ((∀ w v, (slotAt s j).st ≠ .stopped w v) → (slotAt t j).st = .ready)) ∧
      (∀ x : Word, c.count ≠ 0 → q.n ≠ c.n → (slotAt s i).waiting = .arriving x →
        exec (.curtainHome 0) s =
          .next (takeTrapAt (setSlot { s with curtainReqs := r } i { slotAt s i with waiting := .none }) i 19 x 0))) ∧
    (∀ (g : GReg) (v : Word), q.answer = some (g.toNat, v) → g ≠ 0 → portCode (slotAt s i) g = 0 →
      ∃ t, exec (.curtainHome 0) s = .next t ∧ readG (slotAt t i) g = v ∧ bitOf (slotAt t i).pend g.toNat = false ∧
        (slotAt t i).st = (slotAt s i).st ∧ (slotAt t i).pc = (slotAt s i).pc ∧ t.curtainReqs = r ∧ t.curtains = s.curtains)

/-- The full/empty instructions on a word that carries the attribute: the request leaves, after the release of those that
release, and the slot parks; without it, code 18, whatever the page permits. At the word's home the condition of R388 decides:
`lde` and `ldf` take the word, `lde` and `ste` leave it empty, `stf` and `fefill` full, `feclr` empty, `feq` tells which, and
the slot goes on at the next instruction; one whose condition fails is listed and the slot goes on waiting; one refused for want
of an entry is sent again (14 R388 to R391). -/
def Obligations.FullEmptyResults : Prop :=
  (∀ q ∈ ([(fun d a => .lde d a, FeKind.lde), (fun d a => .ldf d a, .ldf), (fun d a => .stf d a, .stf), (fun d a => .ste d a, .ste),
      (fun d a => .feq d a, .feq)] : List ((GReg → GReg → Instr) × FeKind)),
    ∀ (s : State) (d a : GReg), Plain s [a, d] → (me s).waiting = .none →
      let ea := readG (me s) a
      (∀ l leaf u, feCheck s ea = (.ok l leaf, u) → acqWaits u u.cur = false → releaseReady s = true → loadsAhead s = false →
        storeAhead s l 8 = false →
        (∃ t p, exec (q.1 d a) s = .next t ∧ (me t).st = .parked (.fullEmpty ea) ∧ (me t).pc = (me s).pc ∧
          (isNear ea = true → t.mem = s.mem) ∧
          t.feReqs = s.feReqs ++ [⟨q.2, d.toNat, s.cur, l, ea, if q.2 = .stf ∨ q.2 = .ste then readG (me s) d else 0, p⟩]) ∧
        (s.feReqs = [] → engineOwns u l 8 = false → feList u l = [] → d ≠ 0 →
          (q.2 = .lde ∨ q.2 = .ldf → isFull u l = true) → (q.2 = .stf → isFull u l = false) →
          ∃ t v, exec (q.1 d a) s = .next t ∧ exec (.feRequest 0) t = .next v ∧ (me v).st = .ready ∧ (me v).waiting = .none ∧
            (me v).pc = nextPc s ∧ v.feReqs = [] ∧ isFull v l = (q.2 == .ldf || q.2 == .stf || (q.2 == .feq && isFull u l)) ∧
            (q.2 = .lde ∨ q.2 = .ldf → homePoisoned t l = false → readG (me v) d = homeWord t l) ∧
            (q.2 = .feq → readG (me v) d = if isFull u l then 1 else 0) ∧
            (q.2 = .stf ∨ q.2 = .ste → readG (me v) d = readG (me s) d))) ∧
      (∀ pa leaf u, ea.toNat % 8 = 0 → checkAddr s (myCore s) (me s).prodid (me s).sup false needNone ea = (.ok (.phys pa) leaf, u) →
        (bitOf leaf 9 = false → exec (q.1 d a) s = .next (takeTrap s 18 ea)) ∧
        (bitOf leaf 9 = true → isAperture pa = false → permits leaf needRW (isUser (me s)) = false →
          exec (q.1 d a) s = .next (accessTrap s 8 ea)))) ∧
  (∀ q ∈ ([(fun a => .fefill a, FeKind.fefill), (fun a => .feclr a, .feclr)] : List ((GReg → Instr) × FeKind)),
    ∀ (s u : State) (a : GReg) (l : Loc) (leaf : Word), Plain s [a] → (me s).waiting = .none →
      let ea := readG (me s) a
      feCheck s ea = (.ok l leaf, u) → acqWaits u u.cur = false → releaseReady s = true → loadsAhead s = false →
      storeAhead s l 8 = false →
      (∃ t p, exec (q.1 a) s = .next t ∧ (me t).st = .parked (.fullEmpty ea) ∧ (me t).pc = (me s).pc ∧
        t.feReqs = s.feReqs ++ [⟨q.2, 0, s.cur, l, ea, 0, p⟩]) ∧
      (s.feReqs = [] → engineOwns u l 8 = false → feList u l = [] →
        ∃ t v, exec (q.1 a) s = .next t ∧ exec (.feRequest 0) t = .next v ∧ (me v).st = .ready ∧ (me v).waiting = .none ∧
          (me v).pc = nextPc s ∧ v.feReqs = [] ∧ isFull v l = (q.2 == .fefill) ∧ (me v).g = (me s).g)) ∧
  (∀ (s : State) (q : FeReq) (r : List FeReq) (pa : Nat) (g : GReg), s.feReqs = q :: r → q.loc = .phys pa → q.reg = g.toNat → g ≠ 0 →
    portCode (slotAt s q.slot) g = 0 → (slotAt s q.slot).st = .parked (.fullEmpty q.ea) → (dieAt s (homeDie pa)).feWait = [] → MemOk s →
    s.poisoned.contains (lineOf pa) = false → engineOwns s q.loc 8 = false →
    let full := s.full.contains (pa / 8)
    let on (t : State) : Prop := (slotAt t q.slot).st = .ready ∧ (slotAt t q.slot).waiting = .none ∧
      (slotAt t q.slot).pc = (slotAt s q.slot).pc + BitVec.ofNat 64 (slotAt s q.slot).ilen ∧ t.feReqs = r
    (full = true → q.kind = .lde → ∃ t, exec (.feRequest 0) s = .next t ∧ on t ∧ t.full.contains (pa / 8) = false ∧
      readG (slotAt t q.slot) g = homeWord s q.loc) ∧
    (full = true → q.kind = .ldf → ∃ t, exec (.feRequest 0) s = .next t ∧ on t ∧ t.full = s.full ∧
      readG (slotAt t q.slot) g = homeWord s q.loc) ∧
    (full = false → q.kind = .stf → ∃ t, exec (.feRequest 0) s = .next t ∧ on t ∧ t.full.contains (pa / 8) = true ∧
      memBytes t.mem pa 8 = leBytes 8 q.data.toNat) ∧
    (q.kind = .ste → ∃ t, exec (.feRequest 0) s = .next t ∧ on t ∧ t.full.contains (pa / 8) = false ∧
      memBytes t.mem pa 8 = leBytes 8 q.data.toNat) ∧
    (q.kind = .feq → ∃ t, exec (.feRequest 0) s = .next t ∧ on t ∧ t.full = s.full ∧
      readG (slotAt t q.slot) g = if full then 1 else 0) ∧
    (q.kind = .fefill → ∃ t, exec (.feRequest 0) s = .next t ∧ on t ∧ t.full.contains (pa / 8) = true ∧ t.mem = s.mem) ∧
    (q.kind = .feclr → ∃ t, exec (.feRequest 0) s = .next t ∧ on t ∧ t.full.contains (pa / 8) = false ∧ t.mem = s.mem) ∧
    ((full = false ∧ (q.kind = .lde ∨ q.kind = .ldf) ∨ full = true ∧ q.kind = .stf) →
      ∃ t, exec (.feRequest 0) s = .next t ∧ (dieAt t (homeDie pa)).feWait = [q] ∧ t.slots = s.slots ∧ t.mem = s.mem ∧ t.full = s.full)) ∧
  ∀ (s : State) (c i w : Nat) (q : FeReq), (slotAt s (16 * c + i)).waiting = .refused q w → w ≤ cycleOf s c →
    ∃ t, exec (.feRetry c i) s = .next t ∧ t.feReqs = s.feReqs ++ [q] ∧ (slotAt t (16 * c + i)).waiting = .request q.ea

/-! Parked slots, patience and pre-emption (04 R91, R123; 05 R152; 13 R346; 17 R445 to R452). -/

/-- A parked slot's tests: PARKED_RETEST leaves it ready at the same instruction where what it waits for holds, and as it was
where not; YIELD_END ends a yield that is over; MIG_REWALK has a migrating access walk again once its cycle has come;
PATIENCE_TRAP traps a slot that has waited PATIENCE cycles with code 12, and leaves one that has not. PREEMPTION of a task with
no context and nothing on its way saves it in the pool's block and frees its slot, or, the pool giving none, holds it;
PRODUCTION_END of a production with no task, packet or operation left frees its number and its contexts and writes DONE, bit 63
set over the reason and the number, where `launch` found it; while DONE's page migrates it waits (04 R91, R111, R123; 05 R152;
13 R346; 17 R446, R447). -/
def Obligations.ParkedEvents : Prop :=
  ∀ (s : State) (c i : Nat), i < 16 →
    let n := 16 * c + i
    let x := slotAt s n
    let ready : State := setSlot s n { x with st := .ready }
    (∀ r, x.st = .parked (.pending r) → (bitOf x.pend r = false → exec (.parkedRetest c i) s = .next ready) ∧
      (bitOf x.pend r = true → exec (.parkedRetest c i) s = .next s)) ∧
    (∀ l st k t, x.st = .parked (.counters l st k t) → x.outL ≤ l → x.outS ≤ st → x.outC ≤ k → x.outT ≤ t →
      exec (.parkedRetest c i) s = .next ready) ∧
    (∀ u, x.st = .parked (.yieldUntil u) → (u ≤ cycleOf s c → exec (.yieldEnd c i) s = .next ready) ∧
      (cycleOf s c < u → exec (.yieldEnd c i) s = .next s)) ∧
    (∀ ea u, x.st = .parked (.migrating ea u) → (u ≤ cycleOf s c → exec (.migRewalk c i) s = .next ready) ∧
      (cycleOf s c < u → exec (.migRewalk c i) s = .next s)) ∧
    (∀ r u, x.st = .parked (.pending r) → x.since = some u → x.saved = false → x.patience ≠ 0 → bitOf x.pend r = true →
      (u + x.patience.toNat ≤ cycleOf s c → exec (.patienceTrap c i) s = .next (takeTrapAt (withdraw s n) n 12 (look x.gea r 0) 0)) ∧
      (cycleOf s c < u + x.patience.toNat → exec (.patienceTrap c i) s = .next s)) ∧
    (∀ w o k, x.st = .stopped (.preempting w) o → preemptReady s n = true → x.freezing = none → ctxOf s n = some k → x.handler = false →
      stripsRun s k = false → poolWaits s c x.prodid x.saveptr (areaSize (ctxAt s k)) = false → exec (.preemption c i w) s = .next (preemptNow s n k w)) ∧
    (∀ w o, x.st = .stopped (.preempting w) o → x.freezing = none → x.vctx = none → x.waiting = .none → x.sbuf = [] → x.arrivals = [] →
      portWaits s n = false → (∀ q ∈ s.curtainReqs, q.slot ≠ n) → sfuOut s n = false → x.late = [] → x.outT = 0 →
      poolWaits s c x.prodid x.saveptr 0x18000 = false →
      let u := setSlot (withdrawRequest s n) n { x with since := none }
      (∀ area v, poolTake u c x.saveptr 0x18000 = some (area, v) →
        ∃ t q, exec (.preemption c i w) s = .next t ∧ (slotAt t n).st = .free ∧ (slotAt t n).saveptr = x.saveptr ∧
          (coreAt t c).saved.getLast? = some q ∧ q.area = area ∧ q.prod = x.prodid ∧ q.task = x.taskid ∧ q.pool = x.saveptr ∧
          q.slot.g = x.g ∧ q.slot.pc = x.pc) ∧
      (poolTake u c x.saveptr 0x18000 = none →
        ∃ t, exec (.preemption c i w) s = .next t ∧ (slotAt t n).st = .stopped (.held w) none ∧ (slotAt t n).g = x.g)) ∧
    (∀ p v, prodAt s p = some v → prodOver s p v = true → donePlace s v ≠ .migrating →
      ∃ t, exec (.productionEnd p) s = .next t ∧ (∀ j, ctxProd j = p → ctxAt t j = ctx0) ∧
        ∀ pa g, v.done = .phys pa → v.donePage = some g → v.doneFe = false → isAperture pa = false → pa % 8 = 0 → MemOk s →
          memBytes t.mem pa 8 = leBytes 8 (BitVec.ofNat 64 (2 ^ 63 + v.ending.getD 0 * 2 ^ 56 + p)).toNat) ∧
    (∀ p v, prodAt s p = some v → (∀ q ∈ s.slots, q.2.st = .free ∨ q.2.sup = true ∨ q.2.prodid ≠ p) →
      (∀ q ∈ s.cores, (∀ o ∈ q.2.sgOps, o.owner.prod ≠ p) ∧ (∀ t ∈ q.2.wings, t.prodid ≠ p) ∧ (∀ r ∈ q.2.saved, r.prod ≠ p)) →
      s.door.colls = [] → doorWaits s = [] → (∀ q ∈ s.dies, ∀ t ∈ q.2.board, t.prodid ≠ p) → v.spillSize = 0 →
      v.donePage.isSome = true → v.doneFe = false → (∀ pa, v.done = .phys pa → isAperture pa = false) →
      ∃ t, exec (.productionEnd p) s = .next t ∧ prodAt t p = none ∧ (∀ j, ctxProd j = p → ctxAt t j = ctx0) ∧ t.slots = s.slots) ∧
    (∀ p v, prodAt s p = some v → prodOver s p v = false ∨ donePlace s v = .migrating → exec (.productionEnd p) s = .next s)

/-! The engines beside a core (13 R360 to R368; 15 R397 to R404). -/

/-- The stagehand's instructions: a bad count word is trap code 20; otherwise, with room and the slot's earlier accesses
performed and, as the model has it (log 19), no engine owning a line of the source, the operation joins the stagehand's list
with what its form reads at issue (log 19: the bytes of a copy's source within a line of scratch as well), OUTST.C rises by one
and g[d] is pending as a token. STAGEHAND_COMMAND takes four items of the command queue as one, a bad kind ending at once with
CAUSE 4. ENGINE_OPERATION_DONE has an operation that runs leave with its token, which is in g[d], pending no longer; a copy of
such bytes has them at its destination in scratch then (13 R360 to R366; 14 R378, R380). -/
def Obligations.EngineResults : Prop :=
  (∀ q ∈ ([(.cpy, SgKind.copy), (.nmr, .nearReduce), (.cpy2d, .copy2d), (.cpyg, .gather)] : List ((GReg → GReg → GReg → Instr) × SgKind)),
    ∀ (s : State) (d a b : GReg), Plain s [a, b, d] →
    let ctl := readG (me s) d
    let c := myCore s
    (countWordOk q.2 ctl = false → exec (q.1 d a b) s = .next (takeTrap s 20 0)) ∧
    (countWordOk q.2 ctl = true → (coreAt s c).sgOps.length < 32 → (me s).outC < 63 → releaseReady s = true →
      (∀ l n, engineOwns s l n = false) →
      let goes (blk : List Word) (read : List (List Byte) → Prop) : Prop :=
        ∃ t, exec (q.1 d a b) s = .next t ∧ (me t).pc = nextPc s ∧ (me t).g = (me s).g ∧
          (me t).outC = (me s).outC + 1 ∧ (d ≠ 0 → bitOf (me t).pend d.toNat = true) ∧
          ∃ o, (coreAt t c).sgOps = (coreAt s c).sgOps ++ [o] ∧ read o.snap ∧ { o with owned := [], snap := [] } =
            ⟨(coreAt s c).sgNext, q.2, ownerOf s, (me s).sup, isUser (me s), some d.toNat, readG (me s) a, readG (me s) b, ctl,
              blk, none, [], [], engineAge s⟩
      (q.2 = .copy ∨ q.2 = .nearReduce → goes [] fun _ => True) ∧
      (∀ x, q.2 = .copy → 0 < cwCount ctl → x % 32 + cwCount ctl ≤ 32 → nearBlock s (readG (me s) b) x (cwCount ctl) →
        goes [] (· = [scratchBytes s c (me s).prodid x (cwCount ctl)])) ∧
      (∀ o, q.2 = .copy2d → nearBlock s (readG (me s) b) o 32 → goes (nearWords s o 4) fun _ => True) ∧
      (∀ o p n, q.2 = .gather → nearBlock s (readG (me s) b) o 16 → (nearWords s o 2)[1]? = some (BitVec.ofNat 64 n) → n < 2 ^ 16 →
        (∀ w, (nearWords s o 2)[0]? = some w → nearBlock s w p (8 * n)) → goes (nearWords s p n) fun _ => True))) ∧
  (∀ (s : State) (c i : Nat) (kind ctl dst src : Word) (rest : List Word), i < 16 → (slotAt s (16 * c + i)).qCmd = kind :: ctl :: dst :: src :: rest →
    (slotAt s (16 * c + i)).st ≠ .free → (coreAt s c).sgOps.length < 32 → (slotAt s (16 * c + i)).outC < 63 →
    releaseReady { s with cur := 16 * c + i } = true → (∀ l n, engineOwns s l n = false) →
    (3 < kind.toNat ∨ kind = 0 ∧ countWordOk .copy ctl = true → ∃ t o, exec (.stagehandCommand c i) s = .next t ∧
      (slotAt t (16 * c + i)).qCmd = rest ∧ (slotAt t (16 * c + i)).outC = (slotAt s (16 * c + i)).outC + 1 ∧
      (coreAt t c).sgOps = (coreAt s c).sgOps ++ [o] ∧ o.dst = dst ∧ o.src = src ∧ o.ctl = ctl ∧ o.reg = none ∧
      o.token = if 3 < kind.toNat then some (BitVec.ofNat 64 (2 ^ 63 + 4 * 2 ^ 56)) else none)) ∧
  (∀ (s u : State) (c n : Nat) (o : SgOp) (v : Word), (coreAt s c).sgOps[n]? = some o → opRuns (coreAt s c) n o = true → o.token = none →
    runOp s o = .ends u v → exec (.engineOperationDone c n) s = .next (finishOp u c o v)) ∧
  (∀ (s : State) (o : SgOp), cwCount o.ctl = 0 → runOp s o = .ends s 0) ∧
  (∀ (s : State) (c orig dest n : Nat) (o : SgOp) (r : GReg) (b : List Byte), (coreAt s c).sgOps = [o] → slotCore o.owner.slot = c →
    o.token = none → o.kind = .copy → o.sup = false → o.snap = [b] → b.length = n → cwCount o.ctl = n → 0 < n →
    s.door.remotes = [] → (∀ l n, ownedBefore s o.age l n = false) →
    o.src = BitVec.ofNat 64 (nearBase + orig) → o.dst = BitVec.ofNat 64 (nearBase + dest) → orig % 32 + n ≤ 32 → dest % 32 + n ≤ 32 →
    scratchSize s c o.owner.prod ≤ 2 ^ 19 → orig + n ≤ scratchSize s c o.owner.prod → dest + n ≤ scratchSize s c o.owner.prod →
    (scratchAt s c o.owner.prod).poison = [] → holds (slotAt s o.owner.slot) o.owner = true → o.reg = some r.toNat → r ≠ 0 →
    portCode (slotAt s o.owner.slot) r = 0 →
      ∃ t, exec (.engineOperationDone c 0) s = .next t ∧ (coreAt t c).sgOps = [] ∧ scratchBytes t c o.owner.prod dest n = b ∧
        readG (slotAt t o.owner.slot) r = tokenWord false 0 n ∧ bitOf (slotAt t o.owner.slot).pend r.toNat = false ∧ t.mem = s.mem) ∧
  ∀ (s : State) (c : Nat) (o : SgOp) (v : Word) (r : GReg), holds (slotAt s o.owner.slot) o.owner = true → o.reg = some r.toNat → r ≠ 0 →
    portCode (slotAt s o.owner.slot) r = 0 →
    let t := finishOp s c o v
    readG (slotAt t o.owner.slot) r = v ∧ bitOf (slotAt t o.owner.slot).pend r.toNat = false ∧
    (slotAt t o.owner.slot).outC = (slotAt s o.owner.slot).outC - 1 ∧ (∀ q ∈ (coreAt t c).sgOps, q.id ≠ o.id) ∧ t.mem = s.mem

/-- `sfu`: a code above 10 is trap code 20, an FP32 hook 16; otherwise the request joins the core's list and g[d] is pending.
SFU_BATCH has the octet's unit take the oldest batch of one core, which its one request forms alone; SFU_RESULT delivers the
oldest batch in the unit: a request's value in its register, pending no longer, and its flags in FFLAGS, or the last of a
strip's elements, with which the strip's end is set (15 R397 to R401). The value is the device's own, to R401's bound (log 9).
-/
def Obligations.SpecialFunctionResults : Prop :=
  (∀ (s : State) (d a b : GReg), Plain s [a, b, d] →
    let x := (readG (me s) a).toNat % 2 ^ 32
    (10 < (readG (me s) b).toNat → exec (.sfu d a b) s = .next (takeTrap s 20 0)) ∧
    ((readG (me s) b).toNat ≤ 10 → isHook x = true → exec (.sfu d a b) s = .next (takeTrap s 16 0)) ∧
    ((readG (me s) b).toNat ≤ 10 → isHook x = false → sfuCount s s.cur < 4 →
      ∃ t, exec (.sfu d a b) s = .next t ∧ (me t).pc = nextPc s ∧ (me t).g = (me s).g ∧ (d ≠ 0 → bitOf (me t).pend d.toNat = true) ∧
        (coreAt t (myCore s)).sfuReqs = (coreAt s (myCore s)).sfuReqs ++
          [⟨s.cur, some d.toNat, (readG (me s) b).toNat, BitVec.ofNat 32 x, 0, 0, sfuQueued s s.cur⟩] ∧ t.mem = s.mem)) ∧
  (∀ (s : State) (o c : Nat),
    let u := (tab 8 (8 * o) id).foldl (fun s c => sfuFill s c 4) s
    (tab 8 1 fun i => 8 * o + (look u.sfuLast o 7 + i) % 8).find? (fun c => !(coreAt u c).sfuPort.isEmpty) = some c →
    ∃ t, exec (.sfuBatch o) s = .next t ∧ (coreAt t c).sfuRun = (coreAt u c).sfuRun ++ [(coreAt u c).sfuPort.headD ⟨[], none⟩] ∧
      (coreAt t c).sfuPort = (coreAt u c).sfuPort.drop 1 ∧ t.slots = u.slots ∧ t.mem = u.mem) ∧
  (∀ (s : State) (o c : Nat) (q : SfuReq), c / 8 = o → slotCore q.slot = c → q.behind = 0 → (coreAt s c).sfuReqs = [q] →
    (∀ k, k / 8 = o → (coreAt s k).sfuPort = [] ∧ (coreAt s k).sfuVec = [] ∧ (k ≠ c → (coreAt s k).sfuReqs = [])) →
    (∀ i, slotCore i / 8 = o → (slotAt s i).qSfuReq = []) →
      ∃ t, exec (.sfuBatch o) s = .next t ∧ (coreAt t c).sfuReqs = [] ∧ (coreAt t c).sfuPort = [] ∧
        (coreAt t c).sfuRun = (coreAt s c).sfuRun ++ [⟨[q], none⟩] ∧ t.slots = s.slots ∧ t.mem = s.mem) ∧
  (∀ (s : State) (c x way : Nat) (v : SfuStrip) (w : Strip) (t : List SfuBatch), (coreAt s c).sfuRun = ⟨[], some (x, way)⟩ :: t →
    (coreAt s c).sfuVec = [v] → v.ctx = x → v.way = way → v.left = 0 → v.out ≤ 1 → (coreAt s c).strips = [w] → w.ctx = x → w.way = way →
      ∃ u z, exec (.sfuResult c) s = .next u ∧ (coreAt u c).sfuRun = t ∧ (coreAt u c).sfuVec = [] ∧ (coreAt u c).strips = [z] ∧
        z = { w with endAt := z.endAt } ∧ cycleOf s c < z.endAt ∧ u.slots = s.slots ∧ u.mem = s.mem) ∧
  ∀ (s : State) (c : Nat) (q : SfuReq) (t : List SfuBatch) (g : GReg), (coreAt s c).sfuRun = ⟨[q], none⟩ :: t → q.reg = some g.toNat → g ≠ 0 →
    portCode (slotAt s q.slot) g = 0 →
    ∃ u, exec (.sfuResult c) s = .next u ∧ (coreAt u c).sfuRun = t ∧ readG (slotAt u q.slot) g = BitVec.ofNat 64 (sfuOf q.fn q.x).1 ∧
      bitOf (slotAt u q.slot).pend g.toNat = false ∧ (slotAt u q.slot).fflags = (slotAt s q.slot).fflags ||| (sfuOf q.fn q.x).2 ∧
      u.mem = s.mem ∧ ∀ j, j ≠ q.slot → slotAt u j = slotAt s j

/-! The ports: packets that arrive, packets sent and collectives (18 R453 to R466). -/

/-- A stage-door request whose connection is valid, next in its sequence, with good seals and no page on its way migrating: a
write that its window refuses is answered NACK with STATUS 2, one of a line changes in memory the bytes its record names within
the access and is acknowledged (a RoCE WRITE with the PSN of its last packet, log 20); a read answers the bytes, or NACK with
STATUS 2 or 3; an atomic at the home answers the old value; a message finds its mailbox full, STATUS 1, or gives it its payload,
at offset 8 (log 20), and fills HEAD; a collective's announcement is listed. One that came before is answered again and not
performed; outside the sequence nothing is performed; at a migrating page it waits. A RoCE request next on its connection
answers what R460 gives it, and an invalid frame and a discarded kind do nothing (13 R346; 18 R453, R455 to R458, R460, R461).
The layout of a collective's packets is the model's (log 23). -/
def Obligations.ArrivingPackets : Prop :=
  (∀ (s : State) (p : Packet) (e : ConnEntry), stageConn s p.conn = some e → recsOk p.recs = true → p.len ≤ 4096 →
    p.psn = (connAt s p.conn).psnIn → (∀ k, requestWaits s k p = false) → MemOk (taken s p) →
    let u := taken s p
    let ack (t : State) : State := answer t p.conn e 5 p.tag 0 0 0 []
    let nack (status : Nat) : State := answer u p.conn e 6 p.tag status 0 0 []
    let outside (t : State) (a n : Nat) : Prop := ∀ x, x < a ∨ a + n ≤ x → memByte t.mem x = memByte u.mem x
    (windowFor u p.conn p.win p.key p.offset p.len .write = none → exec (.stageDoorWrite p) s = .next (nack 2)) ∧
    (windowFor u p.conn p.win p.key p.offset p.len .read = none → exec (.stageDoorRead p) s = .next (nack 2)) ∧
    (∀ w, windowFor u p.conn p.win p.key p.offset p.len .write = some w →
      let va := (w.base + BitVec.ofNat 64 p.offset).toNat
      (windowLines u w needW (BitVec.ofNat 64 va) p.len = none → exec (.stageDoorWrite p) s = .next (nack 2)) ∧
      ∀ l pa r, windowLines u w needW (BitVec.ofNat 64 va) p.len = some [(l, pa)] → p.recs = [r] →
        ∃ t, exec (.stageDoorWrite p) s = .next (ack t) ∧ outside t pa 32 ∧
          ∀ j < 32, memByte t.mem (pa + j) =
            if bitOf r.mask j = true ∧ va ≤ l + j ∧ l + j < va + p.len then r.data.getD j 0 else memByte u.mem (pa + j)) ∧
    (∀ w, windowFor u p.conn p.win p.key p.offset p.len .read = some w →
      let va := (w.base + BitVec.ofNat 64 p.offset).toNat
      ∀ ls, windowLines u w needR (BitVec.ofNat 64 va) p.len = some ls →
        ((∃ q ∈ ls, u.poisoned.contains (lineOf q.2) = true) → exec (.stageDoorRead p) s = .next (nack 3)) ∧
        ((∀ q ∈ ls, u.poisoned.contains (lineOf q.2) = false) →
          exec (.stageDoorRead p) s = .next (answer u p.conn e 2 p.tag 0 p.offset p.len (makeRecs (p.len / 32 + 2) p.offset
            ((((ls.map fun q => memBytes u.mem q.2 32).flatten).drop (va % 32)).take p.len))))) ∧
    (∀ r w pa, p.recs = [r] → (r.data.getD 0 0).toNat ≤ 6 → (r.data.getD 1 0).toNat ≤ 3 →
      let n := 2 ^ (r.data.getD 1 0).toNat
      p.offset % n = 0 → windowFor u p.conn p.win p.key p.offset n .atomic = some w →
      windowPhys u w needRW (w.base + BitVec.ofNat 64 p.offset) = some pa → pa % n = 0 →
      (u.poisoned.contains (lineOf pa) = true → exec (.stageDoorAtomic p) s = .next (nack 3)) ∧
      (u.poisoned.contains (lineOf pa) = false →
        let x := leNat (memBytes u.mem pa n)
        let v := leNat ((r.data.drop 8).take n)
        let sg (y : Nat) : Int := (BitVec.ofNat (8 * n) y).toInt
        let new := match (r.data.getD 0 0).toNat with
          | 0 => (x + v) % 2 ^ (8 * n)
          | 1 => v
          | 2 => if sg x < sg v then v else x
          | 3 => if sg v < sg x then v else x
          | 4 => x &&& v
          | 5 => x ||| v
          | _ => if x = v then leNat ((r.data.drop 16).take n) else x
        ∃ t, exec (.stageDoorAtomic p) s = .next (answer t p.conn e 2 p.tag 0 p.offset n (makeRecs 2 p.offset (memBytes u.mem pa n))) ∧
          memBytes t.mem pa n = leBytes n new ∧ outside t pa n)) ∧
    (let c := p.offset % 1024
     let k := p.offset / 65536 % 128
     let n := (p.len + 7) / 8
     ((coreAt u c).mbox = 0 ∨ 111 < k ∨ n = 0 ∨ 31 < n → exec (.stageDoorMsg p) s = .next (nack 2)) ∧
     ∀ pa, (coreAt u c).mbox ≠ 0 → k ≤ 111 → 1 ≤ n → n ≤ 31 → regionPhys u c (0x1000 + 256 * k) = some pa →
       (u.full.contains (pa / 8) = true → exec (.stageDoorMsg p) s = .next (nack 1)) ∧
       (u.full.contains (pa / 8) = false → (dieAt u (homeDie pa)).feWait = [] →
         ∃ t, exec (.stageDoorMsg p) s = .next (ack t) ∧ t.full.contains (pa / 8) = true ∧
           memBytes t.mem pa 8 = leBytes 8 (p.conn % 256 * 2 ^ 48 + n * 2 ^ 40 + ((connAt u p.conn).msgno + 1) % 2 ^ 32) ∧
           ∀ j < 8 * n, memByte t.mem (pa + 8 + j) = if p.len ≤ j then 0 else
             (p.recs[(8 + j) / 32]?).elim (memByte u.mem (pa + 8 + j)) fun r =>
               if bitOf r.mask ((8 + j) % 32) = true then r.data.getD ((8 + j) % 32) 0 else memByte u.mem (pa + 8 + j))) ∧
    (p.len = 0 → look u.door.collSeen p.status 0 = 0 → p.offset < 2 ^ 33 → ∃ t, exec (.stageDoorColl p) s = .next (ack t) ∧
      t.door.collIn = u.door.collIn ++ [⟨p.conn, p.status, 0, p.key, p.offset, p.win, []⟩] ∧ t.mem = u.mem ∧ t.slots = u.slots)) ∧
  (∀ (s : State) (p : Packet), ∀ i ∈ [Instr.stageDoorWrite p, .stageDoorRead p, .stageDoorAtomic p, .stageDoorMsg p, .stageDoorColl p],
    tableWaits s = false →
    (stageConn s p.conn = none ∨ recsOk p.recs = false ∨ 4096 < p.len → exec i s = .next s) ∧
    (∀ e, stageConn s p.conn = some e → recsOk p.recs = true → p.len ≤ 4096 → p.psn ≠ (connAt s p.conn).psnIn →
      (psnBelow p.psn (connAt s p.conn).psnIn = true → exec i s = .next (answerAgain s p e)) ∧
      (psnBelow p.psn (connAt s p.conn).psnIn = false → exec i s = .next s))) ∧
  (∀ (s : State) (p : Packet),
    ∀ q ∈ [(0, Instr.stageDoorWrite p), (1, .stageDoorRead p), (3, .stageDoorAtomic p), (4, .stageDoorMsg p), (7, .stageDoorColl p)],
    requestWaits s q.1 p = true → exec q.2 s = .next (hold s (.stage q.1 p))) ∧
  (∀ (s : State) (conn win key off len : Nat) (w : WinEntry), winEntry s win = some w →
    (w.key ≠ key ∨ 64 ≤ conn ∨ bitOf w.conns conn = false ∨ w.length.toNat < off + len →
      ∀ n, windowFor s conn win key off len n = none) ∧
    (w.key = key → conn < 64 → bitOf w.conns conn = true → off + len ≤ w.length.toNat →
      (w.rd = true → windowFor s conn win key off len .read = some w) ∧ (w.wr = true → windowFor s conn win key off len .write = some w) ∧
      (w.at_ = true → windowFor s conn win key off len .atomic = some w)) ∧
    (w.rd = false → windowFor s conn win key off len .read = none) ∧ (w.wr = false → windowFor s conn win key off len .write = none) ∧
    (w.at_ = false → windowFor s conn win key off len .atomic = none)) ∧
  (∀ (s : State) (r : RoceMsg) (e : ConnEntry), roceConn s r.conn = some e → (connAt s r.conn).psnIn = r.psn →
    (∀ k, roceWaits s k r = false) →
    exec (.roceUnsupported r) s = .next (roceAnswer s r 2 []) ∧
    (248 < r.data.length → exec (.roceSend r) s = .next (roceAnswer s r 2 [])) ∧
    (∀ pa, r.data ≠ [] → r.data.length ≤ 248 → e.dcore < 1024 → e.dmbox ≤ 111 → (coreAt s e.dcore).mbox ≠ 0 →
      regionPhys s e.dcore (0x1000 + 256 * e.dmbox) = some pa →
      (s.full.contains (pa / 8) = true → exec (.roceSend r) s = .next (roceAnswer s r 4 [])) ∧
      (s.full.contains (pa / 8) = false → (dieAt s (homeDie pa)).feWait = [] →
        ∃ t, exec (.roceSend r) s = .next t ∧ t.full.contains (pa / 8) = true ∧ (connAt t r.conn).psnIn = (r.psn + 1) % 2 ^ 24 ∧
          t.door.outbox = s.door.outbox ++ [.roce r.conn 0 r.psn []])) ∧
    let wrote : RoceMsg := { r with psn := (r.psn + rocePackets r.conn r.data.length - 1) % 2 ^ 24 }
    (2 ^ 24 ≤ r.rkey → exec (.roceRdmaWrite r) s = .next (roceAnswer s r 3 []) ∧ exec (.roceRdmaRead r) s = .next (roceAnswer s r 3 [])) ∧
    (r.rkey < 2 ^ 24 →
      (windowFor s r.conn (r.rkey % 256) (r.rkey / 256) r.offset r.data.length .write = none →
        exec (.roceRdmaWrite r) s = .next (roceAnswer s r 3 [])) ∧
      (∀ w va t, winEntry s (r.rkey % 256) = some w → va = (w.base + BitVec.ofNat 64 r.offset).toNat →
        windowWrite s r.conn (r.rkey % 256) (r.rkey / 256) r.offset r.data.length (makeRecs (r.data.length / 32 + 2) va r.data) = some t →
        ∃ v, exec (.roceRdmaWrite r) s = .next v ∧ v.mem = t.mem ∧
          (connAt v r.conn).psnIn = (r.psn + rocePackets r.conn r.data.length) % 2 ^ 24 ∧
          v.door.outbox = s.door.outbox ++ [.roce r.conn 0 (wrote.psn) []]) ∧
      (∀ w l pa, MemOk s → windowFor s r.conn (r.rkey % 256) (r.rkey / 256) r.offset r.data.length .write = some w → r.data ≠ [] →
        let va := (w.base + BitVec.ofNat 64 r.offset).toNat
        windowLines s w needW (BitVec.ofNat 64 va) r.data.length = some [(l, pa)] →
        ∃ v, exec (.roceRdmaWrite r) s = .next v ∧ memBytes v.mem (pa + va % 32) r.data.length = r.data ∧
          (∀ x, x < pa + va % 32 ∨ pa + va % 32 + r.data.length ≤ x → memByte v.mem x = memByte s.mem x) ∧
          (connAt v r.conn).psnIn = (r.psn + rocePackets r.conn r.data.length) % 2 ^ 24 ∧
          v.door.outbox = s.door.outbox ++ [.roce r.conn 0 (wrote.psn) []]) ∧
      (∀ w, windowFor s r.conn (r.rkey % 256) (r.rkey / 256) r.offset r.len .read = some w →
        let va := (w.base + BitVec.ofNat 64 r.offset).toNat
        ∀ ls, windowLines s w needR (BitVec.ofNat 64 va) r.len = some ls → (∀ q ∈ ls, s.poisoned.contains (lineOf q.2) = false) →
        ∃ v, exec (.roceRdmaRead r) s = .next v ∧ v.mem = s.mem ∧
          (connAt v r.conn).psnIn = (r.psn + rocePackets r.conn r.len) % 2 ^ 24 ∧
          v.door.outbox = s.door.outbox ++
            [.roce r.conn 5 r.psn ((((ls.map fun q => memBytes s.mem q.2 32).flatten).drop (va % 32)).take r.len)]))) ∧
  (∀ (s : State) (r : RoceMsg), ∀ i ∈ [Instr.roceRdmaWrite r, .roceRdmaRead r, .roceSend r, .roceUnsupported r],
    roceConn s r.conn = none → tableWaits s = false → exec i s = .next s) ∧
  (∀ (s : State) (r : RoceMsg) (e : ConnEntry), roceConn s r.conn = some e → (∀ k, roceWaits s k r = false) →
    let p := (connAt s r.conn).psnIn
    p ≠ r.psn →
    ((p + 2 ^ 24 - r.psn) % 2 ^ 24 < 2 ^ 23 →
      exec (.roceRdmaWrite r) s =
        .next (roceAnswer s { r with psn := (r.psn + rocePackets r.conn r.data.length - 1) % 2 ^ 24 } 0 []) ∧
      exec (.roceSend r) s = .next (roceAnswer s r 0 []) ∧ exec (.roceUnsupported r) s = .next (roceAnswer s r 2 [])) ∧
    (2 ^ 23 ≤ (p + 2 ^ 24 - r.psn) % 2 ^ 24 →
      ∀ i ∈ [Instr.roceRdmaWrite r, .roceRdmaRead r, .roceSend r, .roceUnsupported r], exec i s = .next (roceAnswer s { r with psn := p } 1 []))) ∧
  ∀ (s : State) (n : Nat) (k : BitVec 4), exec (.invalidFrame n) s = .next s ∧ exec (.stageDoorKindDiscarded k) s = .next s

/-- `msgs`: a bad count word is trap code 20, a misaligned payload code 6; else the payload leaves as one packet on the
connection, its records aligned as the mailbox has it (log 20), and g[d] is pending as a token, which fails at once with CAUSE 5
without a port core and CAUSE 7 without the connection, and waits where the table's page migrates. The answer ends it: an
acknowledgement gives the length done, a refusal its CAUSE, STATUS 1 has it go again after 50 µs, and with CAUSE 6 after 100 ms
of busy answers. A READRESP gives a waiting load its value. RETRANSMIT sends again what is not answered (log 20) after 50 µs;
CONNECTION_LOST, after 100 ms, fails what waits, acknowledged or not, and starts the connection afresh (13 R346; 18 R454, R456,
R457, R459, R463). -/
def Obligations.SentPackets : Prop :=
  (∀ (s : State) (d a b : GReg), Plain s [a, b, d] →
    let ea := readG (me s) a
    let w := readG (me s) b
    let bad : Prop := fld w 62 2 ≠ 0 ∨ fld w 50 6 ≠ 0 ∨ fld w 39 1 ≠ 0 ∨ fld w 5 27 ≠ 0 ∨ 111 < fld w 32 7 ∨ fld w 0 5 = 0
    let n := 8 * fld w 0 5
    (bad → exec (.msgs d a b) s = .next (takeTrap s 20 0)) ∧
    (¬bad → ea.toNat % 8 ≠ 0 → exec (.msgs d a b) s = .next (takeTrap s 6 ea)) ∧
    (¬bad → ea.toNat % 8 = 0 → (63 ≤ (me s).outC ∨ releaseReady s = false) → exec (.msgs d a b) s = .next (park s (.entry ea))) ∧
    (¬bad → ea.toNat % 8 = 0 → (me s).outC < 63 → releaseReady s = true → ∀ ls u,
      blockPlaces (releaseAt s (myCore s) .system) needR (blockPieces (n / 32 + 2) ea n) = .ok (ls, u) →
      (∀ q ∈ ls, apertureOf q.1 = none ∧ locPoisoned u (myCore s) q.1 = false ∧ engineOwns u q.1 q.2 = false) →
      let data := (ls.map fun q => locBytes u (myCore s) q.1 q.2).flatten
      (∀ d ∈ u.door.deferred, d.conn ≠ fld w 56 6) →
      (tableWaits u = true → ∃ t, exec (.msgs d a b) s = .next t ∧ (me t).pc = nextPc s ∧ (me t).outC = (me s).outC + 1 ∧
        (d ≠ 0 → bitOf (me t).pend d.toNat = true) ∧ t.door.deferred.length = u.door.deferred.length + 1 ∧ t.door.outbox = u.door.outbox) ∧
      (portCore u = none → exec (.msgs d a b) s = .next (advance (sendResult u d (tokenWord true 5 0) false 0 .c))) ∧
      (portCore u ≠ none → tableWaits u = false → stageConn u (fld w 56 6) = none →
        exec (.msgs d a b) s = .next (advance (sendResult u d (tokenWord true 7 0) false 0 .c))) ∧
      ∀ e, stageConn u (fld w 56 6) = some e → tableWaits u = false →
        ∃ t q, exec (.msgs d a b) s = .next t ∧ (me t).pc = nextPc s ∧ (me t).outC = (me s).outC + 1 ∧
          (d ≠ 0 → bitOf (me t).pend d.toNat = true) ∧ t.door.outbox = u.door.outbox ++ [.packet q] ∧ q.kind = 4 ∧
          q.conn = e.remote % 65536 ∧ q.psn = (connAt u (fld w 56 6)).psnOut ∧ q.offset = fld w 40 10 + 65536 * fld w 32 7 ∧
          q.len = data.length ∧ q.recs = makeRecs 9 8 data ∧ t.mem = u.mem) ∧
    (¬bad → (me s).outC < 63 → releaseReady s = true → ∀ (o : Nat) (e : ConnEntry), nearBlock s ea o n → o % 8 = 0 →
      let r := releaseAt s (myCore s) .system
      stageConn r (fld w 56 6) = some e → tableWaits r = false → r.door.deferred = [] →
      ∃ t q, exec (.msgs d a b) s = .next t ∧ (me t).pc = nextPc s ∧ (me t).outC = (me s).outC + 1 ∧
        (d ≠ 0 → bitOf (me t).pend d.toNat = true) ∧ t.door.outbox = r.door.outbox ++ [.packet q] ∧ q.kind = 4 ∧
        q.offset = fld w 40 10 + 65536 * fld w 32 7 ∧ q.len = n ∧
        q.recs = makeRecs 9 8 (scratchBytes s (myCore s) (me s).prodid o n))) ∧
  (∀ (s : State) (p : Packet) (e : ConnEntry) (o : Owner) (g : GReg), stageConn s p.conn = some e → holds (slotAt s o.slot) o = true →
    g ≠ 0 → portCode (slotAt s o.slot) g = 0 → tableWaits s = false →
    let k := connAt s p.conn
    let gets (t : State) (v : Word) : Prop := readG (slotAt t o.slot) g = v ∧ bitOf (slotAt t o.slot).pend g.toNat = false ∧
      (connAt t p.conn).waits = []
    (∀ size signed ea, k.waits = [(p.tag, .load o g.toNat size signed ea false)] → recsOk p.recs = true →
      ∃ t, exec (.stageDoorReadresp p) s = .next t ∧ gets t (loadValue size signed (recBytes p.recs p.offset p.len))) ∧
    (∀ off data busy, k.waits = [(p.tag, .msg o g.toNat off data busy)] →
      (p.status = 0 → ∃ t, exec (.stageDoorAck p) s = .next t ∧ gets t (tokenWord false 0 data.length) ∧
        (connAt t p.conn).unacked = k.unacked.filter fun q => q.tag != p.tag) ∧
      (p.status ≠ 1 → ∃ t, exec (.stageDoorNack p) s = .next t ∧
        gets t (tokenWord true (if p.status = 3 then 3 else if p.status = 5 then 5 else 7) 0)) ∧
      (p.status = 1 → ∃ t, exec (.stageDoorNack p) s = .next t ∧ t.slots = s.slots ∧
        t.door.busy = s.door.busy ++ [⟨p.conn, .msg o g.toNat off data (some (busy.getD s.now)), s.now⟩])) ∧
    (∀ pa, k.waits = [(p.tag, .store o pa)] → p.status = 0 →
      ∃ t, exec (.stageDoorAck p) s = .next t ∧ (slotAt t o.slot).outS = (slotAt s o.slot).outS - 1 ∧ t.mem = s.mem)) ∧
  (∀ (s : State) (p : Packet), ∀ i ∈ [Instr.stageDoorReadresp p, .stageDoorAck p, .stageDoorNack p],
    (stageConn s p.conn = none → tableWaits s = false → exec i s = .next s) ∧
    (tableWaits s = true → ∃ k, exec i s = .next (hold s (.stage k p)))) ∧
  (∀ (s : State) (n t : Nat),
    let k := connAt s n
    (k.unacked = [] → exec (.retransmit n t) s = .next s ∧ (k.waits = [] → exec (.connectionLost n t) s = .next s)) ∧
    (t < k.sentAt + 50 → exec (.retransmit n t) s = .next s) ∧ (t < k.progress + 100000 → exec (.connectionLost n t) s = .next s) ∧
    (k.unacked ≠ [] → k.sentAt + 50 ≤ t →
      ∃ u, exec (.retransmit n t) s = .next u ∧ (connAt u n).unacked = k.unacked ∧ (connAt u n).sentAt = max s.now t ∧
        u.door.outbox = s.door.outbox ++ k.unacked.map (fun p => .packet { p with ackpsn := k.psnIn }) ∧ u.mem = s.mem ∧ u.slots = s.slots) ∧
    (k.unacked ≠ [] ∨ k.waits ≠ [] → k.progress + 100000 ≤ t → answerWaits s n = false →
      ∃ u, exec (.connectionLost n t) s = .next u ∧ (connAt u n).psnOut = 0 ∧ (connAt u n).psnIn = 0 ∧ (connAt u n).unacked = [] ∧
        (connAt u n).waits = [] ∧ (∀ q ∈ u.door.colls, q.conns.contains n = true → q.lost = true) ∧
        ∀ x o off data busy, ∀ g : GReg, k.waits = [(x, .msg o g.toNat off data busy)] → s.door.busy = [] →
          holds (slotAt s o.slot) o = true → g ≠ 0 → portCode (slotAt s o.slot) g = 0 →
          readG (slotAt u o.slot) g = tokenWord true 5 0)) ∧
  ∀ (s : State) (n t : Nat),
    (s.door.busy[n]? = none → exec (.msgsBusyRetry n t) s = .next s) ∧
    ∀ b o off data since, ∀ g : GReg, s.door.busy[n]? = some b → b.wait = .msg o g.toNat off data (some since) →
      (t < b.last + 50 → exec (.msgsBusyRetry n t) s = .next s) ∧
      (b.last + 50 ≤ t → s.now ≤ t → since + 100000 ≤ t → holds (slotAt s o.slot) o = true → g ≠ 0 → portCode (slotAt s o.slot) g = 0 →
        ∃ u, exec (.msgsBusyRetry n t) s = .next u ∧ readG (slotAt u o.slot) g = tokenWord true 6 0 ∧
          u.door.busy.length + 1 = s.door.busy.length) ∧
      (b.last + 50 ≤ t → s.now ≤ t → t < since + 100000 → portCore s = none → s.door.deferred = [] → holds (slotAt s o.slot) o = true →
        g ≠ 0 → portCode (slotAt s o.slot) g = 0 →
        ∃ u, exec (.msgsBusyRetry n t) s = .next u ∧ readG (slotAt u o.slot) g = tokenWord true 5 0 ∧
          u.door.busy.length + 1 = s.door.busy.length) ∧
      (∀ e, b.last + 50 ≤ t → s.now ≤ t → t < since + 100000 → stageConn s b.conn = some e → tableWaits s = false → s.door.deferred = [] →
        ∃ u q, exec (.msgsBusyRetry n t) s = .next u ∧ u.door.outbox = s.door.outbox ++ [.packet q] ∧ q.kind = 4 ∧ q.offset = off ∧
          q.conn = e.remote % 65536 ∧ q.len = data.length ∧ q.recs = makeRecs 9 8 data ∧ u.slots = s.slots ∧
          u.door.busy.length + 1 = s.door.busy.length)

/-- `coll`: a bad control word is trap code 20; a misaligned descriptor fails at once with CAUSE 4; one that reads joins the
collectives, with g[d] pending as a token. COLL_COMPLETE: a lost member ends it with CAUSE 5, a fault at its source with its
CAUSE, members that differ with CAUSE 4; while a member's data are missing it waits; else the result is written to DST. Its
token is then in g[d] (18 R464 to R466). How a packet names its operation or says that a member is lost, when SRC is read and
what the engine owns are the model's (logs 19, 23). -/
def Obligations.CollectiveResults : Prop :=
  (∀ (s : State) (d a b : GReg), Plain s [a, b, d] →
    let w := readG (me s) b
    let bad : Prop := 2 < fld w 0 4 ∨ fld w 4 4 ≠ 0 ∨ 2 < fld w 8 4 ∨ 5 < fld w 12 4 ∨ fld w 16 48 ≠ 0 ∨ fld w 0 4 = 1 ∧ fld w 8 4 ≠ 0
    let r := releaseAt s (myCore s) .system
    (bad → exec (.coll d a b) s = .next (takeTrap s 20 0)) ∧
    (¬bad → (63 ≤ (me s).outC ∨ releaseReady s = false) → exec (.coll d a b) s = .next (park s (.entry 0))) ∧
    (¬bad → (me s).outC < 63 → releaseReady s = true →
      ((readG (me s) a).toNat % 8 ≠ 0 →
        exec (.coll d a b) s = .next (advance (sendResult (blockClear r r.cur) d (tokenWord true 4 0) false 0 .c))) ∧
      (∀ n u, collRead r (readG (me s) a) w.toNat d.toNat = .bad n u →
        exec (.coll d a b) s = .next (advance (sendResult (blockClear u u.cur) d (tokenWord true n 0) false 0 .c))) ∧
      (∀ q u, collRead r (readG (me s) a) w.toNat d.toNat = .ok q u → (∀ l n, engineOwns u l n = false) →
        ∃ t, exec (.coll d a b) s = .next t ∧ (me t).pc = nextPc s ∧ (me t).outC = (me s).outC + 1 ∧
          (d ≠ 0 → bitOf (me t).pend d.toNat = true) ∧
          t.door.colls.map (fun z => (z.id, z.gid, z.ctl, z.count, z.conns)) =
            u.door.colls.map (fun z => (z.id, z.gid, z.ctl, z.count, z.conns)) ++ [(u.door.collNext, q.gid, q.ctl, q.count, q.conns)]))) ∧
  (∀ (s : State) (d a b : GReg) (o1 o2 : Nat) (src dst count grp h : Word), Plain s [a, b, d] →
    let w := readG (me s) b
    let r := releaseAt s (myCore s) .system
    let n := fld h 56 8
    let ms := nearWords s o2 (1 + n)
    fld w 0 4 ≤ 2 → fld w 4 4 = 0 → fld w 8 4 ≤ 2 → fld w 12 4 ≤ 5 → fld w 16 48 = 0 → (fld w 0 4 = 1 → fld w 8 4 = 0) →
    (me s).outC < 63 → releaseReady s = true → r.door.remotes = [] → tableWaits r = false → portCore r ≠ none →
    nearBlock s (readG (me s) a) o1 32 → o1 % 8 = 0 → nearWords s o1 4 = [src, dst, count, grp] → nearBlock s grp o2 (8 + 8 * n) →
    ms.head? = some h → 1 ≤ count.toNat → count.toNat ≤ 2 ^ 32 → 2 ≤ n → n ≤ 64 → fld h 48 8 < n →
    (∀ m < n, m ≠ fld h 48 8 → stageConn r (fld (ms.getD (1 + m) 0) 0 6) ≠ none) → (∀ l n, engineOwns s l n = false) →
      ∃ t, exec (.coll d a b) s = .next t ∧ (me t).pc = nextPc s ∧ (me t).outC = (me s).outC + 1 ∧
        (d ≠ 0 → bitOf (me t).pend d.toNat = true) ∧ t.door.collNext = r.door.collNext + 1 ∧
        t.door.colls.map (fun z => (z.id, z.gid, z.ctl, z.count, z.self, z.src, z.dst)) =
          r.door.colls.map (fun z => (z.id, z.gid, z.ctl, z.count, z.self, z.src, z.dst)) ++
            [(r.door.collNext, fld h 0 32, w.toNat, count.toNat, fld h 48 8, src, dst)]) ∧
  (∀ (s : State) (q : Coll) (own : List Byte) (datas : Nat → List Byte) (dest n : Nat) (g : GReg), s.door.colls = [q] → q.lost = false →
    q.fault = none → q.own = some own → q.self < q.conns.length → datas q.self = ownChunk q own →
    (∀ m < q.conns.length, m ≠ q.self → ∃ r, memberIn s q m = some r ∧ inWhole r = true ∧ r.ctl = q.ctl ∧ r.count = q.count ∧
      r.n = q.conns.length ∧ r.data = datas m) →
    let bs := collResult q ((tab q.conns.length 0 id).map datas)
    bs.length = n → 0 < n → dest % 32 + n ≤ 32 → q.sup = false → q.dst = BitVec.ofNat 64 (nearBase + dest) →
    scratchSize s (slotCore q.owner.slot) q.owner.prod ≤ 2 ^ 19 → dest + n ≤ scratchSize s (slotCore q.owner.slot) q.owner.prod →
    s.door.remotes = [] → toldLost s q = false → (∀ l n, ownedBefore s q.age l n = false) →
    holds (slotAt s q.owner.slot) q.owner = true → q.reg = g.toNat → g ≠ 0 → portCode (slotAt s q.owner.slot) g = 0 →
      ∃ t, exec (.collComplete 0) s = .next t ∧ t.door.colls = [] ∧
        scratchBytes t (slotCore q.owner.slot) q.owner.prod dest n = bs ∧ readG (slotAt t q.owner.slot) g = tokenWord false 0 n ∧
        bitOf (slotAt t q.owner.slot).pend g.toNat = false) ∧
  (∀ (s : State) (q : Coll) (rest : List Coll), s.door.colls = q :: rest → startColls s = s → tokenWaits s q.owner = false →
    let others := (tab q.conns.length 0 id).filter (· != q.self)
    let same (r : CollIn) : Prop := r.ctl = q.ctl ∧ r.count = q.count ∧ r.n = q.conns.length
    (q.lost = true ∨ toldLost s q = true →
      exec (.collComplete 0) s = .next (endColl s { q with lost := true } (tokenWord true 5 0))) ∧
    (∀ cause, q.lost = false → toldLost s q = false → q.fault = some cause → exec (.collComplete 0) s = .next (endColl s q (tokenWord true cause 0))) ∧
    (∀ own, q.lost = false → toldLost s q = false → q.fault = none → q.own = some own →
      ((∃ m ∈ others, memberIn s q m = none) → exec (.collComplete 0) s = .next s) ∧
      ((∀ m ∈ others, ∃ r, memberIn s q m = some r ∧ inWhole r = true) → (∃ m ∈ others, ∃ r, memberIn s q m = some r ∧ ¬same r) →
        exec (.collComplete 0) s = .next (endColl s q (tokenWord true 4 0))) ∧
      ∀ datas : Nat → List Byte, datas q.self = ownChunk q own →
        (∀ m ∈ others, ∃ r, memberIn s q m = some r ∧ inWhole r = true ∧ same r ∧ r.data = datas m) → q.self < q.conns.length →
        exec (.collComplete 0) s = .next (writeColl s q (collResult q ((tab q.conns.length 0 id).map datas))))) ∧
  ∀ (s : State) (q : Coll) (v : Word) (g : GReg), holds (slotAt s q.owner.slot) q.owner = true → q.reg = g.toNat → g ≠ 0 →
    portCode (slotAt s q.owner.slot) g = 0 →
    let t := endColl s q v
    readG (slotAt t q.owner.slot) g = v ∧ bitOf (slotAt t q.owner.slot).pend g.toNat = false ∧
    (slotAt t q.owner.slot).outC = (slotAt s q.owner.slot).outC - 1 ∧ ∀ z ∈ t.door.colls, z.id ≠ q.id

/-! Errors, seals and wear (06 R168; 12 R329; 13 R370; 14 R383; 17 R436, R441 to R444). -/

/-- SEAL_MISMATCH poisons the line, in memory and in every copy, or the scratch block, a clean copy's only on its second
failure: on the first it is fetched again. LINK_RETRY, with its class's window enabled, counts an error; the one that brings the
counter to THRESH takes the lasting action and clears it, and ERROR_WINDOW_EXPIRY clears one whose window is over. RETSEL_MARK
marks a lane group of a core that exists. STACK_LEVEL_CHANGE sets a stack's thermal level, with hysteresis. MERGE_CLOSE closes
the entries 64 cycles old but for a write-back that must follow a read, and WRITE_NOTICE marks the older copies of its row on
its die superseded (12 R329; 13 R370; 14 R383; 17 R436, R441 to R444). -/
def Obligations.ErrorResults : Prop :=
  (∀ (s : State) (r : Resource) (pa : Nat),
    exec (.sealMismatch .zeroed r) s = .next (chargeError s r) ∧
    (∀ c, exec (.sealMismatch (.copy c pa false) r) s = .next (chargeError (refetch s c pa) r) ∧
      ∀ x ∈ (coreAt (refetch s c pa) c).remote, x.line = lineOf pa → x.dirty = 0 →
        x.data = memBytes s.mem (lineOf pa * 32) 32 ∧ x.poison = s.poisoned.contains (lineOf pa)) ∧
    (∀ c, ∀ at_ ∈ [SealSite.copy c pa true, .dirty c pa, .home pa], ∃ t, exec (.sealMismatch at_ r) s = .next t ∧
      t.poisoned.contains (lineOf pa) = true ∧
      ∀ k x, x ∈ (coreAt t k).remote → x.line = lineOf pa → x.poison = true) ∧
    ∀ c p, ∃ t, exec (.sealMismatch (.scratch c p pa) r) s = .next t ∧ (scratchAt t c p).poison.contains (pa / 32) = true) ∧
  (∀ (s : State) (r : Resource), r.cls = 2 ∨ r.cls = 3 →
    let w := errWin s r.cls
    let now := (clusterAt s r.cluster).cycle
    let rest := s.errors.counts.filter fun x => x.1 != r
    let on : Prop := bitOf w 63 = true
    let th := max (fld w 48 8) 1
    let old := s.errors.counts.find? fun x => x.1 == r
    (old = none → ¬on ∨ 1 < th →
      exec (.linkRetry r) s = .next { s with errors := { s.errors with counts := rest ++ [(r, now, 1)] } }) ∧
    ∀ o n, old = some (r, o, n) →
      (¬on ∨ n + 1 < th → exec (.linkRetry r) s = .next { s with errors := { s.errors with counts := rest ++ [(r, o, n + 1)] } }) ∧
      (on → th ≤ n + 1 → ∃ t, exec (.linkRetry r) s = .next t ∧ t.errors.counts = rest ∧
        t.errors.spared = s.errors.spared ++ [(r.cls, r.inst)]) ∧
      (o + fld w 0 40 ≤ now → exec (.errorWindowExpiry r) s = .next { s with errors := { s.errors with counts := rest } }) ∧
      (now < o + fld w 0 40 → exec (.errorWindowExpiry r) s = .next s)) ∧
  (∀ (s : State) (r : Resource), (r.cls ≠ 2 → r.cls ≠ 3 → exec (.linkRetry r) s = .next s) ∧
    ((∀ x ∈ s.errors.counts, x.1 ≠ r) → exec (.errorWindowExpiry r) s = .next s)) ∧
  (∀ (s : State) (c g : Nat),
    (c < 1024 → (dieAt s (coreDie c)).present = true → g < 64 → exec (.retselMark c g) s =
      .next (setCore s c { coreAt s c with marked := (coreAt s c).marked ||| BitVec.twoPow 64 g })) ∧
    (1024 ≤ c ∨ (dieAt s (coreDie c)).present = false → exec (.retselMark c g) s = .next s)) ∧
  (∀ (s : State) (d k x : Nat),
    (k < 4 → ∃ t, exec (.stackLevelChange d k x) s = .next t ∧ t.mem = s.mem ∧ t.slots = s.slots ∧
      thermalAt t d k = ⟨x, if 95 ≤ x ∨ (thermalAt s d k).level = 2 ∧ 92 ≤ x then 2
        else if 85 ≤ x ∨ 1 ≤ (thermalAt s d k).level ∧ 82 ≤ x then 1 else 0⟩) ∧
    (4 ≤ k → exec (.stackLevelChange d k x) s = .next s)) ∧
  (∀ (s : State) (q : Nat), ∃ t, exec (.mergeClose q) s = .next t ∧ t.mem = s.mem ∧ t.slots = s.slots ∧
    let young (m : Merge) : Bool := decide ((clusterAt s q).cycle < m.opened + 64)
    ∀ m, m ∈ (clusterAt t q).merges ↔ m ∈ (clusterAt s q).merges ∧
      (young m = true ∨ m.write = true ∧ mergeWaits ((clusterAt s q).merges.filter fun r => r.write || young r) m = true)) ∧
  ∀ (s : State) (n : Nat), (s.notices[n]? = none → exec (.writeNotice n) s = .next s) ∧
    ∀ x, s.notices[n]? = some x → ∃ t, exec (.writeNotice n) s = .next t ∧ t.notices.length + 1 = s.notices.length ∧ t.mem = s.mem ∧
      ∀ c r v, coreDie c = x.die → r ∈ (coreAt t c).remote → r.line / 8 = x.row → r.stamp = some v → v < x.ver → r.superseded = true

/-! Power and the dimmer (04 R116; 16). -/

/-- The events of power control: POWER_CONTROL_TICK moves its handles, the strip slots, the vector clock and the cluster's clock
by at most one step each, and keeps their order; PLL_RELOCK, where a change of clock is due, locks to the clock in force and
moves CYCLE on by at most what 2 µs are, BOOST_CHARGE takes, for 4,096 cycles run, a token and an allowed charge of the spending
context whose turn it is, BOOST_REFILL adds each production's share to its contexts once for every millisecond gone by, and
SLACK_WINDOW moves the slack step every 10 ms (04 R116; 16 R405 to R408, R422). -/
def Obligations.PowerResults : Prop :=
  (∀ (s : State) (c : Nat) (h : Handles),
    let g := nextHandles s c h
    let now := handlesNow s c
    (InHandleOrder now → InHandleOrder g ∧ (g.slots = now.slots ∨ g.slots = 2 * now.slots ∨ 2 * g.slots = now.slots) ∧
      (g.vmuDiv = now.vmuDiv ∨ g.vmuDiv = 2 * now.vmuDiv ∨ 2 * g.vmuDiv = now.vmuDiv)) ∧
    g.clock ≤ now.clock + 1 ∧ now.clock ≤ g.clock + 1 ∧
    (h = ⟨true, 0, 16, false, 1, 8⟩ ∨ h = ⟨false, 15, 1, true, 4, h.clock⟩ ∧ 1 ≤ h.clock ∧ h.clock ≤ 8 → now = h → g = h) ∧
    ∃ t, exec (.powerControlTick c h) s = .next t ∧ (coreAt t c).chainOff = g.chOff ∧
      ((coreAt t c).boostOk = true ↔ g.boostOk = true ∧ ∀ e ∈ s.cores, e.1 ≠ c → e.2.chainOff = 0) ∧
      (coreAt t c).stripSlots = g.slots ∧ (coreAt t c).halfRate = g.half ∧ (coreAt t c).vmuDiv = g.vmuDiv ∧
      (clusterAt t (coreCluster c)).clock = g.clock ∧ t.slots = s.slots ∧ t.mem = s.mem ∧ ∀ k, (ctxAt t k).v = (ctxAt s k).v) ∧
  (∀ (s : State) (q n : Nat),
    ((clusterAt s q).pll = clockNow s q → exec (.pllRelock q n) s = .next s) ∧
    ((clusterAt s q).pll ≠ clockNow s q → ∃ t, exec (.pllRelock q n) s = .next t ∧ t.slots = s.slots ∧ t.mem = s.mem ∧
      (clusterAt t q).pll = clockNow s q ∧
      (clusterAt t q).cycle = (clusterAt s q).cycle + min n (if clockNow s q = 9 then 5600 else 625 * clockNow s q))) ∧
  (∀ (s : State) (q : Nat), (boostRun (clusterAt s q) < 4096 → exec (.boostCharge q) s = .next s) ∧
    ∀ k, 4096 ≤ boostRun (clusterAt s q) →
      nextPayer s q = some k ∨ (s.ctxs.filter fun e => ctxCore e.1 / 4 == q && e.2.allow != 0 && e.2.tokens != 0).map (·.1) = [k] →
      ∃ t, exec (.boostCharge q) s = .next t ∧ (ctxAt t k).tokens = (ctxAt s k).tokens - 1 ∧ (ctxAt t k).allow = (ctxAt s k).allow - 1 ∧
        (∀ j, j ≠ k → ctxAt t j = ctxAt s j) ∧ (clusterAt t q).boostLast = k ∧
        boostRun (clusterAt t q) = boostRun (clusterAt s q) - 4096 ∧ t.slots = s.slots ∧ t.mem = s.mem) ∧
  (∀ (s : State) (hot : Bool), (s.now < s.refillAt + 1000 → exec (.boostRefill hot) s = .next s) ∧
    (s.refillAt + 1000 ≤ s.now → ∃ t, exec (.boostRefill hot) s = .next t ∧ t.refillAt = s.refillAt + 1000 ∧ t.slots = s.slots ∧ t.mem = s.mem ∧
    (hot = true ∨ noBoostNow s = true → t.ctxs = s.ctxs) ∧
    (hot = false → noBoostNow s = false → ∀ k p, (∃ y, (k, y) ∈ s.ctxs) → prodAt s (ctxProd k) = some p → p.shed = false → p.ending = none →
      (ctxAt t k).tokens = min ((ctxAt s k).tokens + p.share) 65535))) ∧
  ∀ (s : State) (phi t : Nat), (t < s.dimmer.slackEnd + 10000 → exec (.slackWindow phi t) s = .next s) ∧
    (s.dimmer.slackEnd + 10000 ≤ t → ∃ u, exec (.slackWindow phi t) s = .next u ∧ u.slots = s.slots ∧ u.mem = s.mem ∧
    (let d := s.dimmer
     let on : Prop := bitOf d.hold 16 = true
     (¬on → u.dimmer.slack = 0) ∧
     (on → 250 ≤ phi → d.slack < 3 → u.dimmer.slack = d.slack + 1 ∧ u.dimmer.slackAt = t) ∧
     (on → phi ≤ 50 → 0 < d.slack → d.slackLow = true → d.slackAt + fld d.hold 24 8 * 1000 ≤ t → u.dimmer.slack = d.slack - 1) ∧
     (on → phi ≤ 50 → (d.slackLow = false ∨ t < d.slackAt + fld d.hold 24 8 * 1000) → u.dimmer.slack = d.slack) ∧
     (on → 50 < phi → phi < 250 → u.dimmer.slack = d.slack ∧ u.dimmer.slackLow = false)))

/-- The dimmer: a frame of good CRC and a later SEQ is accepted, sets TARGET from the enabled levels it enters and the shelf's
minimum, and brings the level up to it at once, shedding the classes its mask adds, or down by one step when its hold has run
HOLD ms; the sequence numbers skipped join GAPS, a bad CRC is counted, and an old SEQ ignored. TIMEOUT without a frame blinds
it. Shed classes come back when the class before is placed or a millisecond later, and a deadline pre-empts what still holds a
slot, ready, parked or stopped for the debugger. DIMCURVE and DIMBLIND take their writable fields (16 R410 to R419). -/
def Obligations.DimmerResults : Prop :=
  (∀ (s : State) (f : List Byte) (t : Nat), f.length = 11 → f.head? = some 0xA5 →
    let seq := leNat ((f.drop 1).take 2)
    let freq := leNat ((f.drop 3).take 3)
    let vbus := leNat ((f.drop 6).take 2)
    let minl := min (leNat ((f.drop 8).take 1) / 16) 8
    let good : Prop := crc16 ((f.drop 1).take 8) = BitVec.ofNat 16 (leNat ((f.drop 9).take 2))
    let late (q : Nat) : Prop := (seq + 65536 - q) % 65536 = 0 ∨ 32767 < (seq + 65536 - q) % 65536
    let d := s.dimmer
    (d.present = false ∨ s.mgmt.done = false → exec (.shelfFrame f t) s = .next s) ∧
    (d.present = true → s.mgmt.done = true → d.partialBytes = [] →
      (¬good → ∃ u, exec (.shelfFrame f t) s = .next u ∧ u.dimmer = { d with crcErr := min (d.crcErr + 1) 0xFFFF }) ∧
      (∀ q, good → d.lastSeq = some q → d.blindOn = false → late q → ∃ u, exec (.shelfFrame f t) s = .next u ∧ u.dimmer = d) ∧
      (good → (∀ q, d.lastSeq = some q → d.blindOn = true ∨ ¬late q) →
        ∃ u, exec (.shelfFrame f t) s = .next u ∧ u.dimmer.accepted = (d.accepted + 1) % 65536 ∧ u.dimmer.lastSeq = some seq ∧
          u.dimmer.lastTime = t ∧ u.dimmer.blindOn = false ∧ minl ≤ u.dimmer.target ∧ u.dimmer.target ≤ u.dimmer.level ∧
          (∀ n, 1 ≤ n → n ≤ 8 → enterLevel s n freq vbus = true → n ≤ u.dimmer.target) ∧
          (u.dimmer.target = minl ∨ 1 ≤ u.dimmer.target ∧ u.dimmer.target ≤ 8 ∧ enterLevel s u.dimmer.target freq vbus = true) ∧
          (d.level ≤ u.dimmer.target → u.dimmer.level = u.dimmer.target ∧ u.dimmer.holdFrom = none) ∧ d.level ≤ u.dimmer.level + 1 ∧
          (u.dimmer.target < d.level → exitLevel s d.level freq vbus = false → u.dimmer.level = d.level ∧ u.dimmer.holdFrom = none) ∧
          (u.dimmer.target < d.level → exitLevel s d.level freq vbus = true →
            let from_ := d.holdFrom.getD t
            (t - from_ < fld d.hold 0 16 * 1000 → u.dimmer.level = d.level ∧ u.dimmer.holdFrom = some from_) ∧
            (fld d.hold 0 16 * 1000 ≤ t - from_ → u.dimmer.level = max (d.level - 1) u.dimmer.target ∧
              u.dimmer.holdFrom = if exitLevel s u.dimmer.level freq vbus = true ∧ minl < u.dimmer.level then some t else none)) ∧
          u.dimmer.gaps = min (d.gaps + (match d.lastSeq with
            | some q => if d.blindOn = true then 0 else (seq + 65536 - q) % 65536 - 1
            | none => 0)) 0xFFFF ∧
          (d.level < u.dimmer.target → ∀ n p, prodAt u n = some p → inMask (shedMask s u.dimmer.level) p.cls.toNat = true →
            inMask (shedMask s d.level) p.cls.toNat = false → p.shed = true)))) ∧
  (∀ (s : State) (t : Nat),
    let d := s.dimmer
    let due : Prop := d.present = true ∧ s.mgmt.done = true ∧ d.blindOn = false ∧ d.lastTime + fld d.blind 8 16 * 1000 ≤ t
    (¬due → exec (.dimmerBlind t) s = .next s) ∧
    (due → ∃ u, exec (.dimmerBlind t) s = .next u ∧ u.dimmer.blindOn = true ∧ u.dimmer.level = max d.level (min (fld d.blind 0 4) 8))) ∧
  (∀ (s : State) (t : Nat),
    (s.dimmer.restoring = [] → exec (.nextClassRestore t) s = .next s) ∧
    ∀ c rest, s.dimmer.restoring = c :: rest →
      ((∃ x ∈ s.cores, ∃ q ∈ x.2.saved, q.cls.toNat = c) → t < s.dimmer.nextRestore → exec (.nextClassRestore t) s = .next (atTime s t)) ∧
      (s.dimmer.nextRestore ≤ t ∨ (∀ x ∈ s.cores, ∀ q ∈ x.2.saved, q.cls.toNat ≠ c) → ∃ u, exec (.nextClassRestore t) s = .next u ∧ u.dimmer.restoring = rest ∧
        ∀ k r, rest = k :: r → u.dimmer.nextRestore = t + 1000 ∧ ∀ n p, prodAt u n = some p → p.cls.toNat = k → p.shed = false)) ∧
  (∀ (s : State) (c t : Nat),
    ((∀ x ∈ s.dimmer.shedDeadlines, x.1 = c → t < x.2) → exec (.shedDeadline c t) s = .next s) ∧
    ∀ m, (c, m) ∈ s.dimmer.shedDeadlines → m ≤ t → ∃ u, exec (.shedDeadline c t) s = .next u ∧ (c, m) ∉ u.dimmer.shedDeadlines ∧
      ∀ i p, (slotAt s i).sup = false → (slotAt s i).saved = false → (slotAt s i).cls.toNat = c →
        prodAt s (slotAt s i).prodid = some p → p.shed = true →
        ((slotAt s i).st = .ready → (slotAt u i).st = .stopped (.preempting .deadline) none) ∧
        (∀ w, (slotAt s i).st = .parked w → (slotAt u i).st = .stopped (.preempting .deadline) (some w)) ∧
        ∀ n w, (slotAt s i).st = .stopped (.debug n) w →
          (slotAt u i).st = .stopped (.preempting .deadline) w ∧ (slotAt u i).dbg.lost = true) ∧
  ∀ (s : State) (n : Nat) (x : Word),
    (16 ≤ n → exec (.dimcurveWrite n x) s = .next s) ∧
    (n < 16 → ∃ u, exec (.dimcurveWrite n x) s = .next u ∧ u.dimmer.level = s.dimmer.level ∧ u.mem = s.mem ∧
      curveAt u n = x &&& (if n % 2 = 0 then 0x80FFFFFFFFFFFFFF else 0xFFF0FF1F0001) ∧ ∀ k, k ≠ n → curveAt u k = curveAt s k) ∧
    ∃ u, exec (.dimblindWrite x) s = .next u ∧ u.mem = s.mem ∧ u.slots = s.slots ∧
      u.dimmer.blind = BitVec.ofNat 64 (max 20 (min 1000 (fld x 8 16)) * 256 + fld x 0 4) ∧
      u.dimmer.level = if s.dimmer.blindOn = true then max s.dimmer.level (min (fld x 0 4) 8) else s.dimmer.level

/-! Bring-up, management and the debug block (19 R472 to R475; 20 R476 to R483). -/

/-- Bring-up: a reset starts stage 1 afresh with what fuses, flash and retirement keep. STAGE_COMPLETE takes one stage on, or
stops the sequence with the stage's ERROR and interrupt 2; stage 3 takes failing lane groups out of service and spares failing
near-store blocks or withholds their granules (log 16), stage 4 leaves memory zero, and stage 5 starts the supervisor image's
slots on every core, with what the debugger asked of them. STAGE_TIMEOUT, and a STAGE_COMPLETE past the stage's limit, stop it
with a code of the model's own (log 10). ATTESTATION puts the nonce in a report under way, signed with the device's key (log
10), which ATTESTATION_READY makes readable; before stage 5 ends it is answered busy. MGMT_REGISTER_WRITE reaches MCTL, MNONCE
and, while they answer, the debug registers (20 R476 to R483; 19 R472). -/
def Obligations.BringUpResults : Prop :=
  (∀ (s : State), ∀ i ∈ [Instr.resetRelease, .mctlReset], ∃ t, exec i s = .next t ∧ t.mgmt.stage = 1 ∧ t.mgmt.error = 0 ∧
    t.mgmt.done = false ∧ t.slots = [] ∧ t.ctxs = [] ∧ t.cores = [] ∧ t.prods = [] ∧ t.mem = [] ∧ t.mgmt.minSvn = s.mgmt.minSvn ∧
    t.mgmt.keys = s.mgmt.keys ∧ t.mgmt.flash = s.mgmt.flash ∧ t.errors.marks = s.errors.marks ∧
    ∀ d, (dieAt t d).present = (dieAt s d).present) ∧
  (∀ (s : State) (f : StageFind),
    let stops (n : Nat) : Prop := ∃ t, exec (.stageComplete f) s = .next t ∧ t.mgmt.error = n ∧ t.mgmt.stage = s.mgmt.stage ∧
      t.mgmt.done = false ∧ t.door.outbox = s.door.outbox ++ [.interrupt 2] ∧ t.mem = s.mem
    (s.mgmt.done = true ∨ s.mgmt.error ≠ 0 ∨ s.mgmt.stage = 0 → exec (.stageComplete f) s = .next s ∧ exec .stageTimeout s = .next s) ∧
    let limit := ([150000, 400000, 300000, 100000, 50000] : List Nat).getD (s.mgmt.stage - 1) 50000
    (s.mgmt.done = false → s.mgmt.error = 0 → s.mgmt.stage ≠ 0 →
      ∀ i ∈ [Instr.stageTimeout, .stageComplete f], i = .stageTimeout ∨ s.mgmt.stageAt + limit < max s.now f.time →
      ∃ t, exec i s = .next t ∧ 1 ≤ t.mgmt.error ∧ t.mgmt.error ≤ 8 ∧ t.mgmt.stage = s.mgmt.stage ∧
        t.door.outbox = s.door.outbox ++ [.interrupt 2]) ∧
    (s.mgmt.done = false → s.mgmt.error = 0 → max s.now f.time ≤ s.mgmt.stageAt + limit →
      (s.mgmt.stage = 1 →
        let m := imageAt s firmwareOffset
        (imageError s false m ≠ 0 → stops (imageError s false m)) ∧
        (imageError s false m = 0 → ∃ t, exec (.stageComplete f) s = .next t ∧ t.mgmt.stage = 2 ∧ t.mgmt.error = 0 ∧
          t.mgmt.running = some m.svn ∧ t.mgmt.measured = [shake256 m.whole 64])) ∧
      (s.mgmt.stage = 2 →
        (f.error = 5 ∨ f.error = 6 → stops f.error) ∧ (f.error = 8 → stops 8) ∧
        (f.error = 0 → (dieAt s 0).present = false → stops 8) ∧
        (f.error = 0 → (dieAt s 0).present = true → exec (.stageComplete f) s =
          .next { s with now := max s.now f.time, mgmt := { s.mgmt with stage := 3, stageAt := max s.now f.time } })) ∧
      (s.mgmt.stage = 3 → ∃ t, exec (.stageComplete f) s = .next t ∧ t.mgmt.stage = 4 ∧
        (∀ c g, g < 64 → (c, g) ∈ s.errors.marks ++ f.groups → bitOf (coreAt t c).outGroups g = true) ∧
        (∀ x ∈ s.errors.spared, x ∈ t.errors.spared) ∧ ∀ c b, (c, b) ∈ f.blocks → b < 10240 →
          (4, 10240 * c + b) ∈ t.errors.spared ∨ look (coreAt t c).gran (b / 256) .l1 = .withheld) ∧
      (s.mgmt.stage = 4 → ∃ t, exec (.stageComplete f) s = .next t ∧ t.mgmt.stage = 5 ∧ (∀ a, memByte t.mem a = 0) ∧ t.full = [] ∧
        t.poisoned = [] ∧ ∀ q, (clusterAt t q).cycle = 0) ∧
      (s.mgmt.stage = 5 →
        let m := imageAt s supervisorOffset
        (imageError s true m ≠ 0 → stops 7) ∧
        (imageError s true m = 0 → ∃ t, exec (.stageComplete f) s = .next t ∧ t.mgmt.done = true ∧
          t.door.outbox = s.door.outbox ++ [.interrupt 1] ∧ t.dimmer.present = f.shelf ∧
          ∀ c i, i < 16 →
            (c < 1024 → coreExists s c = true → bitOf m.supMask i = true →
              slotAt t (16 * c + i) = { supervisorSlot m with dbg := (slotAt s (16 * c + i)).dbg }) ∧
            (c < 1024 → coreExists s c = true → bitOf m.supMask i = false → slotAt t (16 * c + i) = slotAt s (16 * c + i)) ∧
            (coreExists s c = false ∨ 1024 ≤ c → (slotAt t (16 * c + i)).st = .free))))) ∧
  (∀ (s : State), exec .mctlSvnup s = .next { s with mgmt := { s.mgmt with minSvn := max s.mgmt.minSvn (s.mgmt.running.getD 0) } }) ∧
  (∀ (s : State) (b : Byte),
    (s.mgmt.done = false → exec (.attestation b) s = .next { s with
      mgmt := { s.mgmt with nonce := s.mgmt.nonce.set 31 b }, door := { s.door with outbox := s.door.outbox ++ [.attestBusy] } }) ∧
    (s.mgmt.done = true → s.mgmt.nonce.length = 32 → ∃ t, exec (.attestation b) s = .next t ∧ t.mgmt.reports = s.mgmt.reports + 1 ∧
      t.mgmt.ready = false ∧ (t.mgmt.report.drop 0xD8).take 32 = s.mgmt.nonce.set 31 b ∧
      t.mgmt.report.drop 0x140 = ed448Sign Config.deviceKey (t.mgmt.report.take 0x140)) ∧
    (s.mgmt.report = [] ∨ s.mgmt.ready = true → exec .attestationReady s = .next s) ∧
    (s.mgmt.report ≠ [] → s.mgmt.ready = false → ∃ t, exec .attestationReady s = .next t ∧ t.mgmt.ready = true ∧
      t.mgmt.report = s.mgmt.report ∧ t.door.outbox = s.door.outbox ++ [.interrupt 3]) ∧
    ∀ a, exec (.dynamicAddressAssignment a) s = .next { s with mgmt := { s.mgmt with i3cAddr := a } }) ∧
  ∀ (s : State) (off : Nat) (v : Word),
    (bitOf v 0 = true → bitOf v 1 = false → exec (.mgmtRegisterWrite 0x10 v) s = exec .mctlReset s) ∧
    (bitOf v 0 = true → bitOf v 1 = true → ∀ u, exec .mctlSvnup s = .next u → exec (.mgmtRegisterWrite 0x10 v) s = exec .mctlReset u) ∧
    (bitOf v 0 = false → bitOf v 1 = true → exec (.mgmtRegisterWrite 0x10 v) s = exec .mctlSvnup s) ∧
    (bitOf v 0 = false → bitOf v 1 = false → exec (.mgmtRegisterWrite 0x10 v) s = .next s) ∧
    (off < 31 → exec (.mgmtRegisterWrite (0x100 + off) v) s =
      .next { s with mgmt := { s.mgmt with nonce := s.mgmt.nonce.set off (v.setWidth 8) } }) ∧
    exec (.mgmtRegisterWrite 0x11F v) s = exec (.attestation (v.setWidth 8)) s ∧
    (dbgAnswers s = false → 0x400 ≤ off → off < 0xC00 → exec (.mgmtRegisterWrite off v) s = .next s) ∧
    (dbgAnswers s = true → exec (.mgmtRegisterWrite 0x400 v) s = .next { s with mgmt := { s.mgmt with dbgSel := v &&& 0x3FF000F } }) ∧
    (off ≠ 0x10 → (off < 0x100 ∨ 0x120 ≤ off ∧ off < 0x400 ∨ 0xC00 ≤ off) → exec (.mgmtRegisterWrite off v) s = .next s)

/-- The debug block, while it answers: HALT stops the selected slot where it stands ready, and asks a parked or a free one to
stop before its next instruction; RESUME lets a stopped one go on as it was, its context unfrozen, and STEP for one instruction.
An armed BREAK stops its slot at the next instruction in place of the breakpoint trap (05 R152; 19 R472 to R475; 20 R483). -/
def Obligations.DebugResults : Prop :=
  (∀ (s : State), dbgAnswers s = false → ∀ i ∈ [Instr.halt, .resume, .stepOne false, .stepOne true], exec i s = .next s) ∧
  (∀ (s : State), dbgAnswers s = true →
    let i := dbgSlot s
    let x := slotAt s i
    (x.st = .ready → x.since = none → exec .halt s = .next (debugStop s i 4)) ∧
    (x.st = .free ∨ (∃ w, x.st = .parked w) ∨ x.st = .ready ∧ x.since ≠ none →
      exec .halt s = .next (setSlot s i { x with dbg := { x.dbg with haltReq := true } })) ∧
    (∀ w o, x.st = .stopped w o → exec .halt s = .next s) ∧
    ((∀ w o, x.st ≠ .stopped (.debug w) o) → exec .resume s = .next s ∧ ∀ v, exec (.stepOne v) s = .next s) ∧
    ∀ w o, x.st = .stopped (.debug w) o →
      let on (d : SlotDbg) : Slot := { x with
        st := (match o with
          | some p => .parked p
          | none => .ready)
        since := x.since.map fun t => cycleOf s (slotCore i) - t
        dbg := d }
      (∃ t, exec .resume s = .next t ∧ slotAt t i = on { x.dbg with skipPc := true } ∧ KeepsAllButSlots { s with ctxs := t.ctxs } t ∧
        ∀ k, ctxOf s i = some k → x.handler = false → (ctxAt t k).frozen = false) ∧
      ∀ v, ∃ t b, exec (.stepOne v) s = .next t ∧ (v = false → b = false ∧ t.ctxs = s.ctxs) ∧
        (∀ k, v = true → x.handler = false → ctxOf s i = some k → b = true ∧ (ctxAt t k).frozen = false) ∧
        slotAt t i = on { x.dbg with skipPc := true, stepping := true, stepReq := true, stepVec := b }) ∧
  (∀ (s : State) (i n : Nat), ctxOf s i = none → (slotAt s i).st = .ready →
    ∃ x, debugStop s i n = setSlot s i x ∧ x.st = .stopped (.debug n) none ∧ x.pc = (slotAt s i).pc ∧ x.g = (slotAt s i).g) ∧
  ∀ (s : State) (n : BitVec 8),
    ((me s).dbg.brk = true → exec (.brk n) s = .next (debugStop (advance s) s.cur 3)) ∧
    ((me s).dbg.brk = false → exec (.brk n) s = .next (takeTrap s 11 (n.setWidth 64)))
end

