-- ==== Sys2Proof/Laws/State.lean ====
section
/-! SUPPORT. What the updates of the state leave in each of its fields, and what the tables of the state hold after one. Every
lemma here holds by unfolding one definition, so that no later proof unfolds a record update. -/

namespace Sys2Proof.Machine

/-! Sparse tables. -/

@[simp] theorem look_nil {α : Type} (k : Nat) (d : α) : look [] k d = d := rfl

/-- A table answers what was put last. -/
@[simp] theorem look_put_self {α : Type} (m : Map α) (k : Nat) (x d : α) : look (put m k x) k d = x := by
  induction m with
  | nil => simp [put, look]
  | cons p t ih =>
    obtain ⟨j, y⟩ := p
    simp only [put]
    split
    · simp [look]
    · split
      · simp [look]
      · simp only [look]
        rw [if_neg ‹_›]
        exact ih

/-- A table answers for every other number as before. -/
theorem look_put_ne {α : Type} (m : Map α) {k j : Nat} (h : k ≠ j) (x d : α) : look (put m k x) j d = look m j d := by
  induction m with
  | nil => simp [put, look, h]
  | cons p t ih =>
    obtain ⟨i, y⟩ := p
    simp only [put]
    split
    · subst_vars
      simp [look, h]
    · split
      · simp [look, h]
      · simp only [look]
        split
        · rfl
        · exact ih

/-- Of two entries put at one number the later stands. -/
@[simp] theorem put_put_self {α : Type} (m : Map α) (k : Nat) (x y : α) : put (put m k x) k y = put m k y := by
  induction m with
  | nil => simp [put]
  | cons p t ih =>
    obtain ⟨i, z⟩ := p
    by_cases h : i = k
    · simp [put, h]
    · by_cases h' : k < i
      · simp [put, h, h']
      · simp [put, h, h', ih]

/-! The parts of the state. -/

@[simp] theorem setSlot_slots (s : State) (i : Nat) (x : Slot) : (setSlot s i x).slots = put s.slots i x := rfl
@[simp] theorem setSlot_ctxs (s : State) (i : Nat) (x : Slot) : (setSlot s i x).ctxs = s.ctxs := rfl
@[simp] theorem setSlot_cores (s : State) (i : Nat) (x : Slot) : (setSlot s i x).cores = s.cores := rfl
@[simp] theorem setSlot_clusters (s : State) (i : Nat) (x : Slot) : (setSlot s i x).clusters = s.clusters := rfl
@[simp] theorem setSlot_dies (s : State) (i : Nat) (x : Slot) : (setSlot s i x).dies = s.dies := rfl
@[simp] theorem setSlot_prods (s : State) (i : Nat) (x : Slot) : (setSlot s i x).prods = s.prods := rfl
@[simp] theorem setSlot_sfuLast (s : State) (i : Nat) (x : Slot) : (setSlot s i x).sfuLast = s.sfuLast := rfl
@[simp] theorem setSlot_mem (s : State) (i : Nat) (x : Slot) : (setSlot s i x).mem = s.mem := rfl
@[simp] theorem setSlot_full (s : State) (i : Nat) (x : Slot) : (setSlot s i x).full = s.full := rfl
@[simp] theorem setSlot_poisoned (s : State) (i : Nat) (x : Slot) : (setSlot s i x).poisoned = s.poisoned := rfl
@[simp] theorem setSlot_feReqs (s : State) (i : Nat) (x : Slot) : (setSlot s i x).feReqs = s.feReqs := rfl
@[simp] theorem setSlot_curtains (s : State) (i : Nat) (x : Slot) : (setSlot s i x).curtains = s.curtains := rfl
@[simp] theorem setSlot_curtainReqs (s : State) (i : Nat) (x : Slot) : (setSlot s i x).curtainReqs = s.curtainReqs := rfl
@[simp] theorem setSlot_notices (s : State) (i : Nat) (x : Slot) : (setSlot s i x).notices = s.notices := rfl
@[simp] theorem setSlot_door (s : State) (i : Nat) (x : Slot) : (setSlot s i x).door = s.door := rfl
@[simp] theorem setSlot_dimmer (s : State) (i : Nat) (x : Slot) : (setSlot s i x).dimmer = s.dimmer := rfl
@[simp] theorem setSlot_errors (s : State) (i : Nat) (x : Slot) : (setSlot s i x).errors = s.errors := rfl
@[simp] theorem setSlot_mgmt (s : State) (i : Nat) (x : Slot) : (setSlot s i x).mgmt = s.mgmt := rfl
@[simp] theorem setSlot_cur (s : State) (i : Nat) (x : Slot) : (setSlot s i x).cur = s.cur := rfl
@[simp] theorem setSlot_ir (s : State) (i : Nat) (x : Slot) : (setSlot s i x).ir = s.ir := rfl
@[simp] theorem setSlot_agenda (s : State) (i : Nat) (x : Slot) : (setSlot s i x).agenda = s.agenda := rfl
@[simp] theorem setSlot_now (s : State) (i : Nat) (x : Slot) : (setSlot s i x).now = s.now := rfl
@[simp] theorem setSlot_refillAt (s : State) (i : Nat) (x : Slot) : (setSlot s i x).refillAt = s.refillAt := rfl
@[simp] theorem setCtx_slots (s : State) (k : Nat) (x : Ctx) : (setCtx s k x).slots = s.slots := rfl
@[simp] theorem setCtx_ctxs (s : State) (k : Nat) (x : Ctx) : (setCtx s k x).ctxs = put s.ctxs k x := rfl
@[simp] theorem setCtx_cores (s : State) (k : Nat) (x : Ctx) : (setCtx s k x).cores = s.cores := rfl
@[simp] theorem setCtx_clusters (s : State) (k : Nat) (x : Ctx) : (setCtx s k x).clusters = s.clusters := rfl
@[simp] theorem setCtx_dies (s : State) (k : Nat) (x : Ctx) : (setCtx s k x).dies = s.dies := rfl
@[simp] theorem setCtx_prods (s : State) (k : Nat) (x : Ctx) : (setCtx s k x).prods = s.prods := rfl
@[simp] theorem setCtx_sfuLast (s : State) (k : Nat) (x : Ctx) : (setCtx s k x).sfuLast = s.sfuLast := rfl
@[simp] theorem setCtx_mem (s : State) (k : Nat) (x : Ctx) : (setCtx s k x).mem = s.mem := rfl
@[simp] theorem setCtx_full (s : State) (k : Nat) (x : Ctx) : (setCtx s k x).full = s.full := rfl
@[simp] theorem setCtx_poisoned (s : State) (k : Nat) (x : Ctx) : (setCtx s k x).poisoned = s.poisoned := rfl
@[simp] theorem setCtx_feReqs (s : State) (k : Nat) (x : Ctx) : (setCtx s k x).feReqs = s.feReqs := rfl
@[simp] theorem setCtx_curtains (s : State) (k : Nat) (x : Ctx) : (setCtx s k x).curtains = s.curtains := rfl
@[simp] theorem setCtx_curtainReqs (s : State) (k : Nat) (x : Ctx) : (setCtx s k x).curtainReqs = s.curtainReqs := rfl
@[simp] theorem setCtx_notices (s : State) (k : Nat) (x : Ctx) : (setCtx s k x).notices = s.notices := rfl
@[simp] theorem setCtx_door (s : State) (k : Nat) (x : Ctx) : (setCtx s k x).door = s.door := rfl
@[simp] theorem setCtx_dimmer (s : State) (k : Nat) (x : Ctx) : (setCtx s k x).dimmer = s.dimmer := rfl
@[simp] theorem setCtx_errors (s : State) (k : Nat) (x : Ctx) : (setCtx s k x).errors = s.errors := rfl
@[simp] theorem setCtx_mgmt (s : State) (k : Nat) (x : Ctx) : (setCtx s k x).mgmt = s.mgmt := rfl
@[simp] theorem setCtx_cur (s : State) (k : Nat) (x : Ctx) : (setCtx s k x).cur = s.cur := rfl
@[simp] theorem setCtx_ir (s : State) (k : Nat) (x : Ctx) : (setCtx s k x).ir = s.ir := rfl
@[simp] theorem setCtx_agenda (s : State) (k : Nat) (x : Ctx) : (setCtx s k x).agenda = s.agenda := rfl
@[simp] theorem setCtx_now (s : State) (k : Nat) (x : Ctx) : (setCtx s k x).now = s.now := rfl
@[simp] theorem setCtx_refillAt (s : State) (k : Nat) (x : Ctx) : (setCtx s k x).refillAt = s.refillAt := rfl
@[simp] theorem setCore_slots (s : State) (c : Nat) (x : Core) : (setCore s c x).slots = s.slots := rfl
@[simp] theorem setCore_ctxs (s : State) (c : Nat) (x : Core) : (setCore s c x).ctxs = s.ctxs := rfl
@[simp] theorem setCore_cores (s : State) (c : Nat) (x : Core) : (setCore s c x).cores = put s.cores c x := rfl
@[simp] theorem setCore_clusters (s : State) (c : Nat) (x : Core) : (setCore s c x).clusters = s.clusters := rfl
@[simp] theorem setCore_dies (s : State) (c : Nat) (x : Core) : (setCore s c x).dies = s.dies := rfl
@[simp] theorem setCore_prods (s : State) (c : Nat) (x : Core) : (setCore s c x).prods = s.prods := rfl
@[simp] theorem setCore_sfuLast (s : State) (c : Nat) (x : Core) : (setCore s c x).sfuLast = s.sfuLast := rfl
@[simp] theorem setCore_mem (s : State) (c : Nat) (x : Core) : (setCore s c x).mem = s.mem := rfl
@[simp] theorem setCore_full (s : State) (c : Nat) (x : Core) : (setCore s c x).full = s.full := rfl
@[simp] theorem setCore_poisoned (s : State) (c : Nat) (x : Core) : (setCore s c x).poisoned = s.poisoned := rfl
@[simp] theorem setCore_feReqs (s : State) (c : Nat) (x : Core) : (setCore s c x).feReqs = s.feReqs := rfl
@[simp] theorem setCore_curtains (s : State) (c : Nat) (x : Core) : (setCore s c x).curtains = s.curtains := rfl
@[simp] theorem setCore_curtainReqs (s : State) (c : Nat) (x : Core) : (setCore s c x).curtainReqs = s.curtainReqs := rfl
@[simp] theorem setCore_notices (s : State) (c : Nat) (x : Core) : (setCore s c x).notices = s.notices := rfl
@[simp] theorem setCore_door (s : State) (c : Nat) (x : Core) : (setCore s c x).door = s.door := rfl
@[simp] theorem setCore_dimmer (s : State) (c : Nat) (x : Core) : (setCore s c x).dimmer = s.dimmer := rfl
@[simp] theorem setCore_errors (s : State) (c : Nat) (x : Core) : (setCore s c x).errors = s.errors := rfl
@[simp] theorem setCore_mgmt (s : State) (c : Nat) (x : Core) : (setCore s c x).mgmt = s.mgmt := rfl
@[simp] theorem setCore_cur (s : State) (c : Nat) (x : Core) : (setCore s c x).cur = s.cur := rfl
@[simp] theorem setCore_ir (s : State) (c : Nat) (x : Core) : (setCore s c x).ir = s.ir := rfl
@[simp] theorem setCore_agenda (s : State) (c : Nat) (x : Core) : (setCore s c x).agenda = s.agenda := rfl
@[simp] theorem setCore_now (s : State) (c : Nat) (x : Core) : (setCore s c x).now = s.now := rfl
@[simp] theorem setCore_refillAt (s : State) (c : Nat) (x : Core) : (setCore s c x).refillAt = s.refillAt := rfl
@[simp] theorem setCluster_slots (s : State) (q : Nat) (x : Cluster) : (setCluster s q x).slots = s.slots := rfl
@[simp] theorem setCluster_ctxs (s : State) (q : Nat) (x : Cluster) : (setCluster s q x).ctxs = s.ctxs := rfl
@[simp] theorem setCluster_cores (s : State) (q : Nat) (x : Cluster) : (setCluster s q x).cores = s.cores := rfl
@[simp] theorem setCluster_clusters (s : State) (q : Nat) (x : Cluster) : (setCluster s q x).clusters = put s.clusters q x := rfl
@[simp] theorem setCluster_dies (s : State) (q : Nat) (x : Cluster) : (setCluster s q x).dies = s.dies := rfl
@[simp] theorem setCluster_prods (s : State) (q : Nat) (x : Cluster) : (setCluster s q x).prods = s.prods := rfl
@[simp] theorem setCluster_sfuLast (s : State) (q : Nat) (x : Cluster) : (setCluster s q x).sfuLast = s.sfuLast := rfl
@[simp] theorem setCluster_mem (s : State) (q : Nat) (x : Cluster) : (setCluster s q x).mem = s.mem := rfl
@[simp] theorem setCluster_full (s : State) (q : Nat) (x : Cluster) : (setCluster s q x).full = s.full := rfl
@[simp] theorem setCluster_poisoned (s : State) (q : Nat) (x : Cluster) : (setCluster s q x).poisoned = s.poisoned := rfl
@[simp] theorem setCluster_feReqs (s : State) (q : Nat) (x : Cluster) : (setCluster s q x).feReqs = s.feReqs := rfl
@[simp] theorem setCluster_curtains (s : State) (q : Nat) (x : Cluster) : (setCluster s q x).curtains = s.curtains := rfl
@[simp] theorem setCluster_curtainReqs (s : State) (q : Nat) (x : Cluster) : (setCluster s q x).curtainReqs = s.curtainReqs := rfl
@[simp] theorem setCluster_notices (s : State) (q : Nat) (x : Cluster) : (setCluster s q x).notices = s.notices := rfl
@[simp] theorem setCluster_door (s : State) (q : Nat) (x : Cluster) : (setCluster s q x).door = s.door := rfl
@[simp] theorem setCluster_dimmer (s : State) (q : Nat) (x : Cluster) : (setCluster s q x).dimmer = s.dimmer := rfl
@[simp] theorem setCluster_errors (s : State) (q : Nat) (x : Cluster) : (setCluster s q x).errors = s.errors := rfl
@[simp] theorem setCluster_mgmt (s : State) (q : Nat) (x : Cluster) : (setCluster s q x).mgmt = s.mgmt := rfl
@[simp] theorem setCluster_cur (s : State) (q : Nat) (x : Cluster) : (setCluster s q x).cur = s.cur := rfl
@[simp] theorem setCluster_ir (s : State) (q : Nat) (x : Cluster) : (setCluster s q x).ir = s.ir := rfl
@[simp] theorem setCluster_agenda (s : State) (q : Nat) (x : Cluster) : (setCluster s q x).agenda = s.agenda := rfl
@[simp] theorem setCluster_now (s : State) (q : Nat) (x : Cluster) : (setCluster s q x).now = s.now := rfl
@[simp] theorem setCluster_refillAt (s : State) (q : Nat) (x : Cluster) : (setCluster s q x).refillAt = s.refillAt := rfl
@[simp] theorem setDie_slots (s : State) (d : Nat) (x : Die) : (setDie s d x).slots = s.slots := rfl
@[simp] theorem setDie_ctxs (s : State) (d : Nat) (x : Die) : (setDie s d x).ctxs = s.ctxs := rfl
@[simp] theorem setDie_cores (s : State) (d : Nat) (x : Die) : (setDie s d x).cores = s.cores := rfl
@[simp] theorem setDie_clusters (s : State) (d : Nat) (x : Die) : (setDie s d x).clusters = s.clusters := rfl
@[simp] theorem setDie_dies (s : State) (d : Nat) (x : Die) : (setDie s d x).dies = put s.dies d x := rfl
@[simp] theorem setDie_prods (s : State) (d : Nat) (x : Die) : (setDie s d x).prods = s.prods := rfl
@[simp] theorem setDie_sfuLast (s : State) (d : Nat) (x : Die) : (setDie s d x).sfuLast = s.sfuLast := rfl
@[simp] theorem setDie_mem (s : State) (d : Nat) (x : Die) : (setDie s d x).mem = s.mem := rfl
@[simp] theorem setDie_full (s : State) (d : Nat) (x : Die) : (setDie s d x).full = s.full := rfl
@[simp] theorem setDie_poisoned (s : State) (d : Nat) (x : Die) : (setDie s d x).poisoned = s.poisoned := rfl
@[simp] theorem setDie_feReqs (s : State) (d : Nat) (x : Die) : (setDie s d x).feReqs = s.feReqs := rfl
@[simp] theorem setDie_curtains (s : State) (d : Nat) (x : Die) : (setDie s d x).curtains = s.curtains := rfl
@[simp] theorem setDie_curtainReqs (s : State) (d : Nat) (x : Die) : (setDie s d x).curtainReqs = s.curtainReqs := rfl
@[simp] theorem setDie_notices (s : State) (d : Nat) (x : Die) : (setDie s d x).notices = s.notices := rfl
@[simp] theorem setDie_door (s : State) (d : Nat) (x : Die) : (setDie s d x).door = s.door := rfl
@[simp] theorem setDie_dimmer (s : State) (d : Nat) (x : Die) : (setDie s d x).dimmer = s.dimmer := rfl
@[simp] theorem setDie_errors (s : State) (d : Nat) (x : Die) : (setDie s d x).errors = s.errors := rfl
@[simp] theorem setDie_mgmt (s : State) (d : Nat) (x : Die) : (setDie s d x).mgmt = s.mgmt := rfl
@[simp] theorem setDie_cur (s : State) (d : Nat) (x : Die) : (setDie s d x).cur = s.cur := rfl
@[simp] theorem setDie_ir (s : State) (d : Nat) (x : Die) : (setDie s d x).ir = s.ir := rfl
@[simp] theorem setDie_agenda (s : State) (d : Nat) (x : Die) : (setDie s d x).agenda = s.agenda := rfl
@[simp] theorem setDie_now (s : State) (d : Nat) (x : Die) : (setDie s d x).now = s.now := rfl
@[simp] theorem setDie_refillAt (s : State) (d : Nat) (x : Die) : (setDie s d x).refillAt = s.refillAt := rfl
@[simp] theorem setMe_slots (s : State) (x : Slot) : (setMe s x).slots = put s.slots s.cur x := rfl
@[simp] theorem setMe_ctxs (s : State) (x : Slot) : (setMe s x).ctxs = s.ctxs := rfl
@[simp] theorem setMe_cores (s : State) (x : Slot) : (setMe s x).cores = s.cores := rfl
@[simp] theorem setMe_clusters (s : State) (x : Slot) : (setMe s x).clusters = s.clusters := rfl
@[simp] theorem setMe_dies (s : State) (x : Slot) : (setMe s x).dies = s.dies := rfl
@[simp] theorem setMe_prods (s : State) (x : Slot) : (setMe s x).prods = s.prods := rfl
@[simp] theorem setMe_sfuLast (s : State) (x : Slot) : (setMe s x).sfuLast = s.sfuLast := rfl
@[simp] theorem setMe_mem (s : State) (x : Slot) : (setMe s x).mem = s.mem := rfl
@[simp] theorem setMe_full (s : State) (x : Slot) : (setMe s x).full = s.full := rfl
@[simp] theorem setMe_poisoned (s : State) (x : Slot) : (setMe s x).poisoned = s.poisoned := rfl
@[simp] theorem setMe_feReqs (s : State) (x : Slot) : (setMe s x).feReqs = s.feReqs := rfl
@[simp] theorem setMe_curtains (s : State) (x : Slot) : (setMe s x).curtains = s.curtains := rfl
@[simp] theorem setMe_curtainReqs (s : State) (x : Slot) : (setMe s x).curtainReqs = s.curtainReqs := rfl
@[simp] theorem setMe_notices (s : State) (x : Slot) : (setMe s x).notices = s.notices := rfl
@[simp] theorem setMe_door (s : State) (x : Slot) : (setMe s x).door = s.door := rfl
@[simp] theorem setMe_dimmer (s : State) (x : Slot) : (setMe s x).dimmer = s.dimmer := rfl
@[simp] theorem setMe_errors (s : State) (x : Slot) : (setMe s x).errors = s.errors := rfl
@[simp] theorem setMe_mgmt (s : State) (x : Slot) : (setMe s x).mgmt = s.mgmt := rfl
@[simp] theorem setMe_cur (s : State) (x : Slot) : (setMe s x).cur = s.cur := rfl
@[simp] theorem setMe_ir (s : State) (x : Slot) : (setMe s x).ir = s.ir := rfl
@[simp] theorem setMe_agenda (s : State) (x : Slot) : (setMe s x).agenda = s.agenda := rfl
@[simp] theorem setMe_now (s : State) (x : Slot) : (setMe s x).now = s.now := rfl
@[simp] theorem setMe_refillAt (s : State) (x : Slot) : (setMe s x).refillAt = s.refillAt := rfl
@[simp] theorem setProd_slots (s : State) (p : Nat) (x : Prod) : (setProd s p x).slots = s.slots := rfl
@[simp] theorem setProd_ctxs (s : State) (p : Nat) (x : Prod) : (setProd s p x).ctxs = s.ctxs := rfl
@[simp] theorem setProd_cores (s : State) (p : Nat) (x : Prod) : (setProd s p x).cores = s.cores := rfl
@[simp] theorem setProd_clusters (s : State) (p : Nat) (x : Prod) : (setProd s p x).clusters = s.clusters := rfl
@[simp] theorem setProd_dies (s : State) (p : Nat) (x : Prod) : (setProd s p x).dies = s.dies := rfl
@[simp] theorem setProd_prods (s : State) (p : Nat) (x : Prod) : (setProd s p x).prods = put s.prods p x := rfl
@[simp] theorem setProd_sfuLast (s : State) (p : Nat) (x : Prod) : (setProd s p x).sfuLast = s.sfuLast := rfl
@[simp] theorem setProd_mem (s : State) (p : Nat) (x : Prod) : (setProd s p x).mem = s.mem := rfl
@[simp] theorem setProd_full (s : State) (p : Nat) (x : Prod) : (setProd s p x).full = s.full := rfl
@[simp] theorem setProd_poisoned (s : State) (p : Nat) (x : Prod) : (setProd s p x).poisoned = s.poisoned := rfl
@[simp] theorem setProd_feReqs (s : State) (p : Nat) (x : Prod) : (setProd s p x).feReqs = s.feReqs := rfl
@[simp] theorem setProd_curtains (s : State) (p : Nat) (x : Prod) : (setProd s p x).curtains = s.curtains := rfl
@[simp] theorem setProd_curtainReqs (s : State) (p : Nat) (x : Prod) : (setProd s p x).curtainReqs = s.curtainReqs := rfl
@[simp] theorem setProd_notices (s : State) (p : Nat) (x : Prod) : (setProd s p x).notices = s.notices := rfl
@[simp] theorem setProd_door (s : State) (p : Nat) (x : Prod) : (setProd s p x).door = s.door := rfl
@[simp] theorem setProd_dimmer (s : State) (p : Nat) (x : Prod) : (setProd s p x).dimmer = s.dimmer := rfl
@[simp] theorem setProd_errors (s : State) (p : Nat) (x : Prod) : (setProd s p x).errors = s.errors := rfl
@[simp] theorem setProd_mgmt (s : State) (p : Nat) (x : Prod) : (setProd s p x).mgmt = s.mgmt := rfl
@[simp] theorem setProd_cur (s : State) (p : Nat) (x : Prod) : (setProd s p x).cur = s.cur := rfl
@[simp] theorem setProd_ir (s : State) (p : Nat) (x : Prod) : (setProd s p x).ir = s.ir := rfl
@[simp] theorem setProd_agenda (s : State) (p : Nat) (x : Prod) : (setProd s p x).agenda = s.agenda := rfl
@[simp] theorem setProd_now (s : State) (p : Nat) (x : Prod) : (setProd s p x).now = s.now := rfl
@[simp] theorem setProd_refillAt (s : State) (p : Nat) (x : Prod) : (setProd s p x).refillAt = s.refillAt := rfl

/-! Each part, read after each update. -/

@[simp] theorem slotAt_setSlot_self (s : State) (k : Nat) (x : Slot) : slotAt (setSlot s k x) k = x := look_put_self _ _ _ _
theorem slotAt_setSlot_ne (s : State) {j k : Nat} (h : j ≠ k) (x : Slot) : slotAt (setSlot s j x) k = slotAt s k := look_put_ne _ h _ _
@[simp] theorem slotAt_setCtx (s : State) (j k : Nat) (x : Ctx) : slotAt (setCtx s j x) k = slotAt s k := rfl
@[simp] theorem slotAt_setCore (s : State) (j k : Nat) (x : Core) : slotAt (setCore s j x) k = slotAt s k := rfl
@[simp] theorem slotAt_setCluster (s : State) (j k : Nat) (x : Cluster) : slotAt (setCluster s j x) k = slotAt s k := rfl
@[simp] theorem slotAt_setDie (s : State) (j k : Nat) (x : Die) : slotAt (setDie s j x) k = slotAt s k := rfl
@[simp] theorem ctxAt_setSlot (s : State) (j k : Nat) (x : Slot) : ctxAt (setSlot s j x) k = ctxAt s k := rfl
@[simp] theorem ctxAt_setCtx_self (s : State) (k : Nat) (x : Ctx) : ctxAt (setCtx s k x) k = x := look_put_self _ _ _ _
theorem ctxAt_setCtx_ne (s : State) {j k : Nat} (h : j ≠ k) (x : Ctx) : ctxAt (setCtx s j x) k = ctxAt s k := look_put_ne _ h _ _
@[simp] theorem ctxAt_setCore (s : State) (j k : Nat) (x : Core) : ctxAt (setCore s j x) k = ctxAt s k := rfl
@[simp] theorem ctxAt_setCluster (s : State) (j k : Nat) (x : Cluster) : ctxAt (setCluster s j x) k = ctxAt s k := rfl
@[simp] theorem ctxAt_setDie (s : State) (j k : Nat) (x : Die) : ctxAt (setDie s j x) k = ctxAt s k := rfl
@[simp] theorem coreAt_setSlot (s : State) (j k : Nat) (x : Slot) : coreAt (setSlot s j x) k = coreAt s k := rfl
@[simp] theorem coreAt_setCtx (s : State) (j k : Nat) (x : Ctx) : coreAt (setCtx s j x) k = coreAt s k := rfl
@[simp] theorem coreAt_setCore_self (s : State) (k : Nat) (x : Core) : coreAt (setCore s k x) k = x := look_put_self _ _ _ _
theorem coreAt_setCore_ne (s : State) {j k : Nat} (h : j ≠ k) (x : Core) : coreAt (setCore s j x) k = coreAt s k := look_put_ne _ h _ _
@[simp] theorem coreAt_setCluster (s : State) (j k : Nat) (x : Cluster) : coreAt (setCluster s j x) k = coreAt s k := rfl
@[simp] theorem coreAt_setDie (s : State) (j k : Nat) (x : Die) : coreAt (setDie s j x) k = coreAt s k := rfl
@[simp] theorem clusterAt_setSlot (s : State) (j k : Nat) (x : Slot) : clusterAt (setSlot s j x) k = clusterAt s k := rfl
@[simp] theorem clusterAt_setCtx (s : State) (j k : Nat) (x : Ctx) : clusterAt (setCtx s j x) k = clusterAt s k := rfl
@[simp] theorem clusterAt_setCore (s : State) (j k : Nat) (x : Core) : clusterAt (setCore s j x) k = clusterAt s k := rfl
@[simp] theorem clusterAt_setCluster_self (s : State) (k : Nat) (x : Cluster) : clusterAt (setCluster s k x) k = x := look_put_self _ _ _ _
theorem clusterAt_setCluster_ne (s : State) {j k : Nat} (h : j ≠ k) (x : Cluster) : clusterAt (setCluster s j x) k = clusterAt s k := look_put_ne _ h _ _
@[simp] theorem clusterAt_setDie (s : State) (j k : Nat) (x : Die) : clusterAt (setDie s j x) k = clusterAt s k := rfl
@[simp] theorem dieAt_setSlot (s : State) (j k : Nat) (x : Slot) : dieAt (setSlot s j x) k = dieAt s k := rfl
@[simp] theorem dieAt_setCtx (s : State) (j k : Nat) (x : Ctx) : dieAt (setCtx s j x) k = dieAt s k := rfl
@[simp] theorem dieAt_setCore (s : State) (j k : Nat) (x : Core) : dieAt (setCore s j x) k = dieAt s k := rfl
@[simp] theorem dieAt_setCluster (s : State) (j k : Nat) (x : Cluster) : dieAt (setCluster s j x) k = dieAt s k := rfl
@[simp] theorem dieAt_setDie_self (s : State) (k : Nat) (x : Die) : dieAt (setDie s k x) k = x := look_put_self _ _ _ _
theorem dieAt_setDie_ne (s : State) {j k : Nat} (h : j ≠ k) (x : Die) : dieAt (setDie s j x) k = dieAt s k := look_put_ne _ h _ _
@[simp] theorem setSlot_setSlot (s : State) (k : Nat) (x y : Slot) : setSlot (setSlot s k x) k y = setSlot s k y := by
  simp [setSlot]
@[simp] theorem setCtx_setCtx (s : State) (k : Nat) (x y : Ctx) : setCtx (setCtx s k x) k y = setCtx s k y := by
  simp [setCtx]
@[simp] theorem setCore_setCore (s : State) (k : Nat) (x y : Core) : setCore (setCore s k x) k y = setCore s k y := by
  simp [setCore]
@[simp] theorem setCluster_setCluster (s : State) (k : Nat) (x y : Cluster) : setCluster (setCluster s k x) k y = setCluster s k y := by
  simp [setCluster]
@[simp] theorem setDie_setDie (s : State) (k : Nat) (x y : Die) : setDie (setDie s k x) k y = setDie s k y := by
  simp [setDie]

/-- The acting slot, once replaced. -/
@[simp] theorem me_setMe (s : State) (x : Slot) : me (setMe s x) = x := look_put_self _ _ _ _
@[simp] theorem setMe_setMe (s : State) (x y : Slot) : setMe (setMe s x) y = setMe s y := setSlot_setSlot _ _ _ _
@[simp] theorem setSlot_cur_eq_setMe (s : State) (x : Slot) : setSlot s s.cur x = setMe s x := rfl
theorem slotAt_setMe_ne (s : State) {j : Nat} (h : s.cur ≠ j) (x : Slot) : slotAt (setMe s x) j = slotAt s j := look_put_ne _ h _ _
@[simp] theorem ctxAt_setMe (s : State) (x : Slot) (k : Nat) : ctxAt (setMe s x) k = ctxAt s k := rfl
@[simp] theorem me_setCtx (s : State) (k : Nat) (x : Ctx) : me (setCtx s k x) = me s := rfl
@[simp] theorem myCore_setCtx (s : State) (k : Nat) (x : Ctx) : myCore (setCtx s k x) = myCore s := rfl
@[simp] theorem irLen_setCtx (s : State) (k : Nat) (x : Ctx) : irLen (setCtx s k x) = irLen s := rfl
@[simp] theorem nextPc_setCtx (s : State) (k : Nat) (x : Ctx) : nextPc (setCtx s k x) = nextPc s := rfl
@[simp] theorem coreAt_setMe (s : State) (x : Slot) (k : Nat) : coreAt (setMe s x) k = coreAt s k := rfl
@[simp] theorem me_setCore (s : State) (k : Nat) (x : Core) : me (setCore s k x) = me s := rfl
@[simp] theorem myCore_setCore (s : State) (k : Nat) (x : Core) : myCore (setCore s k x) = myCore s := rfl
@[simp] theorem irLen_setCore (s : State) (k : Nat) (x : Core) : irLen (setCore s k x) = irLen s := rfl
@[simp] theorem nextPc_setCore (s : State) (k : Nat) (x : Core) : nextPc (setCore s k x) = nextPc s := rfl
@[simp] theorem clusterAt_setMe (s : State) (x : Slot) (k : Nat) : clusterAt (setMe s x) k = clusterAt s k := rfl
@[simp] theorem me_setCluster (s : State) (k : Nat) (x : Cluster) : me (setCluster s k x) = me s := rfl
@[simp] theorem myCore_setCluster (s : State) (k : Nat) (x : Cluster) : myCore (setCluster s k x) = myCore s := rfl
@[simp] theorem irLen_setCluster (s : State) (k : Nat) (x : Cluster) : irLen (setCluster s k x) = irLen s := rfl
@[simp] theorem nextPc_setCluster (s : State) (k : Nat) (x : Cluster) : nextPc (setCluster s k x) = nextPc s := rfl
@[simp] theorem dieAt_setMe (s : State) (x : Slot) (k : Nat) : dieAt (setMe s x) k = dieAt s k := rfl
@[simp] theorem me_setDie (s : State) (k : Nat) (x : Die) : me (setDie s k x) = me s := rfl
@[simp] theorem myCore_setDie (s : State) (k : Nat) (x : Die) : myCore (setDie s k x) = myCore s := rfl
@[simp] theorem irLen_setDie (s : State) (k : Nat) (x : Die) : irLen (setDie s k x) = irLen s := rfl
@[simp] theorem nextPc_setDie (s : State) (k : Nat) (x : Die) : nextPc (setDie s k x) = nextPc s := rfl
@[simp] theorem myCore_setMe (s : State) (x : Slot) : myCore (setMe s x) = myCore s := rfl
@[simp] theorem irLen_setMe (s : State) (x : Slot) : irLen (setMe s x) = irLen s := rfl
@[simp] theorem nextPc_setMe (s : State) (x : Slot) : nextPc (setMe s x) = x.pc + BitVec.ofNat 64 (irLen s) := by simp [nextPc]

/-! The slot's registers (05 R124, R125). -/

/-- g0 reads as zero. -/
@[simp] theorem readG_zero (x : Slot) : readG x 0 = 0 := by simp [readG]
/-- g0 discards what is written. -/
@[simp] theorem setG_zero (x : Slot) (v : Word) : setG x 0 v = x := by simp [setG]
/-- A register holds what was written. -/
theorem readG_setG_self (x : Slot) {r : GReg} (h : r ≠ 0) (v : Word) : readG (setG x r v) r = v := by
  rw [readG, if_neg h, setG, if_neg h]
  exact Vector.getElem_set_self r.isLt
/-- Every other register holds what it held. -/
theorem readG_setG_ne (x : Slot) {r q : GReg} (h : r ≠ q) (v : Word) : readG (setG x r v) q = readG x q := by
  unfold readG setG
  split
  · rfl
  · split
    · rfl
    · exact Vector.getElem_set_ne r.isLt q.isLt fun e => h (BitVec.eq_of_toNat_eq e)

@[simp] theorem setG_st (x : Slot) (r : GReg) (v : Word) : (setG x r v).st = x.st := by unfold setG; split <;> rfl
@[simp] theorem setG_freezing (x : Slot) (r : GReg) (v : Word) : (setG x r v).freezing = x.freezing := by unfold setG; split <;> rfl
@[simp] theorem setG_sup (x : Slot) (r : GReg) (v : Word) : (setG x r v).sup = x.sup := by unfold setG; split <;> rfl
@[simp] theorem setG_handler (x : Slot) (r : GReg) (v : Word) : (setG x r v).handler = x.handler := by unfold setG; split <;> rfl
@[simp] theorem setG_retiring (x : Slot) (r : GReg) (v : Word) : (setG x r v).retiring = x.retiring := by unfold setG; split <;> rfl
@[simp] theorem setG_pc (x : Slot) (r : GReg) (v : Word) : (setG x r v).pc = x.pc := by unfold setG; split <;> rfl
@[simp] theorem setG_gea (x : Slot) (r : GReg) (v : Word) : (setG x r v).gea = x.gea := by unfold setG; split <;> rfl
@[simp] theorem setG_handle (x : Slot) (r : GReg) (v : Word) : (setG x r v).handle = x.handle := by unfold setG; split <;> rfl
@[simp] theorem setG_fmtp (x : Slot) (r : GReg) (v : Word) : (setG x r v).fmtp = x.fmtp := by unfold setG; split <;> rfl
@[simp] theorem setG_sclp (x : Slot) (r : GReg) (v : Word) : (setG x r v).sclp = x.sclp := by unfold setG; split <;> rfl
@[simp] theorem setG_taskid (x : Slot) (r : GReg) (v : Word) : (setG x r v).taskid = x.taskid := by unfold setG; split <;> rfl
@[simp] theorem setG_prodid (x : Slot) (r : GReg) (v : Word) : (setG x r v).prodid = x.prodid := by unfold setG; split <;> rfl
@[simp] theorem setG_cls (x : Slot) (r : GReg) (v : Word) : (setG x r v).cls = x.cls := by unfold setG; split <;> rfl
@[simp] theorem setG_patience (x : Slot) (r : GReg) (v : Word) : (setG x r v).patience = x.patience := by unfold setG; split <;> rfl
@[simp] theorem setG_qcode (x : Slot) (r : GReg) (v : Word) : (setG x r v).qcode = x.qcode := by unfold setG; split <;> rfl
@[simp] theorem setG_vctx (x : Slot) (r : GReg) (v : Word) : (setG x r v).vctx = x.vctx := by unfold setG; split <;> rfl
@[simp] theorem setG_fflags (x : Slot) (r : GReg) (v : Word) : (setG x r v).fflags = x.fflags := by unfold setG; split <;> rfl
@[simp] theorem setG_frm (x : Slot) (r : GReg) (v : Word) : (setG x r v).frm = x.frm := by unfold setG; split <;> rfl
@[simp] theorem setG_outT (x : Slot) (r : GReg) (v : Word) : (setG x r v).outT = x.outT := by unfold setG; split <;> rfl
@[simp] theorem setG_outC (x : Slot) (r : GReg) (v : Word) : (setG x r v).outC = x.outC := by unfold setG; split <;> rfl
@[simp] theorem setG_outS (x : Slot) (r : GReg) (v : Word) : (setG x r v).outS = x.outS := by unfold setG; split <;> rfl
@[simp] theorem setG_outL (x : Slot) (r : GReg) (v : Word) : (setG x r v).outL = x.outL := by unfold setG; split <;> rfl
@[simp] theorem setG_stalerd (x : Slot) (r : GReg) (v : Word) : (setG x r v).stalerd = x.stalerd := by unfold setG; split <;> rfl
@[simp] theorem setG_trappc (x : Slot) (r : GReg) (v : Word) : (setG x r v).trappc = x.trappc := by unfold setG; split <;> rfl
@[simp] theorem setG_trapvc (x : Slot) (r : GReg) (v : Word) : (setG x r v).trapvc = x.trapvc := by unfold setG; split <;> rfl
@[simp] theorem setG_trapcause (x : Slot) (r : GReg) (v : Word) : (setG x r v).trapcause = x.trapcause := by unfold setG; split <;> rfl
@[simp] theorem setG_trapaddr (x : Slot) (r : GReg) (v : Word) : (setG x r v).trapaddr = x.trapaddr := by unfold setG; split <;> rfl
@[simp] theorem setG_trapvec (x : Slot) (r : GReg) (v : Word) : (setG x r v).trapvec = x.trapvec := by unfold setG; split <;> rfl
@[simp] theorem setG_hscratch0 (x : Slot) (r : GReg) (v : Word) : (setG x r v).hscratch0 = x.hscratch0 := by unfold setG; split <;> rfl
@[simp] theorem setG_hscratch1 (x : Slot) (r : GReg) (v : Word) : (setG x r v).hscratch1 = x.hscratch1 := by unfold setG; split <;> rfl
@[simp] theorem setG_saveptr (x : Slot) (r : GReg) (v : Word) : (setG x r v).saveptr = x.saveptr := by unfold setG; split <;> rfl
@[simp] theorem setG_sbuf (x : Slot) (r : GReg) (v : Word) : (setG x r v).sbuf = x.sbuf := by unfold setG; split <;> rfl
@[simp] theorem setG_arrivals (x : Slot) (r : GReg) (v : Word) : (setG x r v).arrivals = x.arrivals := by unfold setG; split <;> rfl
@[simp] theorem setG_late (x : Slot) (r : GReg) (v : Word) : (setG x r v).late = x.late := by unfold setG; split <;> rfl
@[simp] theorem setG_flagWrites (x : Slot) (r : GReg) (v : Word) : (setG x r v).flagWrites = x.flagWrites := by unfold setG; split <;> rfl
@[simp] theorem setG_waiting (x : Slot) (r : GReg) (v : Word) : (setG x r v).waiting = x.waiting := by unfold setG; split <;> rfl
@[simp] theorem setG_since (x : Slot) (r : GReg) (v : Word) : (setG x r v).since = x.since := by unfold setG; split <;> rfl
@[simp] theorem setG_ilen (x : Slot) (r : GReg) (v : Word) : (setG x r v).ilen = x.ilen := by unfold setG; split <;> rfl
@[simp] theorem setG_qCmd (x : Slot) (r : GReg) (v : Word) : (setG x r v).qCmd = x.qCmd := by unfold setG; split <;> rfl
@[simp] theorem setG_qStat (x : Slot) (r : GReg) (v : Word) : (setG x r v).qStat = x.qStat := by unfold setG; split <;> rfl
@[simp] theorem setG_qSfuReq (x : Slot) (r : GReg) (v : Word) : (setG x r v).qSfuReq = x.qSfuReq := by unfold setG; split <;> rfl
@[simp] theorem setG_qSfuRes (x : Slot) (r : GReg) (v : Word) : (setG x r v).qSfuRes = x.qSfuRes := by unfold setG; split <;> rfl
@[simp] theorem setG_invals (x : Slot) (r : GReg) (v : Word) : (setG x r v).invals = x.invals := by unfold setG; split <;> rfl
@[simp] theorem setG_saved (x : Slot) (r : GReg) (v : Word) : (setG x r v).saved = x.saved := by unfold setG; split <;> rfl
@[simp] theorem setG_dbg (x : Slot) (r : GReg) (v : Word) : (setG x r v).dbg = x.dbg := by unfold setG; split <;> rfl
@[simp] theorem pendG_st (x : Slot) (r : GReg) (a : Word) : (pendG x r a).st = x.st := by unfold pendG; split <;> rfl
@[simp] theorem pendG_freezing (x : Slot) (r : GReg) (a : Word) : (pendG x r a).freezing = x.freezing := by unfold pendG; split <;> rfl
@[simp] theorem pendG_sup (x : Slot) (r : GReg) (a : Word) : (pendG x r a).sup = x.sup := by unfold pendG; split <;> rfl
@[simp] theorem pendG_handler (x : Slot) (r : GReg) (a : Word) : (pendG x r a).handler = x.handler := by unfold pendG; split <;> rfl
@[simp] theorem pendG_retiring (x : Slot) (r : GReg) (a : Word) : (pendG x r a).retiring = x.retiring := by unfold pendG; split <;> rfl
@[simp] theorem pendG_pc (x : Slot) (r : GReg) (a : Word) : (pendG x r a).pc = x.pc := by unfold pendG; split <;> rfl
@[simp] theorem pendG_g (x : Slot) (r : GReg) (a : Word) : (pendG x r a).g = x.g := by unfold pendG; split <;> rfl
@[simp] theorem pendG_poison (x : Slot) (r : GReg) (a : Word) : (pendG x r a).poison = x.poison := by unfold pendG; split <;> rfl
@[simp] theorem pendG_handle (x : Slot) (r : GReg) (a : Word) : (pendG x r a).handle = x.handle := by unfold pendG; split <;> rfl
@[simp] theorem pendG_fmtp (x : Slot) (r : GReg) (a : Word) : (pendG x r a).fmtp = x.fmtp := by unfold pendG; split <;> rfl
@[simp] theorem pendG_sclp (x : Slot) (r : GReg) (a : Word) : (pendG x r a).sclp = x.sclp := by unfold pendG; split <;> rfl
@[simp] theorem pendG_taskid (x : Slot) (r : GReg) (a : Word) : (pendG x r a).taskid = x.taskid := by unfold pendG; split <;> rfl
@[simp] theorem pendG_prodid (x : Slot) (r : GReg) (a : Word) : (pendG x r a).prodid = x.prodid := by unfold pendG; split <;> rfl
@[simp] theorem pendG_cls (x : Slot) (r : GReg) (a : Word) : (pendG x r a).cls = x.cls := by unfold pendG; split <;> rfl
@[simp] theorem pendG_patience (x : Slot) (r : GReg) (a : Word) : (pendG x r a).patience = x.patience := by unfold pendG; split <;> rfl
@[simp] theorem pendG_qcode (x : Slot) (r : GReg) (a : Word) : (pendG x r a).qcode = x.qcode := by unfold pendG; split <;> rfl
@[simp] theorem pendG_vctx (x : Slot) (r : GReg) (a : Word) : (pendG x r a).vctx = x.vctx := by unfold pendG; split <;> rfl
@[simp] theorem pendG_fflags (x : Slot) (r : GReg) (a : Word) : (pendG x r a).fflags = x.fflags := by unfold pendG; split <;> rfl
@[simp] theorem pendG_frm (x : Slot) (r : GReg) (a : Word) : (pendG x r a).frm = x.frm := by unfold pendG; split <;> rfl
@[simp] theorem pendG_outT (x : Slot) (r : GReg) (a : Word) : (pendG x r a).outT = x.outT := by unfold pendG; split <;> rfl
@[simp] theorem pendG_outC (x : Slot) (r : GReg) (a : Word) : (pendG x r a).outC = x.outC := by unfold pendG; split <;> rfl
@[simp] theorem pendG_outS (x : Slot) (r : GReg) (a : Word) : (pendG x r a).outS = x.outS := by unfold pendG; split <;> rfl
@[simp] theorem pendG_outL (x : Slot) (r : GReg) (a : Word) : (pendG x r a).outL = x.outL := by unfold pendG; split <;> rfl
@[simp] theorem pendG_stalerd (x : Slot) (r : GReg) (a : Word) : (pendG x r a).stalerd = x.stalerd := by unfold pendG; split <;> rfl
@[simp] theorem pendG_trappc (x : Slot) (r : GReg) (a : Word) : (pendG x r a).trappc = x.trappc := by unfold pendG; split <;> rfl
@[simp] theorem pendG_trapvc (x : Slot) (r : GReg) (a : Word) : (pendG x r a).trapvc = x.trapvc := by unfold pendG; split <;> rfl
@[simp] theorem pendG_trapcause (x : Slot) (r : GReg) (a : Word) : (pendG x r a).trapcause = x.trapcause := by unfold pendG; split <;> rfl
@[simp] theorem pendG_trapaddr (x : Slot) (r : GReg) (a : Word) : (pendG x r a).trapaddr = x.trapaddr := by unfold pendG; split <;> rfl
@[simp] theorem pendG_trapvec (x : Slot) (r : GReg) (a : Word) : (pendG x r a).trapvec = x.trapvec := by unfold pendG; split <;> rfl
@[simp] theorem pendG_hscratch0 (x : Slot) (r : GReg) (a : Word) : (pendG x r a).hscratch0 = x.hscratch0 := by unfold pendG; split <;> rfl
@[simp] theorem pendG_hscratch1 (x : Slot) (r : GReg) (a : Word) : (pendG x r a).hscratch1 = x.hscratch1 := by unfold pendG; split <;> rfl
@[simp] theorem pendG_saveptr (x : Slot) (r : GReg) (a : Word) : (pendG x r a).saveptr = x.saveptr := by unfold pendG; split <;> rfl
@[simp] theorem pendG_sbuf (x : Slot) (r : GReg) (a : Word) : (pendG x r a).sbuf = x.sbuf := by unfold pendG; split <;> rfl
@[simp] theorem pendG_arrivals (x : Slot) (r : GReg) (a : Word) : (pendG x r a).arrivals = x.arrivals := by unfold pendG; split <;> rfl
@[simp] theorem pendG_late (x : Slot) (r : GReg) (a : Word) : (pendG x r a).late = x.late := by unfold pendG; split <;> rfl
@[simp] theorem pendG_flagWrites (x : Slot) (r : GReg) (a : Word) : (pendG x r a).flagWrites = x.flagWrites := by unfold pendG; split <;> rfl
@[simp] theorem pendG_waiting (x : Slot) (r : GReg) (a : Word) : (pendG x r a).waiting = x.waiting := by unfold pendG; split <;> rfl
@[simp] theorem pendG_since (x : Slot) (r : GReg) (a : Word) : (pendG x r a).since = x.since := by unfold pendG; split <;> rfl
@[simp] theorem pendG_ilen (x : Slot) (r : GReg) (a : Word) : (pendG x r a).ilen = x.ilen := by unfold pendG; split <;> rfl
@[simp] theorem pendG_qCmd (x : Slot) (r : GReg) (a : Word) : (pendG x r a).qCmd = x.qCmd := by unfold pendG; split <;> rfl
@[simp] theorem pendG_qStat (x : Slot) (r : GReg) (a : Word) : (pendG x r a).qStat = x.qStat := by unfold pendG; split <;> rfl
@[simp] theorem pendG_qSfuReq (x : Slot) (r : GReg) (a : Word) : (pendG x r a).qSfuReq = x.qSfuReq := by unfold pendG; split <;> rfl
@[simp] theorem pendG_qSfuRes (x : Slot) (r : GReg) (a : Word) : (pendG x r a).qSfuRes = x.qSfuRes := by unfold pendG; split <;> rfl
@[simp] theorem pendG_invals (x : Slot) (r : GReg) (a : Word) : (pendG x r a).invals = x.invals := by unfold pendG; split <;> rfl
@[simp] theorem pendG_saved (x : Slot) (r : GReg) (a : Word) : (pendG x r a).saved = x.saved := by unfold pendG; split <;> rfl
@[simp] theorem pendG_dbg (x : Slot) (r : GReg) (a : Word) : (pendG x r a).dbg = x.dbg := by unfold pendG; split <;> rfl
@[simp] theorem raiseCtr_st (x : Slot) (k : Ctr) : (raiseCtr x k).st = x.st := by cases k <;> rfl
@[simp] theorem lowerCtr_st (x : Slot) (k : Ctr) : (lowerCtr x k).st = x.st := by cases k <;> rfl
@[simp] theorem raiseCtr_freezing (x : Slot) (k : Ctr) : (raiseCtr x k).freezing = x.freezing := by cases k <;> rfl
@[simp] theorem lowerCtr_freezing (x : Slot) (k : Ctr) : (lowerCtr x k).freezing = x.freezing := by cases k <;> rfl
@[simp] theorem raiseCtr_sup (x : Slot) (k : Ctr) : (raiseCtr x k).sup = x.sup := by cases k <;> rfl
@[simp] theorem lowerCtr_sup (x : Slot) (k : Ctr) : (lowerCtr x k).sup = x.sup := by cases k <;> rfl
@[simp] theorem raiseCtr_handler (x : Slot) (k : Ctr) : (raiseCtr x k).handler = x.handler := by cases k <;> rfl
@[simp] theorem lowerCtr_handler (x : Slot) (k : Ctr) : (lowerCtr x k).handler = x.handler := by cases k <;> rfl
@[simp] theorem raiseCtr_retiring (x : Slot) (k : Ctr) : (raiseCtr x k).retiring = x.retiring := by cases k <;> rfl
@[simp] theorem lowerCtr_retiring (x : Slot) (k : Ctr) : (lowerCtr x k).retiring = x.retiring := by cases k <;> rfl
@[simp] theorem raiseCtr_pc (x : Slot) (k : Ctr) : (raiseCtr x k).pc = x.pc := by cases k <;> rfl
@[simp] theorem lowerCtr_pc (x : Slot) (k : Ctr) : (lowerCtr x k).pc = x.pc := by cases k <;> rfl
@[simp] theorem raiseCtr_g (x : Slot) (k : Ctr) : (raiseCtr x k).g = x.g := by cases k <;> rfl
@[simp] theorem lowerCtr_g (x : Slot) (k : Ctr) : (lowerCtr x k).g = x.g := by cases k <;> rfl
@[simp] theorem raiseCtr_pend (x : Slot) (k : Ctr) : (raiseCtr x k).pend = x.pend := by cases k <;> rfl
@[simp] theorem lowerCtr_pend (x : Slot) (k : Ctr) : (lowerCtr x k).pend = x.pend := by cases k <;> rfl
@[simp] theorem raiseCtr_poison (x : Slot) (k : Ctr) : (raiseCtr x k).poison = x.poison := by cases k <;> rfl
@[simp] theorem lowerCtr_poison (x : Slot) (k : Ctr) : (lowerCtr x k).poison = x.poison := by cases k <;> rfl
@[simp] theorem raiseCtr_gea (x : Slot) (k : Ctr) : (raiseCtr x k).gea = x.gea := by cases k <;> rfl
@[simp] theorem lowerCtr_gea (x : Slot) (k : Ctr) : (lowerCtr x k).gea = x.gea := by cases k <;> rfl
@[simp] theorem raiseCtr_handle (x : Slot) (k : Ctr) : (raiseCtr x k).handle = x.handle := by cases k <;> rfl
@[simp] theorem lowerCtr_handle (x : Slot) (k : Ctr) : (lowerCtr x k).handle = x.handle := by cases k <;> rfl
@[simp] theorem raiseCtr_fmtp (x : Slot) (k : Ctr) : (raiseCtr x k).fmtp = x.fmtp := by cases k <;> rfl
@[simp] theorem lowerCtr_fmtp (x : Slot) (k : Ctr) : (lowerCtr x k).fmtp = x.fmtp := by cases k <;> rfl
@[simp] theorem raiseCtr_sclp (x : Slot) (k : Ctr) : (raiseCtr x k).sclp = x.sclp := by cases k <;> rfl
@[simp] theorem lowerCtr_sclp (x : Slot) (k : Ctr) : (lowerCtr x k).sclp = x.sclp := by cases k <;> rfl
@[simp] theorem raiseCtr_taskid (x : Slot) (k : Ctr) : (raiseCtr x k).taskid = x.taskid := by cases k <;> rfl
@[simp] theorem lowerCtr_taskid (x : Slot) (k : Ctr) : (lowerCtr x k).taskid = x.taskid := by cases k <;> rfl
@[simp] theorem raiseCtr_prodid (x : Slot) (k : Ctr) : (raiseCtr x k).prodid = x.prodid := by cases k <;> rfl
@[simp] theorem lowerCtr_prodid (x : Slot) (k : Ctr) : (lowerCtr x k).prodid = x.prodid := by cases k <;> rfl
@[simp] theorem raiseCtr_cls (x : Slot) (k : Ctr) : (raiseCtr x k).cls = x.cls := by cases k <;> rfl
@[simp] theorem lowerCtr_cls (x : Slot) (k : Ctr) : (lowerCtr x k).cls = x.cls := by cases k <;> rfl
@[simp] theorem raiseCtr_patience (x : Slot) (k : Ctr) : (raiseCtr x k).patience = x.patience := by cases k <;> rfl
@[simp] theorem lowerCtr_patience (x : Slot) (k : Ctr) : (lowerCtr x k).patience = x.patience := by cases k <;> rfl
@[simp] theorem raiseCtr_qcode (x : Slot) (k : Ctr) : (raiseCtr x k).qcode = x.qcode := by cases k <;> rfl
@[simp] theorem lowerCtr_qcode (x : Slot) (k : Ctr) : (lowerCtr x k).qcode = x.qcode := by cases k <;> rfl
@[simp] theorem raiseCtr_vctx (x : Slot) (k : Ctr) : (raiseCtr x k).vctx = x.vctx := by cases k <;> rfl
@[simp] theorem lowerCtr_vctx (x : Slot) (k : Ctr) : (lowerCtr x k).vctx = x.vctx := by cases k <;> rfl
@[simp] theorem raiseCtr_fflags (x : Slot) (k : Ctr) : (raiseCtr x k).fflags = x.fflags := by cases k <;> rfl
@[simp] theorem lowerCtr_fflags (x : Slot) (k : Ctr) : (lowerCtr x k).fflags = x.fflags := by cases k <;> rfl
@[simp] theorem raiseCtr_frm (x : Slot) (k : Ctr) : (raiseCtr x k).frm = x.frm := by cases k <;> rfl
@[simp] theorem lowerCtr_frm (x : Slot) (k : Ctr) : (lowerCtr x k).frm = x.frm := by cases k <;> rfl
@[simp] theorem raiseCtr_stalerd (x : Slot) (k : Ctr) : (raiseCtr x k).stalerd = x.stalerd := by cases k <;> rfl
@[simp] theorem lowerCtr_stalerd (x : Slot) (k : Ctr) : (lowerCtr x k).stalerd = x.stalerd := by cases k <;> rfl
@[simp] theorem raiseCtr_trappc (x : Slot) (k : Ctr) : (raiseCtr x k).trappc = x.trappc := by cases k <;> rfl
@[simp] theorem lowerCtr_trappc (x : Slot) (k : Ctr) : (lowerCtr x k).trappc = x.trappc := by cases k <;> rfl
@[simp] theorem raiseCtr_trapvc (x : Slot) (k : Ctr) : (raiseCtr x k).trapvc = x.trapvc := by cases k <;> rfl
@[simp] theorem lowerCtr_trapvc (x : Slot) (k : Ctr) : (lowerCtr x k).trapvc = x.trapvc := by cases k <;> rfl
@[simp] theorem raiseCtr_trapcause (x : Slot) (k : Ctr) : (raiseCtr x k).trapcause = x.trapcause := by cases k <;> rfl
@[simp] theorem lowerCtr_trapcause (x : Slot) (k : Ctr) : (lowerCtr x k).trapcause = x.trapcause := by cases k <;> rfl
@[simp] theorem raiseCtr_trapaddr (x : Slot) (k : Ctr) : (raiseCtr x k).trapaddr = x.trapaddr := by cases k <;> rfl
@[simp] theorem lowerCtr_trapaddr (x : Slot) (k : Ctr) : (lowerCtr x k).trapaddr = x.trapaddr := by cases k <;> rfl
@[simp] theorem raiseCtr_trapvec (x : Slot) (k : Ctr) : (raiseCtr x k).trapvec = x.trapvec := by cases k <;> rfl
@[simp] theorem lowerCtr_trapvec (x : Slot) (k : Ctr) : (lowerCtr x k).trapvec = x.trapvec := by cases k <;> rfl
@[simp] theorem raiseCtr_hscratch0 (x : Slot) (k : Ctr) : (raiseCtr x k).hscratch0 = x.hscratch0 := by cases k <;> rfl
@[simp] theorem lowerCtr_hscratch0 (x : Slot) (k : Ctr) : (lowerCtr x k).hscratch0 = x.hscratch0 := by cases k <;> rfl
@[simp] theorem raiseCtr_hscratch1 (x : Slot) (k : Ctr) : (raiseCtr x k).hscratch1 = x.hscratch1 := by cases k <;> rfl
@[simp] theorem lowerCtr_hscratch1 (x : Slot) (k : Ctr) : (lowerCtr x k).hscratch1 = x.hscratch1 := by cases k <;> rfl
@[simp] theorem raiseCtr_saveptr (x : Slot) (k : Ctr) : (raiseCtr x k).saveptr = x.saveptr := by cases k <;> rfl
@[simp] theorem lowerCtr_saveptr (x : Slot) (k : Ctr) : (lowerCtr x k).saveptr = x.saveptr := by cases k <;> rfl
@[simp] theorem raiseCtr_sbuf (x : Slot) (k : Ctr) : (raiseCtr x k).sbuf = x.sbuf := by cases k <;> rfl
@[simp] theorem lowerCtr_sbuf (x : Slot) (k : Ctr) : (lowerCtr x k).sbuf = x.sbuf := by cases k <;> rfl
@[simp] theorem raiseCtr_arrivals (x : Slot) (k : Ctr) : (raiseCtr x k).arrivals = x.arrivals := by cases k <;> rfl
@[simp] theorem lowerCtr_arrivals (x : Slot) (k : Ctr) : (lowerCtr x k).arrivals = x.arrivals := by cases k <;> rfl
@[simp] theorem raiseCtr_late (x : Slot) (k : Ctr) : (raiseCtr x k).late = x.late := by cases k <;> rfl
@[simp] theorem lowerCtr_late (x : Slot) (k : Ctr) : (lowerCtr x k).late = x.late := by cases k <;> rfl
@[simp] theorem raiseCtr_flagWrites (x : Slot) (k : Ctr) : (raiseCtr x k).flagWrites = x.flagWrites := by cases k <;> rfl
@[simp] theorem lowerCtr_flagWrites (x : Slot) (k : Ctr) : (lowerCtr x k).flagWrites = x.flagWrites := by cases k <;> rfl
@[simp] theorem raiseCtr_waiting (x : Slot) (k : Ctr) : (raiseCtr x k).waiting = x.waiting := by cases k <;> rfl
@[simp] theorem lowerCtr_waiting (x : Slot) (k : Ctr) : (lowerCtr x k).waiting = x.waiting := by cases k <;> rfl
@[simp] theorem raiseCtr_since (x : Slot) (k : Ctr) : (raiseCtr x k).since = x.since := by cases k <;> rfl
@[simp] theorem lowerCtr_since (x : Slot) (k : Ctr) : (lowerCtr x k).since = x.since := by cases k <;> rfl
@[simp] theorem raiseCtr_ilen (x : Slot) (k : Ctr) : (raiseCtr x k).ilen = x.ilen := by cases k <;> rfl
@[simp] theorem lowerCtr_ilen (x : Slot) (k : Ctr) : (lowerCtr x k).ilen = x.ilen := by cases k <;> rfl
@[simp] theorem raiseCtr_qCmd (x : Slot) (k : Ctr) : (raiseCtr x k).qCmd = x.qCmd := by cases k <;> rfl
@[simp] theorem lowerCtr_qCmd (x : Slot) (k : Ctr) : (lowerCtr x k).qCmd = x.qCmd := by cases k <;> rfl
@[simp] theorem raiseCtr_qStat (x : Slot) (k : Ctr) : (raiseCtr x k).qStat = x.qStat := by cases k <;> rfl
@[simp] theorem lowerCtr_qStat (x : Slot) (k : Ctr) : (lowerCtr x k).qStat = x.qStat := by cases k <;> rfl
@[simp] theorem raiseCtr_qSfuReq (x : Slot) (k : Ctr) : (raiseCtr x k).qSfuReq = x.qSfuReq := by cases k <;> rfl
@[simp] theorem lowerCtr_qSfuReq (x : Slot) (k : Ctr) : (lowerCtr x k).qSfuReq = x.qSfuReq := by cases k <;> rfl
@[simp] theorem raiseCtr_qSfuRes (x : Slot) (k : Ctr) : (raiseCtr x k).qSfuRes = x.qSfuRes := by cases k <;> rfl
@[simp] theorem lowerCtr_qSfuRes (x : Slot) (k : Ctr) : (lowerCtr x k).qSfuRes = x.qSfuRes := by cases k <;> rfl
@[simp] theorem raiseCtr_invals (x : Slot) (k : Ctr) : (raiseCtr x k).invals = x.invals := by cases k <;> rfl
@[simp] theorem lowerCtr_invals (x : Slot) (k : Ctr) : (lowerCtr x k).invals = x.invals := by cases k <;> rfl
@[simp] theorem raiseCtr_saved (x : Slot) (k : Ctr) : (raiseCtr x k).saved = x.saved := by cases k <;> rfl
@[simp] theorem lowerCtr_saved (x : Slot) (k : Ctr) : (lowerCtr x k).saved = x.saved := by cases k <;> rfl
@[simp] theorem raiseCtr_dbg (x : Slot) (k : Ctr) : (raiseCtr x k).dbg = x.dbg := by cases k <;> rfl
@[simp] theorem lowerCtr_dbg (x : Slot) (k : Ctr) : (lowerCtr x k).dbg = x.dbg := by cases k <;> rfl

/-! Issuing (R90). -/

@[simp] theorem advance_ctxs (s : State) : (advance s).ctxs = s.ctxs := rfl
@[simp] theorem advance_cores (s : State) : (advance s).cores = s.cores := rfl
@[simp] theorem advance_clusters (s : State) : (advance s).clusters = s.clusters := rfl
@[simp] theorem advance_dies (s : State) : (advance s).dies = s.dies := rfl
@[simp] theorem advance_prods (s : State) : (advance s).prods = s.prods := rfl
@[simp] theorem advance_sfuLast (s : State) : (advance s).sfuLast = s.sfuLast := rfl
@[simp] theorem advance_mem (s : State) : (advance s).mem = s.mem := rfl
@[simp] theorem advance_full (s : State) : (advance s).full = s.full := rfl
@[simp] theorem advance_poisoned (s : State) : (advance s).poisoned = s.poisoned := rfl
@[simp] theorem advance_feReqs (s : State) : (advance s).feReqs = s.feReqs := rfl
@[simp] theorem advance_curtains (s : State) : (advance s).curtains = s.curtains := rfl
@[simp] theorem advance_curtainReqs (s : State) : (advance s).curtainReqs = s.curtainReqs := rfl
@[simp] theorem advance_notices (s : State) : (advance s).notices = s.notices := rfl
@[simp] theorem advance_door (s : State) : (advance s).door = s.door := rfl
@[simp] theorem advance_dimmer (s : State) : (advance s).dimmer = s.dimmer := rfl
@[simp] theorem advance_errors (s : State) : (advance s).errors = s.errors := rfl
@[simp] theorem advance_mgmt (s : State) : (advance s).mgmt = s.mgmt := rfl
@[simp] theorem advance_cur (s : State) : (advance s).cur = s.cur := rfl
@[simp] theorem advance_ir (s : State) : (advance s).ir = s.ir := rfl
@[simp] theorem advance_agenda (s : State) : (advance s).agenda = s.agenda := rfl
@[simp] theorem advance_now (s : State) : (advance s).now = s.now := rfl
@[simp] theorem advance_refillAt (s : State) : (advance s).refillAt = s.refillAt := rfl
@[simp] theorem jumpTo_ctxs (s : State) (pc : Word) : (jumpTo s pc).ctxs = s.ctxs := rfl
@[simp] theorem jumpTo_cores (s : State) (pc : Word) : (jumpTo s pc).cores = s.cores := rfl
@[simp] theorem jumpTo_clusters (s : State) (pc : Word) : (jumpTo s pc).clusters = s.clusters := rfl
@[simp] theorem jumpTo_dies (s : State) (pc : Word) : (jumpTo s pc).dies = s.dies := rfl
@[simp] theorem jumpTo_prods (s : State) (pc : Word) : (jumpTo s pc).prods = s.prods := rfl
@[simp] theorem jumpTo_sfuLast (s : State) (pc : Word) : (jumpTo s pc).sfuLast = s.sfuLast := rfl
@[simp] theorem jumpTo_mem (s : State) (pc : Word) : (jumpTo s pc).mem = s.mem := rfl
@[simp] theorem jumpTo_full (s : State) (pc : Word) : (jumpTo s pc).full = s.full := rfl
@[simp] theorem jumpTo_poisoned (s : State) (pc : Word) : (jumpTo s pc).poisoned = s.poisoned := rfl
@[simp] theorem jumpTo_feReqs (s : State) (pc : Word) : (jumpTo s pc).feReqs = s.feReqs := rfl
@[simp] theorem jumpTo_curtains (s : State) (pc : Word) : (jumpTo s pc).curtains = s.curtains := rfl
@[simp] theorem jumpTo_curtainReqs (s : State) (pc : Word) : (jumpTo s pc).curtainReqs = s.curtainReqs := rfl
@[simp] theorem jumpTo_notices (s : State) (pc : Word) : (jumpTo s pc).notices = s.notices := rfl
@[simp] theorem jumpTo_door (s : State) (pc : Word) : (jumpTo s pc).door = s.door := rfl
@[simp] theorem jumpTo_dimmer (s : State) (pc : Word) : (jumpTo s pc).dimmer = s.dimmer := rfl
@[simp] theorem jumpTo_errors (s : State) (pc : Word) : (jumpTo s pc).errors = s.errors := rfl
@[simp] theorem jumpTo_mgmt (s : State) (pc : Word) : (jumpTo s pc).mgmt = s.mgmt := rfl
@[simp] theorem jumpTo_cur (s : State) (pc : Word) : (jumpTo s pc).cur = s.cur := rfl
@[simp] theorem jumpTo_ir (s : State) (pc : Word) : (jumpTo s pc).ir = s.ir := rfl
@[simp] theorem jumpTo_agenda (s : State) (pc : Word) : (jumpTo s pc).agenda = s.agenda := rfl
@[simp] theorem jumpTo_now (s : State) (pc : Word) : (jumpTo s pc).now = s.now := rfl
@[simp] theorem jumpTo_refillAt (s : State) (pc : Word) : (jumpTo s pc).refillAt = s.refillAt := rfl
@[simp] theorem park_ctxs (s : State) (w : ParkWhy) : (park s w).ctxs = s.ctxs := rfl
@[simp] theorem park_cores (s : State) (w : ParkWhy) : (park s w).cores = s.cores := rfl
@[simp] theorem park_clusters (s : State) (w : ParkWhy) : (park s w).clusters = s.clusters := rfl
@[simp] theorem park_dies (s : State) (w : ParkWhy) : (park s w).dies = s.dies := rfl
@[simp] theorem park_prods (s : State) (w : ParkWhy) : (park s w).prods = s.prods := rfl
@[simp] theorem park_sfuLast (s : State) (w : ParkWhy) : (park s w).sfuLast = s.sfuLast := rfl
@[simp] theorem park_mem (s : State) (w : ParkWhy) : (park s w).mem = s.mem := rfl
@[simp] theorem park_full (s : State) (w : ParkWhy) : (park s w).full = s.full := rfl
@[simp] theorem park_poisoned (s : State) (w : ParkWhy) : (park s w).poisoned = s.poisoned := rfl
@[simp] theorem park_feReqs (s : State) (w : ParkWhy) : (park s w).feReqs = s.feReqs := rfl
@[simp] theorem park_curtains (s : State) (w : ParkWhy) : (park s w).curtains = s.curtains := rfl
@[simp] theorem park_curtainReqs (s : State) (w : ParkWhy) : (park s w).curtainReqs = s.curtainReqs := rfl
@[simp] theorem park_notices (s : State) (w : ParkWhy) : (park s w).notices = s.notices := rfl
@[simp] theorem park_door (s : State) (w : ParkWhy) : (park s w).door = s.door := rfl
@[simp] theorem park_dimmer (s : State) (w : ParkWhy) : (park s w).dimmer = s.dimmer := rfl
@[simp] theorem park_errors (s : State) (w : ParkWhy) : (park s w).errors = s.errors := rfl
@[simp] theorem park_mgmt (s : State) (w : ParkWhy) : (park s w).mgmt = s.mgmt := rfl
@[simp] theorem park_cur (s : State) (w : ParkWhy) : (park s w).cur = s.cur := rfl
@[simp] theorem park_ir (s : State) (w : ParkWhy) : (park s w).ir = s.ir := rfl
@[simp] theorem park_agenda (s : State) (w : ParkWhy) : (park s w).agenda = s.agenda := rfl
@[simp] theorem park_now (s : State) (w : ParkWhy) : (park s w).now = s.now := rfl
@[simp] theorem park_refillAt (s : State) (w : ParkWhy) : (park s w).refillAt = s.refillAt := rfl

end Sys2Proof.Machine
end

