-- ==== Sys2Proof/Laws/Memory.lean ====
section
/-! SUPPORT. Physical memory: what a read gives after a write, and that every operation that writes it keeps its canonical
form (13 R331, R332; the form is Memory.wf). -/

namespace Sys2Proof.Machine

/-! One byte. -/

/-- A table canonical above a bound is canonical above every lower one. -/
theorem memWfFrom_le {m : List Host.Cell} {lo k : Nat} (h : memWfFrom k m = true) (hk : lo ≤ k) : memWfFrom lo m = true := by
  cases m with
  | nil => rfl
  | cons p t =>
    obtain ⟨j, v⟩ := p
    simp only [memWfFrom, Bool.and_eq_true, decide_eq_true_eq] at h ⊢
    exact ⟨⟨Nat.le_trans hk h.1.1, h.1.2⟩, h.2⟩

/-- Writing a byte keeps the form. -/
theorem memWfFrom_memPut {m : List Host.Cell} {lo a : Nat} (b : Byte) (h : memWfFrom lo m = true) (ha : lo ≤ a) :
    memWfFrom lo (memPut m a b) = true := by
  induction m generalizing lo with
  | nil =>
    simp only [memPut]
    split
    · rfl
    · rename_i hb
      simp only [memWfFrom, Bool.and_eq_true, decide_eq_true_eq]
      exact ⟨⟨ha, by simpa using hb⟩, trivial⟩
  | cons p t ih =>
    obtain ⟨k, v⟩ := p
    simp only [memWfFrom, Bool.and_eq_true, decide_eq_true_eq] at h
    obtain ⟨⟨hk, hv⟩, ht⟩ := h
    simp only [memPut]
    split
    · rename_i hlt
      split
      · simp [memWfFrom, hk, ht]; simpa using hv
      · rename_i hb
        simp only [memWfFrom, Bool.and_eq_true, decide_eq_true_eq]
        exact ⟨⟨ha, by simpa using hb⟩, ⟨hlt, hv⟩, ht⟩
    · split
      · subst_vars
        split
        · exact memWfFrom_le ht (by omega)
        · rename_i hb
          simp only [memWfFrom, Bool.and_eq_true, decide_eq_true_eq]
          exact ⟨⟨ha, by simpa using hb⟩, ht⟩
      · simp only [memWfFrom, Bool.and_eq_true, decide_eq_true_eq]
        exact ⟨⟨hk, hv⟩, ih ht (by omega)⟩

/-- A byte below the bound of a canonical table reads as unlisted. -/
theorem memByte_below {m : List Host.Cell} {lo a : Nat} (h : memWfFrom lo m = true) (ha : a < lo) : memByte m a = 0 := by
  cases m with
  | nil => rfl
  | cons p t =>
    obtain ⟨k, v⟩ := p
    simp only [memWfFrom, Bool.and_eq_true, decide_eq_true_eq] at h
    simp [memByte, show a < k by omega]

/-- A read after a write of one byte: the byte written, and every other byte as before. -/
theorem memByte_memPut {m : List Host.Cell} {lo : Nat} (h : memWfFrom lo m = true) (a c : Nat) (b : Byte) :
    memByte (memPut m a b) c = if c = a then b else memByte m c := by
  induction m generalizing lo with
  | nil =>
    by_cases hb : b = 0
    · subst hb; simp [memPut, memByte]
    · simp only [memPut, hb, if_false, memByte]
      by_cases hc : c < a
      · simp [hc, show c ≠ a by omega]
      · simp [hc]
  | cons p t ih =>
    obtain ⟨k, v⟩ := p
    simp only [memWfFrom, Bool.and_eq_true, decide_eq_true_eq] at h
    obtain ⟨⟨hk, hv⟩, ht⟩ := h
    simp only [memPut]
    split
    · rename_i hlt
      split
      · rename_i hb
        by_cases hc : c = a
        · subst hc; simp [memByte, hlt, hb]
        · simp [hc]
      · by_cases hc : c = a
        · subst hc; simp [memByte]
        · by_cases hca : c < a
          · simp [memByte, hc, hca, show c < k by omega]
          · simp [memByte, hc, hca]
    · split
      · rename_i hlt hak
        subst hak
        split
        · rename_i hb
          by_cases hc : c = a
          · subst hc; simp only [if_true, hb]; exact memByte_below ht (by omega)
          · by_cases hca : c < a
            · rw [if_neg hc, memByte, if_pos hca]; exact memByte_below ht (by omega)
            · rw [if_neg hc, memByte, if_neg hca, if_neg hc]
        · by_cases hc : c = a
          · subst hc; simp [memByte]
          · rw [if_neg hc, memByte, memByte]; simp only [if_neg hc]
      · rename_i h1 h2
        by_cases hck : c < k
        · simp [memByte, hck, show c ≠ a by omega]
        · by_cases hc : c = k
          · subst hc; simp [memByte, show c ≠ a by omega]
          · simp only [memByte, hck, hc, if_false]
            exact ih ht

/-! Several bytes. -/

/-- Writing a byte keeps memory canonical. -/
theorem Memory.wf_memPut {m : List Host.Cell} (h : Memory.wf m = true) (a : Nat) (b : Byte) : Memory.wf (memPut m a b) = true :=
  memWfFrom_memPut b h (Nat.zero_le a)

/-- Writing bytes keeps memory canonical. -/
theorem Memory.wf_memPutAll {m : List Host.Cell} (h : Memory.wf m = true) (a : Nat) (bs : List Byte) :
    Memory.wf (memPutAll m a bs) = true := by
  induction bs generalizing m a with
  | nil => exact h
  | cons b t ih => exact ih (Memory.wf_memPut h a b) (a + 1)

/-- Writing the bytes a mask names keeps memory canonical. -/
theorem Memory.wf_homeMerge {m : List Host.Cell} (h : Memory.wf m = true) (a : Nat) (k : BitVec 32) (i : Nat) (bs : List Byte) :
    Memory.wf (homeMerge m a k i bs) = true := by
  induction bs generalizing m i with
  | nil => exact h
  | cons b t ih =>
    simp only [homeMerge]
    split
    · exact ih (Memory.wf_memPut h _ b) _
    · exact ih h _

/-- A read after a write of several bytes: the byte written there, and every byte outside as before. -/
theorem memByte_memPutAll {m : List Host.Cell} (h : Memory.wf m = true) (a c : Nat) (bs : List Byte) :
    memByte (memPutAll m a bs) c = if a ≤ c ∧ c < a + bs.length then bs.getD (c - a) 0 else memByte m c := by
  induction bs generalizing m a with
  | nil => rw [if_neg (by simp only [List.length_nil]; omega)]; rfl
  | cons b t ih =>
    simp only [memPutAll]
    rw [ih (Memory.wf_memPut h a b), memByte_memPut h]
    by_cases h1 : c = a
    · subst h1
      rw [if_neg (by omega), if_pos rfl, if_pos (by simp)]
      simp
    · by_cases h2 : a ≤ c ∧ c < a + (b :: t).length
      · have h3 : a + 1 ≤ c ∧ c < a + 1 + t.length := by simp at h2; omega
        rw [if_pos h3, if_pos h2]
        obtain ⟨d, rfl⟩ : ∃ d, c = a + 1 + d := ⟨c - (a + 1), by omega⟩
        simp [show a + 1 + d - a = d + 1 by omega]
      · have h3 : ¬(a + 1 ≤ c ∧ c < a + 1 + t.length) := by simp at h2; omega
        rw [if_neg h3, if_neg h1, if_neg h2]

/-- The bytes read where bytes were written are those bytes. -/
theorem memBytes_memPutAll_self {m : List Host.Cell} (h : Memory.wf m = true) (a : Nat) (bs : List Byte) :
    memBytes (memPutAll m a bs) a bs.length = bs := by
  have key : ∀ (n k : Nat) (l : List Byte), k + n = bs.length → l = bs.drop k →
      memBytes (memPutAll m a bs) (a + k) n = l := by
    intro n
    induction n with
    | zero =>
      rintro k l hk rfl
      simp [memBytes, show k = bs.length by omega]
    | succ n ih =>
      rintro k l hk rfl
      have hlt : k < bs.length := by omega
      rw [List.drop_eq_getElem_cons hlt, memBytes, memByte_memPutAll h, if_pos (by omega), Nat.add_assoc, ih (k + 1) _ (by omega) rfl]
      simp [hlt]
  simpa using key bs.length 0 bs (by simp) (by simp)

/-- Two canonical memories that read alike are equal. -/
theorem memWfFrom_ext {m n : List Host.Cell} {lo hi : Nat} (hm : memWfFrom lo m = true) (hn : memWfFrom hi n = true)
    (h : ∀ a, memByte m a = memByte n a) : m = n := by
  induction m generalizing n lo hi with
  | nil =>
    cases n with
    | nil => rfl
    | cons q u =>
      obtain ⟨j, w⟩ := q
      simp only [memWfFrom, Bool.and_eq_true, decide_eq_true_eq] at hn
      have := h j
      simp [memByte] at this
      simp [← this] at hn
  | cons p t ih =>
    obtain ⟨k, v⟩ := p
    simp only [memWfFrom, Bool.and_eq_true, decide_eq_true_eq] at hm
    obtain ⟨⟨_, hv⟩, ht⟩ := hm
    cases n with
    | nil =>
      have := h k
      simp [memByte] at this
      simp [this] at hv
    | cons q u =>
      obtain ⟨j, w⟩ := q
      simp only [memWfFrom, Bool.and_eq_true, decide_eq_true_eq] at hn
      obtain ⟨⟨_, hw⟩, hu⟩ := hn
      have hkj : k = j := by
        rcases Nat.lt_trichotomy k j with hlt | he | hlt
        · have := h k
          simp [memByte, hlt] at this
          simp [this] at hv
        · exact he
        · have := h j
          simp [memByte, hlt] at this
          simp [← this] at hw
      subst hkj
      have hvw : v = w := by simpa [memByte] using h k
      subst hvw
      rw [ih ht hu fun a => ?_]
      rcases Nat.lt_trichotomy a k with hlt | he | hlt
      · rw [memByte_below ht (by omega), memByte_below hu (by omega)]
      · rw [memByte_below ht (by omega), memByte_below hu (by omega)]
      · have := h a
        simpa [memByte, show ¬a < k by omega, show a ≠ k by omega] using this

/-! Bytes of a number. -/

@[simp] theorem leBytes_length (n x : Nat) : (leBytes n x).length = n := by
  induction n generalizing x with
  | zero => rfl
  | succ n ih => simp [leBytes, ih]

/-- The little-endian number of a number's low bytes is its remainder. -/
theorem leNat_leBytes (n x : Nat) : leNat (leBytes n x) = x % 256 ^ n := by
  induction n generalizing x with
  | zero => simp [leBytes, leNat, Nat.mod_one]
  | succ n ih =>
    rw [leBytes, leNat, ih, Nat.pow_succ, Nat.mul_comm (256 ^ n) 256, Nat.mod_mul]
    rfl

@[simp] theorem tab_length {α : Type} (n i : Nat) (f : Nat → α) : (tab n i f).length = n := by
  induction n generalizing i with
  | zero => rfl
  | succ n ih => simp [tab, ih]

/-- The entry `k` places on in a table. -/
theorem tab_get {α : Type} (n i : Nat) (f : Nat → α) (k : Nat) (h : k < n) : (tab n i f)[k]? = some (f (i + k)) := by
  induction n generalizing i k with
  | zero => omega
  | succ n ih => cases k with
    | zero => rfl
    | succ k => simp [tab, ih (i + 1) k (by omega), Nat.add_comm, Nat.add_left_comm]

@[simp] theorem memBytes_length (m : List Host.Cell) (a n : Nat) : (memBytes m a n).length = n := by
  induction n generalizing a with
  | zero => rfl
  | succ n ih => simp [memBytes, ih]

/-! The operations that write memory keep it canonical, and those of caches and scratch leave it alone. -/

@[simp] theorem mergeLine_mem (s : State) (c l : Nat) (w : Bool) : (mergeLine s c l w).mem = s.mem := rfl

theorem mergeLines_mem (l : Nat) (cs : List Nat) (s : State) : (cs.foldl (fun s c => mergeLine s c l true) s).mem = s.mem := by
  induction cs generalizing s with
  | nil => rfl
  | cons c t ih => exact (ih _).trans (mergeLine_mem s c l true)

@[simp] theorem recallLine_mem (s : State) (l k : Nat) : (recallLine s l k).mem = s.mem := mergeLines_mem l _ s
@[simp] theorem dropLine_mem (s : State) (l k : Nat) : (dropLine s l k).mem = s.mem := recallLine_mem s l k

@[simp] theorem dropCopy_mem (s : State) (c l : Nat) : (dropCopy s c l).mem = s.mem := by
  unfold dropCopy
  dsimp only
  split <;> rfl

@[simp] theorem copyLine_mem (s : State) (c l : Nat) : (copyLine s c l).mem = s.mem := by
  unfold copyLine
  dsimp only
  split <;> rfl

@[simp] theorem cleanOwn_mem (s : State) (c l : Nat) : (cleanOwn s c l).mem = s.mem := by
  unfold cleanOwn
  dsimp only
  split <;> rfl

/-- Filling the L1 writes no memory: no line of the L1 is dirty. -/
@[simp] theorem fillL1_mem (s : State) (c l : Nat) : (fillL1 s c l).mem = s.mem := by
  unfold fillL1
  dsimp only
  split
  · rfl
  · split
    · rfl
    · split <;> simp

/-- Memory after a write at home. -/
theorem homeWrite_mem (s : State) (k pa : Nat) (bs : List Byte) : (homeWrite s k pa bs).mem = memPutAll s.mem pa bs := by
  show memPutAll (dropLine s (lineOf pa) k).mem pa bs = _
  rw [dropLine_mem]

theorem MemOk.homeWrite {s : State} (h : MemOk s) (k pa : Nat) (bs : List Byte) : MemOk (homeWrite s k pa bs) := by
  rw [MemOk, homeWrite_mem]
  exact Memory.wf_memPutAll h pa bs

theorem MemOk.writeBackLine {s : State} (h : MemOk s) (c l : Nat) : MemOk (writeBackLine s c l) := by
  unfold Machine.writeBackLine
  split
  · rw [MemOk, cleanOwn_mem]; exact h
  · split
    · exact h
    · refine Memory.wf_homeMerge ?_ _ _ _ _
      rw [dropLine_mem, mergeLine_mem]
      exact h

theorem MemOk.writeBackLines {s : State} (h : MemOk s) (c : Nat) (ls : List Nat) : MemOk (writeBackLines s c ls) := by
  induction ls generalizing s with
  | nil => exact h
  | cons l t ih => exact ih (h.writeBackLine c l)

theorem MemOk.writeBackAll {s : State} (h : MemOk s) (c : Nat) : MemOk (writeBackAll s c) := h.writeBackLines c _

theorem MemOk.invalidateRemote {s : State} (h : MemOk s) (c : Nat) : MemOk (invalidateRemote s c) := h.writeBackAll c

/-- A line placed in the L2 writes memory by the eviction alone. -/
theorem MemOk.placeL2 {s : State} (h : MemOk s) (c l : Nat) (d : Bool) : MemOk (placeL2 s c l d) := by
  unfold Machine.placeL2
  dsimp only
  split
  · exact h
  · split
    · exact h
    · rw [MemOk, dropCopy_mem]; exact h.writeBackLine c _

theorem MemOk.copyLine {s : State} (h : MemOk s) (c l : Nat) : MemOk (copyLine s c l) := by rw [MemOk, copyLine_mem]; exact h

theorem MemOk.readLine {s : State} (h : MemOk s) (c l : Nat) (m : Bool) : MemOk (readLine s c l m) := by
  have hm (b : Bool) : MemOk (if b = true then Machine.mergeLine s c l false else s) := by split <;> exact h
  unfold Machine.readLine
  dsimp only
  split
  · exact h.placeL2 c l _
  · split
    · exact ((hm _).placeL2 c l _).copyLine c l
    · exact hm _

theorem MemOk.ownWrite {s : State} (h : MemOk s) (c pa : Nat) (bs : List Byte) : MemOk (ownWrite s c pa bs) := by
  unfold Machine.ownWrite
  dsimp only
  split
  · exact (h.homeWrite c pa bs).placeL2 c _ _
  · exact h.homeWrite c pa bs

theorem MemOk.farWrite {s : State} (h : MemOk s) (c pa : Nat) (bs : List Byte) : MemOk (farWrite s c pa bs) := h.homeWrite c pa bs

theorem MemOk.coreWrite {s : State} (h : MemOk s) (c pa : Nat) (bs : List Byte) : MemOk (coreWrite s c pa bs) := by
  have hf := (h.placeL2 c (lineOf pa) false).copyLine c (lineOf pa)
  unfold Machine.coreWrite
  split
  · exact h.ownWrite c pa bs
  · split
    · exact h.farWrite c pa bs
    · dsimp only
      split
      · exact hf
      · split
        · split
          · exact MemOk.writeBackLines (s := setCore _ _ _) hf _ _
          · exact hf
        · exact hf

theorem MemOk.scopedWrite {s : State} (h : MemOk s) (c pa : Nat) (bs : List Byte) : MemOk (scopedWrite s c pa bs) := by
  unfold Machine.scopedWrite
  split
  · exact (h.writeBackLine c _).farWrite c pa bs
  · exact h.ownWrite c pa bs

theorem MemOk.writeSpan {w : State → Nat → List Byte → State} (hw : ∀ s a b, MemOk s → MemOk (w s a b)) (n : Nat) {s : State}
    (h : MemOk s) (pa : Nat) (bs : List Byte) : MemOk (writeSpan w n s pa bs) := by
  induction n generalizing s pa bs with
  | zero => exact h
  | succ n ih =>
    simp only [Machine.writeSpan]
    split
    · exact h
    · exact ih (hw _ _ _ h) _ _

@[simp] theorem setScratch_mem (s : State) (c p : Nat) (x : Scratch) : (setScratch s c p x).mem = s.mem := rfl
@[simp] theorem scratchWrite_mem (s : State) (c p o : Nat) (bs : List Byte) : (scratchWrite s c p o bs).mem = s.mem := rfl

theorem MemOk.locWrite {s : State} (h : MemOk s) (c : Nat) (l : Loc) (bs : List Byte) : MemOk (locWrite s c l bs) := by
  unfold Machine.locWrite
  split
  · exact MemOk.writeSpan (w := fun s o b => scratchWrite s _ _ o b) (fun _ _ _ h => h) _ h _ _
  · exact MemOk.writeSpan (w := fun s a b => Machine.coreWrite s c a b) (fun _ _ _ h => h.coreWrite _ _ _) _ h _ _

@[simp] theorem translate_mem (s : State) (c va : Nat) : (translate s c va).2.mem = s.mem := by
  unfold translate
  dsimp only
  split
  · rfl
  · split
    · rfl
    · split <;> rfl

@[simp] theorem checkAddr_mem (s : State) (c p : Nat) (a b : Bool) (n : Need) (ea : Word) : (checkAddr s c p a b n ea).2.mem = s.mem := by
  unfold checkAddr
  split
  · rfl
  · split
    · dsimp only
      split <;> rfl
    · dsimp only
      split
      · rename_i h
        have := translate_mem s c (ea.toNat % 2 ^ 56)
        rw [h] at this
        split <;> exact this
      · rename_i h
        have := translate_mem s c (ea.toNat % 2 ^ 56)
        rw [h] at this
        exact this
      · rename_i h
        have := translate_mem s c (ea.toNat % 2 ^ 56)
        rw [h] at this
        exact this

/-- A record written over its place, and the count of records before it. -/
theorem MemOk.recordWrite {s : State} (h : MemOk s) (a b : Nat) (x y : List Byte) :
    MemOk (Machine.homeWrite (Machine.writeSpan (fun s a b => Machine.homeWrite s 1024 a b) 4 s a x) 1024 b y) :=
  (MemOk.writeSpan (w := fun s a b => Machine.homeWrite s 1024 a b) (fun _ _ _ h => h.homeWrite _ _ _) 4 h a x).homeWrite _ _ _

theorem MemOk.wakeIdle {s : State} (h : MemOk s) (c : Nat) : MemOk (wakeIdle s c) := h

theorem MemOk.faultRecord {s : State} (h : MemOk s) (c : Nat) (r : FaultRec) : MemOk (faultRecord s c r) := by
  unfold Machine.faultRecord
  dsimp only
  have ht := translate_mem s c ((coreAt s c).mbox.toNat % 2 ^ 56)
  generalize translate s c ((coreAt s c).mbox.toNat % 2 ^ 56) = w at ht ⊢
  obtain ⟨w, u⟩ := w
  have hu : MemOk u := by rw [MemOk, show u.mem = s.mem from ht]; exact h
  split
  · exact h
  · cases w with
    | page t =>
      dsimp only
      split
      · exact hu
      · split
        · exact hu
        · split
          · split
            · exact hu
            · exact MemOk.wakeIdle (hu.recordWrite _ _ _ _) c
          · exact hu.homeWrite _ _ _
    | fail p => exact hu
    | migrating t => exact hu

theorem MemOk.areaPut {s : State} (h : MemOk s) (c : Nat) (va x : Word) : MemOk (areaPut s c va x) := by
  unfold Machine.areaPut
  split
  · exact h.scopedWrite _ _ _
  · exact h

/-- Reset memory is canonical. -/
theorem reset_memOk : MemOk State.reset := rfl

end Sys2Proof.Machine
end

