-- ==== Sys2Proof/Laws/Ops.lean ====
section
/-! SUPPORT. What each shared operation does, once: reading operands, writing a result, a checked access, parking, a trap, and
the queueing of a vector instruction. A proof about an instruction cites these and unfolds none of them. -/

namespace Sys2Proof.Machine

/-! Registers. -/

/-- A plain register is bound to no port. -/
theorem plainReg_port {x : Slot} {r : GReg} (h : plainReg x r = true) : portCode x r = 0 := by
  simp [plainReg] at h
  exact h.1.1

/-- A result for a plain register is written to it. -/
theorem writeG_plain {s : State} {d : GReg} (h : plainReg (me s) d = true) (v : Word) : writeG s d v = setMe s (setG (me s) d v) := by
  have hp : portCode (slotAt s s.cur) d = 0 := plainReg_port h
  simp only [writeG, writeAt, hp]
  rfl

/-- An instruction with one result, available to the next, ends so. -/
theorem retire1_plain {s : State} {d : GReg} (h : plainReg (me s) d = true) (v : Word) : retire1 s d v = .next (wrote s d v) := by
  simp only [retire1, writeG_plain h, advance, wrote, issued, me_setMe, setMe_setMe, setG_pc, nextPc, irLen_setMe]

/-- Plain operands are read as they stand. -/
theorem readOperands_plain {s : State} {srcs data dsts : List GReg} (h : Plain s (srcs ++ data ++ dsts)) :
    readOperands s srcs data dsts = .ok ((srcs ++ data).map (readG (me s))) s := by
  have : (srcs ++ data ++ dsts).all (plainReg (me s)) = true := List.all_eq_true.mpr h
  simp only [readOperands, this, if_true]

/-- An instruction with plain operands goes on with their values, the state as it was. -/
theorem withOps_plain {s : State} {srcs data dsts : List GReg} (h : Plain s (srcs ++ data ++ dsts))
    (k : List Word → State → Result) : withOps s srcs data dsts k = k ((srcs ++ data).map (readG (me s))) s := by
  simp only [withOps, readOperands_plain h]

/-- An instruction whose operands stop it ends as they say. -/
theorem withOps_stop {s t : State} {srcs data dsts : List GReg} (h : readOperands s srcs data dsts = .stop t)
    (k : List Word → State → Result) : withOps s srcs data dsts k = .next t := by
  simp only [withOps, h]

/-- Two plain operands and a result. -/
theorem alu2_plain {s : State} {d a b : GReg} (h : Plain s [a, b, d]) (f : Word → Word → Word) :
    alu2 s d a b f = .next (wrote s d (f (readG (me s) a) (readG (me s) b))) := by
  have hd : plainReg (me s) d = true := h d (by simp)
  rw [alu2, withOps_plain h]
  exact retire1_plain hd _

/-- One plain operand and a result. -/
theorem alu1_plain {s : State} {d a : GReg} (h : Plain s [a, d]) (f : Word → Word) :
    alu1 s d a f = .next (wrote s d (f (readG (me s) a))) := by
  have hd : plainReg (me s) d = true := h d (by simp)
  rw [alu1, withOps_plain h]
  exact retire1_plain hd _

/-- A result from no operand. -/
theorem alu0_plain {s : State} {d : GReg} (h : Plain s [d]) (v : Word) : alu0 s d v = .next (wrote s d v) := by
  have hd : plainReg (me s) d = true := h d (by simp)
  rw [alu0, withOps_plain h]
  exact retire1_plain hd _

/-- A branch over plain operands. -/
theorem branch2_plain {s : State} {a b : GReg} (h : Plain s [a, b]) (disp : Int) (f : Word → Word → Bool) :
    branch2 s a b disp f = .next (jumped s (me s)
      (if f (readG (me s) a) (readG (me s) b) then (me s).pc + trunc64 (2 * disp) else nextPc s)) := by
  have h' : Plain s ([a, b] ++ [] ++ []) := by simpa using h
  rw [branch2, withOps_plain h']
  show (if f (readG (me s) a) (readG (me s) b) = true then _ else _) = _
  split <;> rfl

/-- Issuing is the acting slot ready at the next instruction. -/
theorem advance_eq (s : State) : advance s = issued s (me s) := rfl

/-! Accesses (R142). -/

/-- An access that passes its checks goes on. -/
theorem withAccess_ok {back s t : State} {u : Nat} {n : Need} {ea : Word} {l : Loc} {leaf : Word}
    (h : checkAccess s u n ea = (.ok l leaf, t)) (ha : acqWaits t t.cur = false) (k : Loc → Word → State → Result) :
    withAccess back s u n ea k = k l leaf t := by
  simp only [withAccess, h, ha]
  rfl

/-- An access that fails a check traps on its instruction with its address. -/
theorem withAccess_trap {back s t : State} {u : Nat} {n : Need} {ea : Word} {c : Nat}
    (h : checkAccess s u n ea = (.trap c, t)) (k : Loc → Word → State → Result) :
    withAccess back s u n ea k = .next (accessTrap back c ea) := by
  simp only [withAccess, h]

/-- An access to a page that migrates parks (R346). -/
theorem withAccess_migrating {back s t : State} {u : Nat} {n : Need} {ea : Word}
    (h : checkAccess s u n ea = (.migrating, t)) (k : Loc → Word → State → Result) :
    withAccess back s u n ea k = .next (park back (.migrating ea (cycleOf back (myCore back) + 256))) := by
  simp only [withAccess, h]

/-! Traps (R424 to R429). -/

/-- A trap of a slot with no context, outside the handler state: its registers written, the handler entered, the pc at TRAPVEC. -/
theorem takeTrap_plain {s : State} (hc : ctxOf s s.cur = none) (hh : (me s).handler = false) (c : Nat) (addr : Word) :
    takeTrap s c addr = setMe s { me s with
      st := handlerSt (me s).st
      freezing := none
      handler := true
      retiring := false
      trappc := evenAddr (me s).pc
      trapvc := 0
      trapcause := causeWord c false false 0
      trapaddr := addr
      pc := (me s).trapvec
      since := none
      waiting := .none } := by
  have h2 : (slotAt s s.cur).handler = false := hh
  simp only [takeTrap, takeTrapAt, hc, enterHandler, h2, trapVc]
  rfl

/-- A trap in the handler state stops the slot and leaves the first trap's registers (R429). -/
theorem takeTrap_double {s : State} (hh : (me s).handler = true) (c : Nat) (addr : Word) :
    takeTrap s c addr = faultRecord (setMe s { me s with st := .stopped .doubleTrap none, freezing := none, since := none }) (myCore s)
      ⟨1, 0, (me s).prodid, addr, causeWord c false false 0, evenAddr (me s).pc, 0⟩ := by
  have h2 : (slotAt s s.cur).handler = true := hh
  unfold takeTrap takeTrapAt
  split
  · simp only [enterHandler]
    rw [if_pos h2]
    rfl
  · rw [if_pos h2]
    simp only [enterHandler]
    rw [if_pos h2]
    rfl

/-! Vector instructions (R238). -/

/-- A vector instruction whose operands and checks are in order enters its context's queue. -/
theorem issueVec_ok {s t : State} {op : VOp} {f : F3Fields} {g : GFields} {check : State → Nat → QEntry → Checked} {k : Nat}
    {e : QEntry} (hh : (me s).handler = false) (hk : myCtx s = some k) (ht : trimming (ctxAt s k) = false)
    (hp : Plain s (g.a.toList ++ g.b.toList ++ g.c.toList ++ (if readsSeed op (ctxAt s k).vtype then [23#5] else []) ++
      (if owesG op then [f.d] else [])))
    (hc : check s k (makeEntry s (ctxAt s k) op f g ((g.a.toList ++ g.b.toList ++ g.c.toList ++
      (if readsSeed op (ctxAt s k).vtype then [23#5] else [])).map (readG (me s)))) = .ok e t)
    (hq : (ctxAt s k).queue.length < 16) (hn : ((entryCtrs e).any fun n => decide (63 ≤ ctrOf (me s) n)) = false) :
    issueVec s op f g check = .next (advance (enqueue t k e)) := by
  simp only [issueVec, hh, hk, ht]
  rw [if_neg (by simp), if_neg (by simp), withOps_plain (by simpa using hp)]
  simp only [List.append_nil, hc]
  rw [if_neg (by omega), if_neg (by simp [hn])]

end Sys2Proof.Machine
end

