-- ==== Sys2Proof/Tests/Slice0.lean ====
section
/-! SUPPORT. Tests: which terms are instructions, words of the spec's encodings, what the statements' hypotheses are met by, and
results of single instructions worked out from the spec by hand. -/

namespace Sys2Proof.Tests

open Sys2Proof Sys2Proof.Machine

set_option Elab.async false

/-! Well-formedness. -/

/-- A mask field with a register named but MEN = 0 (02 R42). -/
def badMask : VMask := ⟨false, false, 1⟩

/-- One ill-formed term for each check: an immediate one too wide for its field and three or four PX words (02 R36, R39, R55), a
mask register without MEN (02 R42), an instruction that needs a mask without one, an exponent of 6, an odd pair, and an agent
that does not exist, a resource whose cluster is not its own, and a packet of another kind or too long (01 R16, R25; 17 R442;
18 R456). -/
theorem test_wf_refuses :
    ([.addi 1 2 (2 ^ 40), .addi 1 2 (-(2 ^ 40) - 1), .addi 8 2 (2 ^ 31), .xori 31 31 (-(2 ^ 31) - 1), .li 1 (2 ^ 43), .lih 8 (2 ^ 34),
      .ldd 1 2 (2 ^ 37), .std 9 2 (2 ^ 28), .beq 1 2 (2 ^ 40), .bgeu 1 8 (-(2 ^ 31) - 1), .j (2 ^ 46), .jal (-(2 ^ 46) - 1),
      .vadd 1 2 3 badMask, .vsel 1 2 3 VMask.all, .vcompress 1 2 VMask.all, .vexpand 1 2 VMask.all, .vsel 1 2 3 badMask,
      .vsext 1 2 6 VMask.all, .vzext 1 2 7 VMask.all, .vld 1 2 3 ⟨false, true, 0⟩, .mma 1 2 badMask, .vfma 1 2 3 4 badMask,
      .amocas 3 4 .core .d, .dispatch 1024 0, .dispatch 0 16, .stripStart 1024, .stripEnd 0 16, .entryComplete 0 16384,
      .verdictReadReturn 1024 0, .pinGrant 1024, .mergeClose 256, .sfuBatch 128, .productionEnd 4096, .retselMark 0 64,
      .stackLevelChange 8 0 50, .stackLevelChange 0 4 50, .pllRelock 256 1, .slackWindow 1001 0, .shedDeadline 4 0,
      .dimcurveWrite 16 0, .mgmtRegisterWrite 65536 0, .retransmit 64 0, .connectionLost 64 0, .invalidFrame 17,
      .rowBufferGrant 1024, .linkRetry ⟨0, 5, 0⟩, .linkRetry ⟨2, 5, 31⟩, .sealMismatch (.home 0) ⟨0, 300, 0⟩, .errorWindowExpiry ⟨5, 0, 0⟩,
      .stageDoorKindDiscarded 7, .stageDoorRead ⟨0, false, 0, 0, 0, 0, 0, 0, 0, 0, 0, []⟩,
      .stageDoorWrite ⟨0, false, 0, 0, 0, 0, 0, 0, 4097, 0, 0, []⟩] : List Instr).all (fun i => !i.wf) = true := by decide +kernel

/-- The widest values of those fields are well-formed: 5 + 36 bits, 5 + 27 beside a PR word, 8, 11 and 2 bits likewise. -/
theorem test_wf_admits :
    ([.addi 1 2 (2 ^ 40 - 1), .addi 1 2 (-(2 ^ 40)), .addi 8 2 (2 ^ 31 - 1), .xori 31 31 (-(2 ^ 31)), .li 1 (2 ^ 43 - 1),
      .lih 8 (2 ^ 34 - 1), .ldd 1 2 (2 ^ 37 - 1), .std 9 2 (-(2 ^ 28)), .beq 1 2 (2 ^ 40 - 1), .bgeu 1 8 (-(2 ^ 31)),
      .j (2 ^ 46 - 1), .jal (-(2 ^ 46)), .vadd 31 31 31 ⟨true, true, 7⟩, .vsel 1 2 3 ⟨true, false, 0⟩, .vsext 1 2 5 VMask.all,
      .amocas 30 4 .row .d, .dispatch 1023 15, .stripEnd 0 15, .entryComplete 1023 16383, .mergeClose 255, .sfuBatch 127,
      .productionEnd 4095, .retselMark 0 63, .stackLevelChange 7 3 50, .slackWindow 1000 0, .shedDeadline 3 0, .dimcurveWrite 15 0,
      .retransmit 63 0, .invalidFrame 16, .linkRetry ⟨3, 5, 32⟩, .sealMismatch (.home 0) ⟨0, 300, 1⟩, .errorWindowExpiry ⟨4, 20480, 0⟩,
      .stageDoorKindDiscarded 8, .stageDoorWrite ⟨0, false, 0, 0, 0, 0, 0, 0, 4096, 0, 0, []⟩] : List Instr).all Instr.wf = true := by decide +kernel

/-! Decoding, every encoded row of the table. -/

/-- Each list of words is the whole of the instruction beside it. -/
noncomputable def decodes (l : List (List Half × Instr)) : Bool := l.all fun (w, i) => decide (decode w = .ok i w.length)

/-- Words put together field by field as chapter 02's tables lay them out: F3 and F3S of page 0, FI with one PX word, a prefix PR
for registers of 8 and above, and pages 1 to 6 behind their PP words (02 R33 to R38). -/
theorem test_decode_fields :
    decodes [([(0 : BitVec 5) ++ (3 : BitVec 3) ++ (4 : BitVec 3) ++ (5 : BitVec 3) ++ (0 : BitVec 2)], .add 3 4 5)] = true ∧
    decodes [([(0x1F : BitVec 5) ++ (0 : BitVec 2) ++ (9 : BitVec 9),
      (8 : BitVec 5) ++ (3 : BitVec 3) ++ (3 : BitVec 3) ++ (12 : BitVec 5)], .addi 3 3 300)] = true := by decide +kernel

/-- Page 0: words written out from R34 to R38 and each row. -/
theorem test_decode_page0a : decodes
    [([0x0108], .add 1 0 2), ([0xFAB0, 0x04A1], .sub 12 13 16),
     ([0xFAC8, 0x0546], .and 13 18 9), ([0x0427], .or 4 1 1),
     ([0xFAA8, 0x0FA4], .xor 15 13 9), ([0xFB50, 0x0841], .andn 16 18 16),
     ([0x0F42], .sll 7 2 0), ([0xFB30, 0x0AA3], .srl 18 13 16),
     ([0xFB48, 0x1344], .sra 19 18 9), ([0x137D], .rol 3 3 7),
     ([0xFB28, 0x15A6], .slt 21 13 9), ([0xFB50, 0x1643], .sltu 22 18 16),
     ([0x1E98], .min 6 4 6), ([0xFAB0, 0x1BA1], .max 11 13 16)] = true := by decide +kernel

/-- Page 0: words written out from R34 to R38 and each row. -/
theorem test_decode_page0b : decodes
    [([0xFAC8, 0x1C46], .minu 12 18 9), ([0x1AB7], .maxu 2 5 5),
     ([0xFAA8, 0x26A4], .mul 14 13 9), ([0xFAD0, 0x2741], .mulh 15 18 16),
     ([0x25D2], .mulhu 5 6 4), ([0xFB30, 0x21A3], .cmov 17 13 16),
     ([0xFB48, 0x2A44], .div 18 18 9), ([0x29ED], .divu 1 7 3),
     ([0xFB28, 0x2CA6], .rem 20 13 9), ([0xFB50, 0x2D43], .remu 21 18 16),
     ([0x3400], .clz 4 0), ([0xFB20, 0x37A1], .ctz 23 13),
     ([0xFAC0, 0x3342], .popc 11 18), ([0x3723], .bswap 7 1)] = true := by decide +kernel

/-- Page 0: words written out from R34 to R38 and each row. -/
theorem test_decode_page0c : decodes
    [([0xFAA0, 0x3DA0], .sextb 13 13), ([0xFAC0, 0x3E41], .sexth 14 18),
     ([0x3B42], .sextw 3 2), ([0xFB20, 0x38A3], .jalr 16 13),
     ([0xFB40, 0x4140], .addi 17 18 0), ([0x4E7E], .andi 6 3 (-2)),
     ([0xFB20, 0x53A2], .ori 19 13 2), ([0xFB40, 0xF8FB, 0x5C5F], .xori 20 18 8063),
     ([0x628D], .slli 2 4 13), ([0xFB20, 0x6EA8], .srli 22 13 8),
     ([0xFB40, 0x7743], .srai 23 18 3), ([0x7DB7], .lea 5 5 5 3),
     ([0xFA80, 0xF9FA, 0x8425], .li 12 (-1499)), ([0xFA80, 0x8DD6], .lih 13 (-42))] = true := by decide +kernel

/-- Page 0: words written out from R34 to R38 and each row. -/
theorem test_decode_page0d : decodes
    [([0x91C0], .ldb 1 6 0), ([0xFAA0, 0x97A6], .ldbu 15 13 (-2)),
     ([0xFB40, 0x9048], .ldh 16 18 0), ([0xF8F2, 0x94ED], .ldhu 4 7 969),
     ([0xFB20, 0x92B0], .ldw 18 13 0), ([0xFB40, 0x9356], .ldwu 19 18 (-2)),
     ([0x9718], .ldd 7 0 0), ([0xFB20, 0x9DA2], .stb 21 13 (-2)),
     ([0xFB40, 0xF9FB, 0x9E49], .sth 22 18 (-19)), ([0x9B32], .stw 3 1 (-2)),
     ([0xFAA0, 0x9BB8], .std 11 13 0), ([0xFAC0, 0xA451], .lacq 12 18 .package .h),
     ([0xAE56], .srel 6 2 .system .w), ([0xB018], .fenceFull .row)] = true := by decide +kernel

/-- Page 0: words written out from R34 to R38 and each row. -/
theorem test_decode_page0e : decodes
    [([0xB001], .fenceAcq .thread), ([0xB006], .fenceRel .core),
     ([0xB00B], .fenceFlush .cluster), ([0xFA50, 0xBA14], .beq 18 16 (-12)),
     ([0xF9F1, 0xC4D1], .bne 4 6 (-463)), ([0xFA30, 0xCD12], .blt 13 16 (-14)),
     ([0xFA48, 0xD22E], .bge 18 9 14), ([0xDDB0], .bltu 5 5 (-16)),
     ([0xFA28, 0xE520], .bgeu 13 9 0), ([0xF8FE, 0xEE89], .j 521865),
     ([0xF042], .jal 66)] = true := by decide +kernel

/-- Page 1: words written out from R34 to R38 and each row. -/
theorem test_decode_page1a : decodes
    [([0xFC01, 0xFA80, 0x059E], .mfk 13 158), ([0xFC01, 0xFA80, 0x0EBB], .mtk 14 187),
     ([0xFC01, 0x10D8], .sysNop 216), ([0xFC01, 0x11F5], .trap 245),
     ([0xFC01, 0x1212], .brk 18), ([0xFC01, 0x132F], .rett 47),
     ([0xFC01, 0x144C], .yield 76), ([0xFC01, 0x1569], .idle 105),
     ([0xFC01, 0xF8BE, 0x1814], .wait 11 14 1 4), ([0xFC01, 0xFB28, 0x26A4], .cwb 22 13 9),
     ([0xFC01, 0xFB50, 0x2741], .cinv 23 18 16), ([0xFC01, 0x2242], .cflush 2 2 0),
     ([0xFC01, 0xFAB0, 0x24A3], .cprefetch 12 13 16), ([0xFC01, 0xFA48, 0x2844], .tlbi 18 9),
     ([0xFC01, 0x281D], .tlbia 7), ([0xFC01, 0x2802], .tlbsync)] = true := by decide +kernel

/-- Page 2: words written out from R34 to R38 and each row. -/
theorem test_decode_page2a : decodes
    [([0xFC02, 0xFB50, 0x0040], .vset 16 18 16), ([0xFC02, 0x0181], .vsetk 1 4),
     ([0xFC02, 0xFB30, 0xFFF0, 0x0AA0], .vadd 18 13 16 ⟨true, true, 7⟩), ([0xFC02, 0xFB48, 0xFEA0, 0x0B45], .vsub 19 18 9 ⟨true, false, 2⟩),
     ([0xFC02, 0xFF70, 0x0CB6], .vand 4 5 5 ⟨true, true, 5⟩), ([0xFC02, 0xFB28, 0xFE20, 0x0DA7], .vor 21 13 9 ⟨true, false, 0⟩),
     ([0xFC02, 0xFB50, 0xFEF0, 0x1640], .vxor 22 18 16 ⟨true, true, 3⟩), ([0xFC02, 0xFFA0, 0x17D1], .vandn 7 6 4 ⟨true, false, 6⟩),
     ([0xFC02, 0xFAB0, 0xFE70, 0x13A2], .vmin 11 13 16 ⟨true, true, 1⟩), ([0xFC02, 0xFAC8, 0xFF20, 0x1447], .vmax 12 18 9 ⟨true, false, 4⟩),
     ([0xFC02, 0xFFF0, 0x1BEC], .vminu 3 7 3 ⟨true, true, 7⟩), ([0xFC02, 0xFAA8, 0xFEA0, 0x1EA5], .vmaxu 14 13 9 ⟨true, false, 2⟩),
     ([0xFC02, 0xFAD0, 0xFF70, 0x1F42], .vmul 15 18 16 ⟨true, true, 5⟩), ([0xFC02, 0xFE20, 0x1E0B], .vmulh 6 0 2 ⟨true, false, 0⟩),
     ([0xFC02, 0xFB30, 0xFEF0, 0x21A0], .vsll 17 13 16 ⟨true, true, 3⟩)] = true := by decide +kernel

/-- Page 2: words written out from R34 to R38 and each row. -/
theorem test_decode_page2b : decodes
    [([0xFC02, 0xFB48, 0xFFA0, 0x2245], .vsrl 18 18 9 ⟨true, false, 6⟩), ([0xFC02, 0xFE70, 0x2226], .vsra 2 1 1 ⟨true, true, 1⟩),
     ([0xFC02, 0xFB28, 0xFF20, 0x24A7], .vmulhu 20 13 9 ⟨true, false, 4⟩), ([0xFC02, 0xFB50, 0xFFF0, 0x2D40], .vsadd 21 18 16 ⟨true, true, 7⟩),
     ([0xFC02, 0xFEA0, 0x2D41], .vssub 5 2 0 ⟨true, false, 2⟩), ([0xFC02, 0xFB30, 0xFF70, 0x2FA2], .vsaddu 23 13 16 ⟨true, true, 5⟩),
     ([0xFC02, 0xFAC8, 0xFE20, 0x2B47], .vssubu 11 18 9 ⟨true, false, 0⟩), ([0xFC02, 0xFEF0, 0x317C], .vmacc 1 3 7 ⟨true, true, 3⟩),
     ([0xFC02, 0xFAA8, 0xFFA0, 0x35A5], .vnmsac 13 13 9 ⟨true, false, 6⟩), ([0xFC02, 0xFAD0, 0xFE70, 0x3E40], .vaddS 14 18 16 ⟨true, true, 1⟩),
     ([0xFC02, 0xFF20, 0x3C99], .vsubS 4 4 6 ⟨true, false, 4⟩), ([0xFC02, 0xFB30, 0xFFF0, 0x38A2], .vrsubS 16 13 16 ⟨true, true, 7⟩),
     ([0xFC02, 0xFB48, 0xFEA0, 0x3947], .vandS 17 18 9 ⟨true, false, 2⟩), ([0xFC02, 0xFF70, 0x47B4], .vorS 7 5 5 ⟨true, true, 5⟩),
     ([0xFC02, 0xFB28, 0xFE20, 0x43A5], .vxorS 19 13 9 ⟨true, false, 0⟩)] = true := by decide +kernel

/-- Page 2: words written out from R34 to R38 and each row. -/
theorem test_decode_page2c : decodes
    [([0xFC02, 0xFB50, 0xFEF0, 0x4442], .vminS 20 18 16 ⟨true, true, 3⟩), ([0xFC02, 0xFFA0, 0x43D3], .vmaxS 3 6 4 ⟨true, false, 6⟩),
     ([0xFC02, 0xFB30, 0xFE70, 0x4EA0], .vsllS 22 13 16 ⟨true, true, 1⟩), ([0xFC02, 0xFB48, 0xFF20, 0x4F45], .vsrlS 23 18 9 ⟨true, false, 4⟩),
     ([0xFC02, 0xFFF0, 0x4EEE], .vsraS 6 7 3 ⟨true, true, 7⟩), ([0xFC02, 0xFAA8, 0xFEA0, 0x4CA7], .vmulS 12 13 9 ⟨true, false, 2⟩),
     ([0xFC02, 0xFAC0, 0xFF70, 0x5540], .vmv 13 18 ⟨true, true, 5⟩), ([0xFC02, 0xFE20, 0x5201], .vmvS 2 0 ⟨true, false, 0⟩),
     ([0xFC02, 0xFA80, 0xFEF0, 0x5702], .vid 15 ⟨true, true, 3⟩), ([0xFC02, 0xFB48, 0xFFA0, 0x5047], .vsel 16 18 9 ⟨true, false, 6⟩),
     ([0xFC02, 0xFE70, 0x5D20], .vneg 5 1 ⟨true, true, 1⟩), ([0xFC02, 0xFB20, 0xFF20, 0x5AA1], .vabs 18 13 ⟨true, false, 4⟩),
     ([0xFC02, 0xFB40, 0xFFF0, 0x5B42], .vnot 19 18 ⟨true, true, 7⟩), ([0xFC02, 0xFEA0, 0x5943], .vpopc 1 2 ⟨true, false, 2⟩),
     ([0xFC02, 0xFB20, 0xFF70, 0x65A0], .vclz 21 13 ⟨true, true, 5⟩)] = true := by decide +kernel

/-- Page 2: words written out from R34 to R38 and each row. -/
theorem test_decode_page2d : decodes
    [([0xFC02, 0xFB40, 0xFE20, 0x6641], .vctz 22 18 ⟨true, false, 0⟩), ([0xFC02, 0xFEF0, 0x6466], .vsext 4 3 1 ⟨true, true, 3⟩),
     ([0xFC02, 0xFAA0, 0xFFA0, 0x63AB], .vzext 11 13 2 ⟨true, false, 6⟩), ([0xFC02, 0xFA50, 0xFE70, 0x6A40], .vceq 2 18 16 ⟨true, true, 1⟩),
     ([0xFC02, 0xFF20, 0x6D99], .vcne 5 4 6 ⟨true, false, 4⟩), ([0xFC02, 0xFA30, 0xFFF0, 0x68A2], .vclt 0 13 16 ⟨true, true, 7⟩),
     ([0xFC02, 0xFA48, 0xFEA0, 0x6B47], .vcltu 3 18 9 ⟨true, false, 2⟩), ([0xFC02, 0xFF70, 0x76B4], .vcle 6 5 5 ⟨true, true, 5⟩),
     ([0xFC02, 0xFA28, 0xFE20, 0x71A5], .vcleu 1 13 9 ⟨true, false, 0⟩), ([0xFC02, 0xFA50, 0xFEF0, 0x7442], .vceqS 4 18 16 ⟨true, true, 3⟩),
     ([0xFC02, 0xFFA0, 0x77D3], .vcltS 7 6 4 ⟨true, false, 6⟩), ([0xFC02, 0x7A38], .mand 2 1 6),
     ([0xFC02, 0x7DDD], .mor 5 6 7), ([0xFC02, 0x7862], .mxor 0 3 0),
     ([0xFC02, 0x7B07], .mandn 3 0 1)] = true := by decide +kernel

/-- Page 2: words written out from R34 to R38 and each row. -/
theorem test_decode_page2e : decodes
    [([0xFC02, 0x86A0], .mnot 6 5), ([0xFC02, 0x8141], .mmv 1 2),
     ([0xFC02, 0x8402], .mset 4), ([0xFC02, 0x8703], .mclr 7),
     ([0xFC02, 0xFE70, 0x8920], .mpopc 1 1 ⟨true, true, 1⟩), ([0xFC02, 0xFB00, 0xFF20, 0x88C1], .mfirst 16 6 ⟨true, false, 4⟩),
     ([0xFC02, 0xFFF0, 0x8862], .msbf 0 3 ⟨true, true, 7⟩), ([0xFC02, 0xFEA0, 0x8B03], .msif 3 0 ⟨true, false, 2⟩),
     ([0xFC02, 0xFB20, 0xFF70, 0x93A8], .vslideup 19 13 2 ⟨true, true, 5⟩), ([0xFC02, 0xFB40, 0xFE20, 0x944D], .vslidedn 20 18 3 ⟨true, false, 0⟩),
     ([0xFC02, 0xFEF0, 0x977E], .vslideupS 7 3 7 ⟨true, true, 3⟩), ([0xFC02, 0xFB28, 0xFFA0, 0x96A7], .vslidednS 22 13 9 ⟨true, false, 6⟩),
     ([0xFC02, 0xFB50, 0xFE70, 0x9F40], .vxchg 23 18 16 ⟨true, true, 1⟩), ([0xFC02, 0xFF20, 0x9B81], .vcompress 3 4 ⟨true, false, 4⟩),
     ([0xFC02, 0xFAA0, 0xFFF0, 0x9CA2], .vexpand 12 13 ⟨true, true, 7⟩)] = true := by decide +kernel

/-- Page 2: words written out from R34 to R38 and each row. -/
theorem test_decode_page2f : decodes
    [([0xFC02, 0xFAC8, 0xFEA0, 0xA544], .vperm 13 18 9 ⟨true, false, 2⟩), ([0xFC02, 0xFF70, 0xA6B5], .vgath8 6 5 5 ⟨true, true, 5⟩),
     ([0xFC02, 0xFAA0, 0xFE20, 0xA7A2], .vconflict 15 13 ⟨true, false, 0⟩), ([0xFC02, 0xFA50, 0xFEFA, 0xA443], .vmatch 4 18 16 10 ⟨true, true, 3⟩),
     ([0xFC02, 0xFFA0, 0xAAD0], .vprobe 2 6 4 ⟨true, false, 6⟩), ([0xFC02, 0xFB30, 0xFE70, 0xB2A0], .vredsum 18 13 16 ⟨true, true, 1⟩),
     ([0xFC02, 0xFB48, 0xFF20, 0xB345], .vredmax 19 18 9 ⟨true, false, 4⟩), ([0xFC02, 0xFFF0, 0xB5EE], .vredmin 5 7 3 ⟨true, true, 7⟩),
     ([0xFC02, 0xFB28, 0xFEA0, 0xB5A7], .vredmaxu 21 13 9 ⟨true, false, 2⟩), ([0xFC02, 0xFB50, 0xFF70, 0xBE40], .vredand 22 18 16 ⟨true, true, 5⟩),
     ([0xFC02, 0xFE20, 0xB909], .vredor 1 0 2 ⟨true, false, 0⟩), ([0xFC02, 0xFAB0, 0xFEF0, 0xBBA2], .vredxor 11 13 16 ⟨true, true, 3⟩),
     ([0xFC02, 0xFAC8, 0xFFA0, 0xBC47], .vredminu 12 18 9 ⟨true, false, 6⟩)] = true := by decide +kernel

/-- Page 3: words written out from R34 to R38 and each row. -/
theorem test_decode_page3a : decodes
    [([0xFC03, 0xFE70, 0x0424], .vfadd 4 1 1 ⟨true, true, 1⟩), ([0xFC03, 0xFAA8, 0xFF20, 0x06A5], .vfsub 14 13 9 ⟨true, false, 4⟩),
     ([0xFC03, 0xFAD0, 0xFFF0, 0x0742], .vfmul 15 18 16 ⟨true, true, 7⟩), ([0xFC03, 0xFEA0, 0x0743], .vfdiv 7 2 0 ⟨true, false, 2⟩),
     ([0xFC03, 0xFB30, 0xFF70, 0x09A0], .vfmin 17 13 16 ⟨true, true, 5⟩), ([0xFC03, 0xFB48, 0xFE20, 0x0A45], .vfmax 18 18 9 ⟨true, false, 0⟩),
     ([0xFC03, 0xFEF0, 0x0B7E], .vfsgnj 3 3 7 ⟨true, true, 3⟩), ([0xFC03, 0xFB20, 0xFFA0, 0x0CA3], .vfsqrt 20 13 ⟨true, false, 6⟩),
     ([0xFC03, 0xFB50, 0xFE78, 0x1540], .vfma 21 18 16 8 ⟨true, true, 1⟩), ([0xFC03, 0xFF2F, 0x1699], .vfms 6 4 6 15 ⟨true, false, 4⟩),
     ([0xFC03, 0xFB30, 0xFFF6, 0x17A2], .vfnma 23 13 16 6 ⟨true, true, 7⟩), ([0xFC03, 0xFAC8, 0xFEAD, 0x1347], .vfnms 11 18 9 13 ⟨true, false, 2⟩),
     ([0xFC03, 0xFF70, 0x1AB4], .vfaddS 2 5 5 ⟨true, true, 5⟩), ([0xFC03, 0xFAA8, 0xFE20, 0x1DA5], .vfsubS 13 13 9 ⟨true, false, 0⟩),
     ([0xFC03, 0xFAD0, 0xFEF0, 0x1E42], .vfmulS 14 18 16 ⟨true, true, 3⟩)] = true := by decide +kernel

/-- Page 3: words written out from R34 to R38 and each row. -/
theorem test_decode_page3b : decodes
    [([0xFC03, 0xFFA0, 0x1DD3], .vfrsubS 5 6 4 ⟨true, false, 6⟩), ([0xFC03, 0xFB20, 0xFE70, 0x20A0], .vfabs 16 13 ⟨true, true, 1⟩),
     ([0xFC03, 0xFB40, 0xFF20, 0x2141], .vfneg 17 18 ⟨true, false, 4⟩), ([0xFC03, 0xFFF0, 0x21E2], .vfclass 1 7 ⟨true, true, 7⟩),
     ([0xFC03, 0xFB20, 0xFEA0, 0x23A3], .vfround 19 13 ⟨true, false, 2⟩), ([0xFC03, 0xFA50, 0xFF70, 0x2E40], .vfceq 6 18 16 ⟨true, true, 5⟩),
     ([0xFC03, 0xFE20, 0x2909], .vfclt 1 0 2 ⟨true, false, 0⟩), ([0xFC03, 0xFA30, 0xFEF0, 0x2CA2], .vfcle 4 13 16 ⟨true, true, 3⟩),
     ([0xFC03, 0xFA48, 0xFFA0, 0x2F47], .vfcun 7 18 9 ⟨true, false, 6⟩), ([0xFC03, 0xFE70, 0x3724], .vfcvt 7 1 1 ⟨true, true, 1⟩),
     ([0xFC03, 0xFAA8, 0xFF20, 0x34A5], .vf2i 12 13 9 ⟨true, false, 4⟩), ([0xFC03, 0xFAD0, 0xFFF0, 0x3542], .vi2f 13 18 16 ⟨true, true, 7⟩),
     ([0xFC03, 0xFEA0, 0x3343], .vf2iT 3 2 0 ⟨true, false, 2⟩), ([0xFC03, 0xFAB0, 0xFF70, 0x3FA0], .vqamax 15 13 16 ⟨true, true, 5⟩),
     ([0xFC03, 0xFB48, 0x3845], .vqscale 16 18 9)] = true := by decide +kernel

/-- Page 3: words written out from R34 to R38 and each row. -/
theorem test_decode_page3c : decodes
    [([0xFC03, 0x3E7E], .vqpack 6 3 7), ([0xFC03, 0xFB28, 0xFFA0, 0x3AA7], .vqunpack 18 13 9 ⟨true, false, 6⟩),
     ([0xFC03, 0xFB50, 0x4340], .vfwht 19 18 16), ([0xFC03, 0xFF20, 0x4299], .vsfu 2 4 6 ⟨true, false, 4⟩),
     ([0xFC03, 0xFB30, 0xFFF0, 0x45A2], .vfredsumO 21 13 16 ⟨true, true, 7⟩), ([0xFC03, 0xFB48, 0xFEA0, 0x4E44], .vfredsumT 22 18 9 ⟨true, false, 2⟩),
     ([0xFC03, 0xFF70, 0x4DB5], .vfredmax 5 5 5 ⟨true, true, 5⟩), ([0xFC03, 0xFAA8, 0xFE20, 0x4BA6], .vfredmin 11 13 9 ⟨true, false, 0⟩),
     ([0xFC03, 0xFAD0, 0xFEFA, 0x4C43], .vfdotO 12 18 16 10 ⟨true, true, 3⟩), ([0xFC03, 0xFFA0, 0x57C0], .vhktest 7 6 ⟨true, false, 6⟩),
     ([0xFC03, 0xFAB0, 0xFE70, 0x56A1], .vhksel 14 13 16 ⟨true, true, 1⟩), ([0xFC03, 0xFAC8, 0xFF20, 0x5746], .vhkcnt 15 18 9 ⟨true, false, 4⟩),
     ([0xFC03, 0xFFF0, 0x54EF], .vtopk 4 7 3 ⟨true, true, 7⟩), ([0xFC03, 0xFB28, 0x59A4], .fadd 17 13 9),
     ([0xFC03, 0xFB50, 0x5A41], .fsub 18 18 16)] = true := by decide +kernel

/-- Page 3: words written out from R34 to R38 and each row. -/
theorem test_decode_page3d : decodes
    [([0xFC03, 0x5F0A], .fmul 7 0 2), ([0xFC03, 0xFB30, 0x5CA3], .fdiv 20 13 16),
     ([0xFC03, 0xFB48, 0x6544], .fma 21 18 9), ([0xFC03, 0x6325], .fmin 3 1 1),
     ([0xFC03, 0xFB28, 0x67A6], .fmax 23 13 9), ([0xFC03, 0xFAC0, 0x6343], .fsqrt 11 18),
     ([0xFC03, 0x6E40], .fceq 6 2 0), ([0xFC03, 0xFAB0, 0x6DA1], .fclt 13 13 16),
     ([0xFC03, 0xFAC8, 0x6E46], .fcle 14 18 9), ([0xFC03, 0x6A7F], .fcvt 2 3 7),
     ([0xFC03, 0xFB20, 0x70A0], .f2i 16 13), ([0xFC03, 0xFB40, 0x7141], .i2f 17 18),
     ([0xFC03, 0x7582], .fclass 5 4), ([0xFC03, 0xFB20, 0x73A3], .fabs 19 13),
     ([0xFC03, 0xFB40, 0x7C40], .fcadapt 20 18)] = true := by decide +kernel

/-- Page 4: words written out from R34 to R38 and each row. -/
theorem test_decode_page4a : decodes
    [([0xFC04, 0xFF70, 0x01B4], .vld 1 5 5 ⟨true, true, 5⟩), ([0xFC04, 0xFB28, 0xFE20, 0x06A5], .vst 22 13 9 ⟨true, false, 0⟩),
     ([0xFC04, 0xFB50, 0xFEF0, 0x0742], .vlds 23 18 16 ⟨true, true, 3⟩), ([0xFC04, 0xFFA0, 0x04D3], .vsts 4 6 4 ⟨true, false, 6⟩),
     ([0xFC04, 0xFAB0, 0xFE70, 0x0CA0], .vldx 12 13 16 ⟨true, true, 1⟩), ([0xFC04, 0xFAC8, 0xFF20, 0x0D45], .vstx 13 18 9 ⟨true, false, 4⟩),
     ([0xFC04, 0xFFF0, 0x0FE2], .vldff 7 7 ⟨true, true, 7⟩), ([0xFC04, 0xFAA8, 0xFEA5, 0x0FA7], .vstxa 15 13 9 5 ⟨true, false, 2⟩),
     ([0xFC04, 0xFB50, 0xFF7C, 0x1040], .vldw 16 18 16 12 ⟨true, true, 5⟩), ([0xFC04, 0xFE20, 0x1309], .vldrow 3 0 2 ⟨true, false, 0⟩),
     ([0xFC04, 0xFB30, 0xFEF0, 0x12A2], .vstrow 18 13 16 ⟨true, true, 3⟩), ([0xFC04, 0xFB48, 0xFFA1, 0x1347], .vamorow 19 18 9 1 ⟨true, false, 6⟩),
     ([0xFC04, 0xFE78, 0x1E24], .vldsync 6 1 1 8 ⟨true, true, 1⟩)] = true := by decide +kernel

/-- Page 5: words written out from R34 to R38 and each row. -/
theorem test_decode_page5a : decodes
    [([0xFC05, 0xFB28, 0x05A4], .pload 21 13 9), ([0xFC05, 0xFA50, 0x0041], .prow 18 16),
     ([0xFC05, 0xFEA0, 0x0242], .mma 2 2 ⟨true, false, 2⟩), ([0xFC05, 0xFAA0, 0xFF70, 0x03A3], .mmav 11 13 ⟨true, true, 5⟩),
     ([0xFC05, 0xFA40, 0x0840], .pgang 18), ([0xFC05, 0x0861], .vdcfg 3),
     ([0xFC05, 0xFA28, 0x08A6], .pbnd 13 9), ([0xFC05, 0xFAC0, 0x0F43], .ptree 15 18),
     ([0xFC05, 0x1198], .tmma 1 4 6), ([0xFC05, 0x1001], .tzero 0),
     ([0xFC05, 0xFA40, 0x1342], .tld 3 18), ([0xFC05, 0x12A3], .tst 2 5),
     ([0xFC05, 0xFA28, 0x19A4], .tacc 1 13 9), ([0xFC05, 0xFA50, 0x1841], .trow 0 18 16)] = true := by decide +kernel

/-- Page 6: words written out from R34 to R38 and each row. -/
theorem test_decode_page6a : decodes
    [([0xFC06, 0x07D0], .fork 7 6 4), ([0xFC06, 0xFA20, 0x00A1], .join 13),
     ([0xFC06, 0x0002], .retire), ([0xFC06, 0x03E3], .launch 3 7),
     ([0xFC06, 0xFA28, 0x08A4], .curtain 13 9), ([0xFC06, 0xFAD0, 0x0E41], .curtainx 14 18 16),
     ([0xFC06, 0x0E0A], .prodctlQuery 6 0 2), ([0xFC06, 0xFB30, 0x0EA3], .qbind 22 13 16),
     ([0xFC06, 0xFB40, 0x1740], .vacq 23 18), ([0xFC06, 0x1001], .vrel),
     ([0xFC06, 0xFAA0, 0x14A2], .boost 12 13), ([0xFC06, 0xFAC0, 0x1D40], .lde 13 18),
     ([0xFC06, 0x1C81], .ldf 4 4), ([0xFC06, 0xFAA0, 0x1FA2], .stf 15 13),
     ([0xFC06, 0xFB40, 0x1843], .ste 16 18), ([0xFC06, 0x27A0], .feq 7 5)] = true := by decide +kernel

/-- Page 6: words written out from R34 to R38 and each row. -/
theorem test_decode_page6b : decodes
    [([0xFC06, 0xFA20, 0x20A1], .fefill 13), ([0xFC06, 0xFA40, 0x2042], .feclr 18),
     ([0xFC06, 0x2BCA], .amoadd 3 6 .cluster .w), ([0xFC06, 0xFB20, 0x35AF], .amoswap 21 13 .die .d),
     ([0xFC06, 0xFB40, 0x3E50], .amomax 22 18 .package .b), ([0xFC06, 0x46F5], .amomin 6 7 .system .h),
     ([0xFC06, 0xFAA0, 0x4BBA], .amoand 11 13 .row .w), ([0xFC06, 0xFAC0, 0x5443], .amoor 12 18 .thread .d),
     ([0xFC06, 0x5A04], .amocas 2 0 .core .b), ([0xFC06, 0xFAB0, 0x66A0], .cpy 14 13 16),
     ([0xFC06, 0xFAC8, 0x6745], .cpy2d 15 18 9), ([0xFC06, 0x6526], .cpyg 5 1 1),
     ([0xFC06, 0xFB28, 0x61A7], .nmr 17 13 9), ([0xFC06, 0xFB50, 0x6A40], .coll 18 18 16),
     ([0xFC06, 0x6941], .sfu 1 2 0), ([0xFC06, 0xFB30, 0x6CA2], .msgs 20 13 16)] = true := by decide +kernel

/-- Words that are no instruction: a fifth prefix, two PP words, reserved values of PR, PP and PM, majors and minors that no page
assigns, and a run that ends before its base word (02 R39, R42 to R44). -/
theorem test_decode_refuses :
    ([([0xFFFF, 0xFFFF], .illegalFormat 1), ([0xF800, 0xF800, 0xF800, 0xF800, 0xF800], .illegalFormat 4),
      ([0xFC01, 0xFC01], .illegalFormat 1), ([0xFA01, 0], .illegalInstruction 1), ([0xFC07, 0], .illegalInstruction 1),
      ([0xFC01, 0x3000], .illegalInstruction 1), ([0x901C], .illegalInstruction 0), ([0x9804], .illegalInstruction 0),
      ([0xA01C], .illegalInstruction 0), ([0xB100], .illegalInstruction 0), ([0xF802, 0x6000], .illegalInstruction 1),
      ([0xFA80, 0xF000], .illegalInstruction 1), ([0xFC01, 0x1600], .illegalInstruction 1),
      ([0xFC02, 0xFE40, 0], .illegalInstruction 2), ([0xFC06, 0x5900], .illegalInstruction 1), ([0xF800], .short)] :
        List (List Half × Decoded)).all (fun (w, r) => decide (decode w = r)) = true := by decide +kernel

/-! States for the tests. -/

/-- A task on slot 0 of core 0 with context 0 bound, 8 KiB of scratch, and an instruction of one word in its register. -/
noncomputable def tm : State :=
  { loadProgram State.reset with
    cores := [(0, { loadCore with scratch := [(1, ⟨[39], [], [], []⟩)], gran := [(39, .scratch 1)] })]
    ir := [0] }

/-- The acting slot changed. -/
def tweak (s : State) (f : Slot → Slot) : State := setMe s (f (me s))

/-- Registers of the acting slot given values. -/
def withG (s : State) (vs : List (GReg × Word)) : State := tweak s fun x => vs.foldl (fun x p => setG x p.1 p.2) x

/-- The context of the acting slot changed. -/
def tweakCtx (s : State) (f : Ctx → Ctx) : State := setCtx s 4 (f (ctxAt s 4))

/-- Core 0 changed. -/
def tweakCore (s : State) (f : Core → Core) : State := setCore s 0 (f (coreAt s 0))

/-- The slot with no context bound, in the handler state, and as a supervisor slot. -/
noncomputable def tmFree : State := tweak tm fun x => { x with vctx := none }
noncomputable def tmHand : State := tweak tm fun x => { x with handler := true }
noncomputable def tmSup : State := tweak tm fun x => { x with sup := true, vctx := none }

/-- An address of the near window. -/
def near (o : Nat) : Word := BitVec.ofNat 64 (nearBase + o)

/-- Whether an instruction answers a next state. -/
def goes (o : Host.Outcome State Fault Refusal) : Bool :=
  match o with
  | .next _ => true
  | _ => false

/-- The next state, or the one given where there is none. -/
def after (o : Host.Outcome State Fault Refusal) (s : State) : State :=
  match o with
  | .next t => t
  | _ => s

/-- The words a fetch gives. -/
def fetched (f : Fetched) : Option (List Half) :=
  match f with
  | .words ws _ => some ws
  | _ => none

/-! What meets the hypotheses of the statements, statement by statement. -/

/-- Where no entry, operation or collective owns a line, no engine owns one. -/
theorem owns_nothing (s : State) (h : (s.ctxs.all fun p => p.2.queue.all fun e => e.owned.isEmpty) = true)
    (h' : (s.cores.all fun p => p.2.sgOps.all fun o => o.owned.isEmpty) = true) (h'' : (s.door.colls.all fun q => q.owned.isEmpty) = true) :
    (∀ l n, engineOwns s l n = false) ∧ ∀ a l n, ownedBefore s a l n = false := by
  simp only [List.all_eq_true, List.isEmpty_iff] at h h' h''
  have hv (l n) : vectorOwns s l n = false := by
    simp only [vectorOwns, linesMeet, List.any_eq_false, List.any_eq_true]
    rintro p hp ⟨e, he, a, ha, -⟩
    simp [h p hp e he] at ha
  have hc (f l n) : copierOwns s f l n = false := by
    simp only [copierOwns, linesMeet, Bool.or_eq_false_iff, List.any_eq_false, List.any_eq_true, Bool.and_eq_true]
    refine ⟨?_, fun q hq => by simp [h'' q hq]⟩
    rintro p hp ⟨o, ho, -, a, ha, -⟩
    simp [h' p hp o ho] at ha
  simp [engineOwns, ownedBefore, hv, hc]

/-- The machine with two words of code where it fetches: `add g0, g0, g0`, a fifth prefix word, and a major of no page. -/
noncomputable def tmCode (ws : List Half) : State := placeCode tm (codeBytes ws)

/-- StepRunsDecoded: an event on the agenda; a turn whose words decode; words of either illegal kind. -/
theorem test_meets_StepRunsDecoded :
    ({ tm with agenda := [.stageTimeout] }).agenda = .stageTimeout :: [] ∧
    ([([0], .ok (.add 0 0 0) 1), ([0xF800, 0xF800, 0xF800, 0xF800, 0xF800], .illegalFormat 4), ([0xFC01, 0x3000], .illegalInstruction 1)] :
      List (List Half × Decoded)).all (fun (ws, r) =>
        let s := tmCode ws
        let u := testTurn (startTurn s 0) 0
        decide (s.agenda = [] ∧ s.mgmt.error = 0 ∧ nextPick s = .turn 0 ∧ (slotAt u 0).st = .ready ∧ (slotAt u 0).freezing = none ∧
          stepHeld u 0 = false ∧ stopBefore u 0 = none ∧ (fetched (fetch u)).map decode = some r)) = true := by decide +kernel

/-- EveryStepAnswers: a machine whose bring-up has stopped faults, and one with code goes on. -/
theorem test_meets_EveryStepAnswers :
    goes (step { State.reset with mgmt := { State.reset.mgmt with error := 5 } }) = false ∧ goes (step (tmCode [0])) = true := by
  decide +kernel

/-- StepKeepsMemoryCanonical. -/
theorem test_meets_StepKeepsMemoryCanonical : MemOk (tmCode [0]) ∧ goes (step (tmCode [0])) = true := by decide +kernel

/-- DecodeEncode: an instruction of every page and its largest number of prefixes. -/
theorem test_meets_DecodeEncode :
    ([.addi 31 8 (2 ^ 31 - 1), .mfk 31 255, .vfma 20 17 3 9 ⟨true, true, 2⟩, .vldw 1 2 3 4 ⟨true, false, 7⟩, .pload 1 2 3,
      .coll 31 30 29, .prodctlPreempt 1 2 3] : List Instr).all (fun i => i.wf && !i.isEvent) = true := by decide +kernel

/-- Plain registers with a value each. -/
noncomputable def tmRegs (x y z : Word) : State := withG tm [(1, x), (2, y), (3, z)]

/-- RegisterRegisterResults, ImmediateAndOneOperandResults, RegisterFormFrame. -/
theorem test_meets_registers :
    (31 : GReg) ≠ 0 ∧ (0 : GReg) ≠ 31 ∧ Plain (tmRegs 5 7 9) [1, 2, 3] ∧ Plain tm [31, 31, 31] ∧ Plain tm [0, 0, 0] ∧
    regForm (.cmov 3 1 2) = some (some 3, [1, 2, 3]) ∧ goes (exec (.cmov 3 1 2) (tmRegs 5 7 9)) = true ∧
    regForm (.beq 1 2 (-6)) = some (none, [1, 2]) ∧ goes (exec (.beq 1 2 (-6)) (tmRegs 5 7 9)) = true ∧
    regForm (.fadd 0 1 2) = some (some 0, [1, 2]) ∧ goes (exec (.fadd 0 1 2) (tmRegs 5 7 9)) = true := by decide +kernel

/-- DivisionResults: each clause. -/
theorem test_meets_DivisionResults :
    Plain (tmRegs 7 0 0) [1, 2, 3] ∧ readG (me (tmRegs 7 0 0)) 2 = 0 ∧
    Plain (tmRegs 0x8000000000000000 0xFFFFFFFFFFFFFFFF 0) [1, 2, 3] ∧
    readG (me (tmRegs 0x8000000000000000 0xFFFFFFFFFFFFFFFF 0)) 1 = 0x8000000000000000 ∧
    readG (me (tmRegs 0x8000000000000000 0xFFFFFFFFFFFFFFFF 0)) 2 = 0xFFFFFFFFFFFFFFFF ∧ readG (me (tmRegs 7 1 0)) 2 ≠ 0 := by
  decide +kernel

/-- BranchAndJumpResults: a target with bit 0 clear, and one with it set. -/
theorem test_meets_BranchAndJumpResults :
    Plain (tmRegs 0x3000 0x3001 0) [1, 2, 3] ∧ bitOf (readG (me (tmRegs 0x3000 0x3001 0)) 1) 0 = false ∧
    bitOf (readG (me (tmRegs 0x3000 0x3001 0)) 2) 0 = true := by decide +kernel

/-- g24 to g31 bound to the codes 1 to 5 and 7's neighbours: 1, 3 and 6 pop, 2, 4 and 5 push (04 R117). -/
noncomputable def tmPorts : State := tweak tm fun x => { x with qcode := #v[1, 2, 3, 4, 5, 6, 0, 0] }

/-- OperandStopsAndParking: each clause. -/
theorem test_meets_OperandStopsAndParking :
    isPush (portCode (me tmPorts) 24) = true ∧ portCode (me tmPorts) 1 = 0 ∧ portCode (me tmPorts) 23 = 0 ∧
    isPop (portCode (me tmPorts) 25) = true ∧ queueItems tmPorts 0 (portCode (me tmPorts) 25) = [] ∧ Plain tmPorts [1, 31] ∧
    regForm (.cmov 25 1 2) = some (some 25, [1, 2, 25]) ∧ regData (.cmov 25 1 2) = [25] ∧ portCode (me tmPorts) 25 ≠ 0 ∧
    (let s := tweak tm fun x => { x with pend := 2, poison := 4 }
     bitOf (me s).pend 1 = true ∧ bitOf (me s).pend 31 = false ∧ bitOf (me s).poison 2 = true ∧ bitOf (me s).pend 2 = false ∧
       Plain s [3, 4] ∧ isUser (me s) = true) ∧
    (let s := tweak tmPorts fun x => { x with qCmd := List.replicate 16 0 }
     queueDepth (portCode (me s) 24) ≤ (queueItems s 0 (portCode (me s) 24)).length) := by decide +kernel

/-- PortOperands: an item to pop; room to push, on a slot's queue and on the context's. -/
theorem test_meets_PortOperands :
    (let s := tweak tmPorts fun x => { x with qStat := [7, 8] }
     isPop (portCode (me s) 25) = true ∧ queueItems s 0 (portCode (me s) 25) = 7 :: [8] ∧ Plain s [1, 2] ∧
       isPush (portCode (me s) 24) = true ∧ (queueItems s 0 (portCode (me s) 24)).length < queueDepth (portCode (me s) 24) ∧
       aimedAt s 0 24 = false) ∧
    portCode (me tmPorts) 28 = 5 ∧ (myCtx tmPorts).isSome = true ∧ aimedAt tmPorts 0 28 = false ∧ (23 : GReg).toNat < 24 := by
  decide +kernel

/-- ScalarFloatAndCardResults: `fcvt` operands that name formats, the first and the last, and ones that do not; an FP32 hook; a card
in the last 80 bytes of scratch. -/
theorem test_meets_ScalarFloatAndCardResults :
    ([(0x22, true), (0x55, true), (0x26, false), (0x12, false), (0x21, false), (0x62, false), (0x122, false)] :
      List (Word × Bool)).all (fun (g, y) => decide ((fld g 8 56 = 0 ∧ 2 ≤ fld g 0 4 ∧ fld g 0 4 ≤ 5 ∧ 2 ≤ fld g 4 4 ∧ fld g 4 4 ≤ 5) = y)) = true ∧
    isHook 0x7FA10000 = true ∧ fld (0x32 : Word) 4 4 = 3 ∧
    (let s := withG tm [(1, near 8112)]
     Plain s [1, 2] ∧ readG (me s) 1 = BitVec.ofNat 64 (nearBase + 8112) ∧ 8112 % 8 = 0 ∧ (me s).sup = false ∧ myCore s = 0 ∧
       (me s).prodid = 1 ∧ 8112 + 80 ≤ scratchSize s 0 1 ∧ scratchSize s 0 1 ≤ 2 ^ 19 ∧ acqWaits s s.cur = false ∧
       (∀ k ∈ myCtx s, (ctxAt s k).queue = []) ∧ (me s).sbuf = [] ∧ lateLoads s = false ∧ engineOwns s (.scratch 0 1 8112) 80 = false ∧ (me s).outL < 63 ∧
       ∀ b < 80, (scratchAt s 0 1).poison.contains ((8112 + b) / 32) = false) := by decide +kernel

/-- What an address check gives, without the state it leaves. -/
def checked (s : State) (n : Nat) (need : Need) (ea : Word) : Access × State := checkAccess s n need ea

/-- LoadValuesAndForwarding: one byte and eight; a buffered store that holds the bytes, and one that holds some of them. -/
theorem test_meets_LoadValuesAndForwarding :
    ([255] : List Byte).length = 1 ∧ ([0, 0, 0, 0, 0, 0, 0, 128] : List Byte).length = 8 ∧
    (let s := withG (tweak tm fun x => { x with sbuf := [⟨.scratch 0 1 64, 8, 5, near 64, 0⟩, ⟨.scratch 0 1 128, 4, 5, near 128, 0⟩] })
       [(1, near 64)]
     Plain s [1, 2] ∧ [64, 128].all (fun o =>
       let ea := near o
       let u := (checkAccess s 8 needR ea).2
       decide ((checkAccess s 8 needR ea).1 = .ok (.scratch 0 1 o) 0 ∧ acqWaits u u.cur = false ∧ unitAhead s (.scratch 0 1 o) 8 = false ∧ loadsAhead s = false ∧
         (newestOverlap (me u) (.scratch 0 1 o) 8).map (fun e => (forwardFrom e (.scratch 0 1 o) 8).isSome) = some (o == 64))) = true) := by
  decide +kernel

/-- Whether an address of a data page checks as `l`, and nothing makes the access wait. -/
noncomputable def calmAt (s : State) (n : Nat) (need : Need) (ea : Word) (l : Loc) : Bool :=
  let r := checkAccess s n need ea
  match r.1 with
  | .ok l' _ => decide (l' = l ∧ Calm s r.2 l n)
  | _ => false

/-- LoadAndStoreResults, loads: the last byte of scratch; a poisoned block of it; a line in L1, sound and poisoned; a line beyond. -/
theorem test_meets_LoadAndStoreResults_loads :
    Plain tm [1, 2] ∧ calmAt tm 1 needR (near 8191) (.scratch 0 1 8191) = true ∧ locPoisoned tm 0 (.scratch 0 1 8191) = false ∧
    (let s := tweakCore tm fun k => { k with scratch := [(1, ⟨[39], [], [], [255]⟩)] }
     calmAt s 8 needR (near 8184) (.scratch 0 1 8184) = true ∧ locPoisoned s 0 (.scratch 0 1 8184) = true) ∧
    (let s := tweakCore tm fun k => { k with l1 := [⟨0x3000 / 32, 0, false⟩] }
     calmAt s 8 needR 0x3000 (.phys 0x3000) = true ∧ isAperture 0x3000 = false ∧
       inL1 (coreAt (checkAccess s 8 needR 0x3000).2 0) (lineOf 0x3000) = true ∧ coreLinePoisoned s 0 0x3000 = false ∧
       coreLinePoisoned { s with poisoned := [0x3000 / 32] } 0 0x3000 = true ∧
       calmAt { s with poisoned := [0x3000 / 32] } 8 needR 0x3000 (.phys 0x3000) = true) ∧
    calmAt tm 8 needR 0x3000 (.phys 0x3000) = true ∧ inL1 (coreAt (checkAccess tm 8 needR 0x3000).2 0) (lineOf 0x3000) = false ∧
    (me (checkAccess tm 8 needR 0x3000).2).outL < 63 := by decide +kernel

/-- LoadAndStoreResults, stores: seven in the buffer already. -/
theorem test_meets_LoadAndStoreResults_stores :
    let s := tweak tm fun x => { x with sbuf := (List.range 7).map fun i => ⟨.scratch 0 1 (8 * i), 8, 5, near (8 * i), 0⟩, outS := 62 }
    Plain s [1, 2] ∧ calmAt s 8 needW 0x3000 (.phys 0x3000) = true ∧ storeAhead s (.phys 0x3000) 8 = false ∧ (me s).sbuf.length < 8 ∧
      (me s).outS < 63 := by decide +kernel

/-- A core that holds a copy of a line homed on die 1, its first byte written. -/
def farLine : Nat := 2 ^ 38 / 32
noncomputable def tmCopy : State :=
  tweakCore tm fun k => { k with remote := [⟨farLine, List.replicate 32 7, 1, none, false, false⟩] }

/-- BufferedTrafficArrives: a store to drain of each place, a line of another die with no copy and with one among them; a result sound
and one poisoned. -/
theorem test_meets_BufferedTrafficArrives :
    (let e : StoreEntry := ⟨.phys 0x3000, 8, 5, 0x3000, 0⟩
     let s := tweak tm fun x => { x with sbuf := [e] }
     (slotAt s (16 * 0 + 0)).sbuf = e :: [] ∧ drainHeld s 0 e = false ∧ MemOk s ∧ isAperture 0x3000 = false ∧ isRemote 0 0x3000 = false ∧
       0x3000 % 32 + 8 ≤ 32 ∧ (throughNow s 0).length < 16) ∧
    (let e : StoreEntry := ⟨.scratch 0 1 8184, 8, 5, near 8184, 0⟩
     let s := tweak tm fun x => { x with sbuf := [e] }
     (slotAt s (16 * 0 + 0)).sbuf = e :: [] ∧ drainHeld s 0 e = false) ∧
    [tm, tmCopy].all (fun v =>
      let e : StoreEntry := ⟨.phys (farLine * 32 + 24), 8, 5, 0x3000, 0⟩
      let s := tweak v fun x => { x with sbuf := [e] }
      decide ((slotAt s (16 * 0 + 0)).sbuf = e :: [] ∧ drainHeld s 0 e = false ∧ isAperture (farLine * 32 + 24) = false ∧
        (throughNow s 0).length < 16 ∧ isRemote 0 (farLine * 32 + 24) = true ∧ hasL2 (coreAt s 0) = true) &&
      (findLine (coreAt s 0) farLine).all fun r => r.data.length == 32) = true ∧
    (let a : Arrival := ⟨5, 7, false, 0, .l, none, some (0x3000 / 32)⟩
     let s := tweak tm fun x => { x with arrivals := [a, { a with poison := true }] }
     (slotAt s (16 * 0 + 0)).arrivals[0]? = some a ∧ (slotAt s 0).arrivals[1]? = some { a with poison := true } ∧ a.load = none ∧
       a.reg = (5 : GReg).toNat ∧ (5 : GReg) ≠ 0 ∧ portCode (slotAt s (16 * 0 + 0)) 5 = 0 ∧ l1Granules (coreAt s 0) ≠ []) := by decide +kernel

/-- A machine whose one page carries the access rights `n` of a leaf (13 R334). -/
noncomputable def tmPage (n : Nat) : State := { tm with mem := memPutAll tm.mem 0x104000 (leBytes 8 n) }

/-- AccessTraps: a misaligned address; a page that is not there; one whose bits 63 to 55 differ, at each end; the first address past scratch and the last of
the near window; pages without R and without W. -/
theorem test_meets_AccessTraps :
    Plain (withG tm [(1, 0x3001)]) [1, 2] ∧ (0x3001 : Word).toNat % 8 ≠ 0 ∧
    (match (translate tm 0 (0x4000000 % 2 ^ 56)).1 with
     | .fail _ => isNear 0x4000000
     | _ => true) = false ∧
    [(0x0080000000000000 : Word), 0xFF00000000000000].all (fun ea => decide (ea.toNat % 8 = 0 ∧ fld ea 55 9 ≠ 0 ∧ fld ea 55 9 ≠ 511)) = true ∧
    [8192, 2 ^ 44 - 8].all (fun o => decide ((near o).toNat % 8 = 0 ∧ o < 2 ^ 44 ∧ scratchSize tm (myCore tm) (me tm).prodid ≤ o)) = true ∧
    [(0x2C3, needR), (0x2D3, needW)].all (fun (n, need) =>
      let s := tmPage n
      match (translate s 0 (0x3000 % 2 ^ 56)).1 with
      | .page t => !permits t.leaf need (isUser (me s)) && !isNear 0x3000
      | _ => false) = true := by decide +kernel

/-- An entry that has reached the context's queue and of which nothing has started. -/
def waitingEntry : QEntry := { entry0 with seq := 1, addr := 0x2000, words := [0xFC02, 0x0DDC], op := .vadd, vl := 8, vtype := 0x0041D }

/-- A context with one entry in its queue. -/
noncomputable def tmBusy : State := tweakCtx tm fun y => { y with queue := [waitingEntry], seq := 1, vl := 8 }

/-- AcquiresAndReleases: a word of scratch, a line in L1 and one that is not, for a byte and for eight. -/
theorem test_meets_AcquiresAndReleases :
    Plain tm [1, 2] ∧ Scope.core ≠ .thread ∧ Scope.core ≠ .row ∧ 2 ≤ Scope.cluster.rank ∧ (me tm).sbuf = [] ∧ (me tm).outL < 63 ∧
    (me tm).outS < 63 ∧ releaseReady tm = true ∧ MemOk tm ∧
    engineOwns tm (.scratch 0 1 8184) 8 = false ∧ engineOwns tm (.phys 0x3000) 8 = false ∧
    [1, 8].all (fun n => calmAt tm n needR (near (8192 - n)) (.scratch 0 1 (8192 - n)) && calmAt tm n needW (near (8192 - n)) (.scratch 0 1 (8192 - n)) &&
      calmAt tm n needR 0x3000 (.phys 0x3000) && calmAt tm n needW 0x3000 (.phys 0x3000)) = true ∧
    (let s := tweakCore tm fun k => { k with l1 := [⟨0x3000 / 32, 0, false⟩] }
     calmAt s 8 needR 0x3000 (.phys 0x3000) = true ∧ inL1 (coreAt (checkAccess s 8 needR 0x3000).2 0) (lineOf 0x3000) = true) ∧
    locPoisoned (checkAccess tm 8 needR (near 0)).2 0 (.scratch 0 1 0) = false ∧ isAperture 0x3000 = false ∧
    coreLinePoisoned (checkAccess tm 8 needR 0x3000).2 0 0x3000 = false ∧ isRemote 0 0x3000 = false := by decide +kernel

/-- FencesAndWriteBacks: accesses performed, a copy with a written byte. -/
theorem test_meets_FencesAndWriteBacks :
    releaseReady tmCopy = true ∧ MemOk tmCopy ∧ ((findLine (coreAt tmCopy 0) farLine).map fun r => r.dirty) = some 1 ∧
    (∀ q ∈ tm.door.conns, q.2.wrote.contains tm.cur = false) := by decide +kernel

/-- AtomicResults: the last doubleword of scratch and a line homed on the core's die. -/
theorem test_meets_AtomicResults :
    Plain tm [1, 2] ∧ Plain tm [3] ∧ calmAt tm 8 needRW (near 8184) (.scratch 0 1 8184) = true ∧ releaseReady tm = true ∧ (me tm).outL < 63 ∧
    locPoisoned (checkAccess tm 8 needRW (near 8184)).2 0 (.scratch 0 1 8184) = false ∧ MemOk tm ∧
    engineOwns tm (.scratch 0 1 8184) 8 = false ∧ engineOwns tm (.phys 0x3000) 8 = false ∧
    calmAt tm 8 needRW 0x3000 (.phys 0x3000) = true ∧ isAperture 0x3000 = false ∧ isRemote 0 0x3000 = false ∧ Scope.core.rank < 2 ∧
    (checkAccess tm 8 needRW 0x3000).2.poisoned.contains (lineOf 0x3000) = false := by decide +kernel

/-- CacheLineResults: no byte asked for, and 65 bytes from the last of a line. -/
theorem test_meets_CacheLineResults :
    Plain tm [1, 2, 3] ∧ (me tm).sbuf = [] ∧ (me tm).outL < 63 ∧
    [((0x301F : Word), 0), (0x301F, 65)].all (fun (va, n) => [true, false].all fun skip =>
      match rangeLines tm skip (lineStarts va n) with
      | .ok (ls, _) => !ls.isEmpty && ls.all fun l => !lineHeld tm l
      | .error _ => false) = true := by decide +kernel

/-- ControlReads: the first and last entries a task may read, one read while an instruction is queued. -/
theorem test_meets_ControlReads :
    Plain tm [1] ∧ kDenied (me tm) 0 = false ∧ kDenied (me tm) 0x3F = false ∧ kDenied (me tmHand) 0x7F = false ∧ kDenied (me tmSup) 0xFF = false ∧
    (∀ k ∈ myCtx tm, (ctxAt tm k).queue = []) ∧ isLate 0x20 = false ∧ myCtx tmBusy = some 4 ∧
    (ctxAt tmBusy 4).queue.getLast? = some waitingEntry ∧ isLate 0x0F = true ∧ (me tmBusy).handler = false := by decide +kernel

/-- ControlWrites: nothing queued, an instruction queued, and no context. -/
theorem test_meets_ControlWrites :
    Plain tm [1] ∧ kDenied (me tm) 7 = false ∧ kDenied (me tmHand) 0x49 = false ∧ kDenied (me tmHand) 0x50 = false ∧ myCtx tmFree = none ∧
    Plain tmFree [1] ∧ myCtx tm = some 4 ∧ (ctxAt tm 4).queue = [] ∧ Plain tmBusy [1] ∧ (me tmBusy).handler = false ∧ myCtx tmBusy = some 4 ∧
    (ctxAt tmBusy 4).queue.getLast? = some waitingEntry ∧ kDenied (me tmBusy) 0x0D = false ∧
    (let s := withG tm [(1, 5), (2, 6)]
     fld (readG (me s) 1) 0 3 < 6 ∧ 6 ≤ fld (readG (me s) 2) 0 3) := by decide +kernel

/-- PrivilegeTraps: the first and last index of each range; the three states. -/
theorem test_meets_PrivilegeTraps :
    0x40 ≤ (0x40 : BitVec 8).toNat ∧ (me tm).handler = false ∧ (me tm).sup = false ∧ 0x80 ≤ (0x80 : BitVec 8).toNat ∧
    0x80 ≤ (0xFF : BitVec 8).toNat ∧ (me tmHand).sup = false := by decide +kernel

/-- SystemFunctions: a supervisor slot; counters at their fields, one above, and fields of 15. -/
theorem test_meets_SystemFunctions :
    (me tm).dbg.brk = false ∧ (me tmSup).sup = true ∧
    (let s := tweak tm fun x => { x with outL := 14, outS := 63, outC := 0, outT := 1 }
     (me s).outL ≤ (14 : BitVec 4).toNat ∧ ¬(me s).outS ≤ (14 : BitVec 4).toNat ∧ (15 : BitVec 4) = 15 ∧ (me s).outC ≤ (0 : BitVec 4).toNat ∧
       ¬(me s).outT ≤ (0 : BitVec 4).toNat) := by decide +kernel

/-- TrapEntry: no instruction queued; one whose strips have still to start. -/
theorem test_meets_TrapEntry :
    (me tm).handler = false ∧ (me tm).st = .ready ∧ 127 < 128 ∧
    (∀ k ∈ myCtx tm, (ctxAt tm k).queue = [] ∧ (ctxAt tm k).trap = none ∧ ∀ q ∈ (coreAt tm (ctxCore k)).strips, q.ctx ≠ k) ∧
    (me tmBusy).handler = false ∧ myCtx tmBusy = some 4 ∧ (ctxAt tmBusy 4).queue = waitingEntry :: [] ∧ (ctxAt tmBusy 4).trap = none ∧
    allStarted (ctxAt tmBusy 4) waitingEntry = false ∧ runsOn tmBusy 4 = none ∧ (∀ t ∈ (coreAt tmBusy (ctxCore 4)).strips, t.ctx ≠ 4) := by decide +kernel

/-- TrapEntry, while a strip runs. -/
theorem test_meets_TrapEntry_strip :
    let s := tweakCore tmBusy fun k => { k with strips := [⟨4, 1, 0, 0, 0, 8, 0, 9, [], 0, [], [], 0⟩] }
    (me s).handler = false ∧ (me tm).st = .ready ∧ myCtx s = some 4 ∧ (∃ t ∈ (coreAt s (ctxCore 4)).strips, t.ctx = 4 ∧ t.way < 16) ∧
      (∀ q ∈ (coreAt tm (ctxCore 4)).strips, q.ctx ≠ 4) := by decide +kernel

/-- DoubleTrapAndReturn: the handler state; a task at an even address, with nothing queued. -/
theorem test_meets_DoubleTrapAndReturn :
    (me tmHand).handler = true ∧ (me tm).handler = false ∧ bitOf (me tm).pc 0 = false ∧
    (∀ k ∈ myCtx tm, (ctxAt tm k).queue = [] ∧ (ctxAt tm k).trap = none ∧ ∀ q ∈ (coreAt tm (ctxCore k)).strips, q.ctx ≠ k) ∧
    (me (takeTrap tm 4 0)).handler = true := by decide +kernel

/-- TranslationMaintenance: nothing that uses a removed translation, and a buffered store that does. -/
theorem test_meets_TranslationMaintenance :
    isUser (me tmHand) = false ∧ releaseReady tmHand = true ∧ Plain tmHand [1, 2] ∧ (me tmHand).invals.all (invalDone tmHand) = true ∧
    (let s := setSlot (tweak tmHand fun x => { x with invals := [⟨none, none, true, [0]⟩] }) 1
       { slot0 with sbuf := [⟨.phys 0x3000, 8, 5, 0x3000, 0⟩] }
     isUser (me s) = false ∧ releaseReady s = true ∧ Plain s [1, 2] ∧ (me s).invals.all (invalDone s) = false) := by decide +kernel

/-- The context of the acting slot under a type. -/
noncomputable def tmType (t : BitVec 20) (n : Nat) : State := tweakCtx tm fun y => { y with vtype := t, vl := n }

/-- VectorTypeResults: valid and invalid types, gangs of 1, 512 and 3, comparisons that hold and one whose number is none. -/
theorem test_meets_VectorTypeResults :
    (me tm).handler = false ∧ myCtx tm = some 4 ∧ trimming (ctxAt tm 4) = false ∧ Plain tm [1, 2, 3] ∧ vtypeValid 0x41D = true ∧
    vtypeValid 0x41E = false ∧ (1 : Word).toNat = 2 ^ 0 ∧ (512 : Word).toNat = 2 ^ 9 ∧ (∀ n ≤ 9, (3 : Word).toNat ≠ 2 ^ n) ∧
    vdcfgValid 0x3F80000000000001 = true ∧ vdcfgValid 0x7FC0000000000001 = false := by decide +kernel

/-- Whether an instruction of `page` may issue in a state and its entry passes `ok`. -/
noncomputable def issues (page : Nat) (ok : State → Ctx → VecForm → QEntry → Bool) (s : State) (i : Instr) : Bool :=
  match vecForm i with
  | some v =>
    let e := formEntry s 4 v
    decide (vecPage v.op = page ∧ CanIssue s 4 v.op (formRegs v) ∧ Countable s e) && ok s (ctxAt s 4) v e
  | none => false

/-- Whether the v registers are even where an element is 64 bits wide. -/
def evenOk (y : Ctx) (rs : List VReg) : Bool := vtSew y.vtype != 64 || rs.all fun r => r.toNat % 2 == 0

/-- VectorIssue, page 2: 32-bit and 64-bit elements, a relay, and a queue with one place left. -/
theorem test_meets_VectorIssue_page2 :
    let ok (_ : State) (y : Ctx) (v : VecForm) (e : QEntry) : Bool := evenOk y v.srcs && operandsOk y e && relayFits y e
    issues 2 ok tm (.vadd 31 1 2 VMask.all) = true ∧ issues 2 ok (tmType 0x406 4) (.vadd 30 0 2 ⟨true, false, 7⟩) = true ∧
    issues 2 ok tm (.vsext 1 2 4 VMask.all) = true ∧ issues 2 ok tm (.vmatch 1 2 3 4 VMask.all) = true ∧
    issues 2 ok (tweakCtx tm fun y => { y with queue := List.replicate 15 waitingEntry }) (.vperm 1 2 3 VMask.all) = true := by decide +kernel

/-- VectorIssue, page 3: each column's first and last format, and a `vqpack` that adapts a card in scratch and one in memory. -/
theorem test_meets_VectorIssue_page3 :
    let ok (s : State) (y : Ctx) (v : VecForm) (e : QEntry) : Bool :=
      (formatOf v.op).has (vtFmt y.vtype) && operandsOk y e && relayFits y e && evenOk y v.srcs && (destWidth v.op y.vtype e.gb != 64 ||
        v.dsts.all fun r => r.toNat % 2 == 0) && (!isAdaptive e ||
          let ea := (me s).fmtp + BitVec.ofNat 64 (80 * (e.gb.toNat / 256 % 64))
          match pinAtIssue s 4 { e with acc := [ea] } needRW ea 80 with
          | .ok q _ => decide (ea.toNat % 8 = 0 ∧ Countable s q)
          | _ => false)
    issues 3 ok (tmType 0x414 8) (.vfadd 1 2 3 VMask.all) = true ∧ issues 3 ok (tmType 0x43B 8) (.vfmul 1 2 3 VMask.all) = true ∧
    issues 3 ok (withG (tmType 0x416 8) [(5, 3)]) (.vfcvt 1 2 5 VMask.all) = true ∧
    issues 3 ok (withG (tmType 0x40D 8) [(5, 7)]) (.vi2f 1 2 5 VMask.all) = true ∧
    issues 3 ok (withG (tmType 0x45B 32) [(5, 3)]) (.vqpack 1 2 5) = true ∧
    [near 8112, 0x3000].all (fun f => issues 3 ok (tweak (withG (tmType 0x45B 32) [(5, 0x23)]) fun x => { x with fmtp := f }) (.vqpack 1 2 5)) = true := by
  decide +kernel

/-- VectorIssue, page 4: scratch, memory, 64-bit elements and a row form. -/
theorem test_meets_VectorIssue_page4 :
    let ok (_ : State) (y : Ctx) (v : VecForm) (e : QEntry) : Bool :=
      evenOk y v.srcs && memFmtOk v.op y.vtype && memOwnOk e && memAligned e && !(isRowForm v.op && isNear e.ga)
    issues 4 ok (withG (tmType 0x41D 8) [(1, near 8188)]) (.vld 31 1 2 VMask.all) = true ∧
    issues 4 ok (withG (tmType 0x406 8) [(1, 0x3008), (2, 8)]) (.vsts 30 1 2 VMask.all) = true ∧
    issues 4 ok (withG (tmType 0x41D 64) [(1, 0x3100)]) (.vldrow 1 1 2 VMask.all) = true ∧
    issues 4 ok (withG (tmType 0x42C 128) [(1, 0x3100), (4, 1)]) (.vamorow 1 1 2 4 VMask.all) = true := by decide +kernel

/-- A context with 32 columns of weights of 16 bits and bound rows resident, and both buffers held with 4 rows that fit them. -/
noncomputable def tmBand : State :=
  let b : BandDesc := ⟨8, 17, 20, 32, 32, true⟩
  let h : Hold := ⟨true, 20, 4, 32, 32, [], []⟩
  tweakCtx (tmType 0x41D 8) fun y => { y with band := b, bandIssue := b, holds := [(0, h), (1, h)], holdsIssue := [(0, h), (1, h)] }

/-- An instruction of page 5 that a state lets issue joins the queue as its entry, changed by `q`. -/
def joins (s : State) (i : Instr) (q : QEntry → QEntry) : Prop :=
  ∃ v, vecForm i = some v ∧ vecPage v.op = 5 ∧ CanIssue s 4 v.op (formRegs v) ∧ Countable s (q (formEntry s 4 v)) ∧
    productAdmits s 4 (formEntry s 4 v) (q (formEntry s 4 v)) s

/-- ProductIssueAndChecks: each instruction of page 5 that pins nothing, where it joins. -/
theorem test_meets_ProductIssueAndChecks_joins :
    joins tm (.tzero 3) id ∧ joins tm (.ptree 1 2) id ∧ joins (withG tmBand [(2, 3)]) (.pbnd 1 2) id ∧
    joins (withG tm [(2, 9)]) (.tmma 0 1 2) id ∧
    joins (withG tm [(1, near 0), (2, BitVec.ofNat 64 (4096 * 2 ^ 44 + 64 * 2 ^ 28))]) (.tmma 0 1 2) id ∧
    joins (withG tm [(2, 0x10)]) (.tacc 0 31 2) id ∧ joins (withG tm [(2, 0x80)]) (.trow 7 1 2) id ∧
    joins (withG tm [(1, near 0), (2, 0x20100014)]) (.prow 1 2) id ∧
    joins (withG tm [(1, 0x3000), (2, 0x20011214)]) (.pload 8 1 2) (fun e => { e with band := ⟨8, 17, 20, 32, 32, true⟩ }) ∧
    joins (withG tmBand [(1, 7)]) (.mma 25 1 VMask.all) (fun e => { e with acc := [4] }) ∧
    joins (withG (tweakCtx tmBand fun y => { y with vdcfg := 1 }) [(1, 0)]) (.mmav 4 1 VMask.all) (fun e => { e with acc := [4] }) := by
  refine ⟨?_, ?_, ?_, ?_, ?_, ?_, ?_, ?_, ?_, ?_, ?_⟩ <;>
    refine ⟨_, rfl, rfl, by decide +kernel, by decide +kernel, ?_⟩ <;> dsimp only [productAdmits, bandAgrees, formEntry, newEntry, id] <;>
    first
      | decide +kernel
      | exact ⟨by decide +kernel, by decide +kernel, by decide +kernel, by decide +kernel, by decide +kernel, by decide +kernel,
          by decide +kernel, by decide +kernel, .inl (by decide +kernel)⟩

/-- Whether a check that pins pages passes with room for its counters. -/
def pinsOk (r : Checked) : Bool :=
  match r with
  | .ok e s => decide (Countable s e)
  | _ => false

/-- ProductIssueAndChecks: the instructions that pin pages, and the operands each check refuses. -/
theorem test_meets_ProductIssueAndChecks :
    let p := issues 5
    [near 7680, 0x3000, 0xFE08].all (fun a =>
      p (fun s _ _ e => e.ga.toNat % 8 == 0 && pinsOk (pinAtIssue s 4 e needR e.ga 512)) (withG tm [(1, a)]) (.tld 0 1) &&
      p (fun s _ _ e => e.ga.toNat % 8 == 0 && pinsOk (pinAtIssue s 4 e needW e.ga 512)) (withG tm [(1, a)]) (.tst 0 1)) = true ∧
    p (fun s y _ e => (checkMma y e).any fun q => mmavOk y q && readsVerdict q && pinsOk (pinAtIssue s 4 q needR (q.vdcfg &&& ~~~7) 8))
      (withG (tweakCtx tmBand fun y => { y with vdcfg := 0x3005 }) [(1, 0)]) (.mmav 4 1 VMask.all) = true ∧
    (ctxAt tm 4).bandIssue.regs = 0 ∧ fld (0x20010014 : Word) 12 6 = 16 ∧ fld (0x20000014 : Word) 12 6 = 0 ∧ fld (0x20000014 : Word) 16 5 = 0 ∧
    16 < fld (0x20110014 : Word) 16 5 := by decide +kernel

/-- VectorQueueFrame, VectorIssueStops. -/
theorem test_meets_VectorIssueStops :
    myCtx tm = some 4 ∧ (me tmHand).handler = true ∧ (me tmFree).handler = false ∧ myCtx tmFree = none ∧
    (let s := tweakCtx tm fun y => { y with queue := [{ waitingEntry with op := .vldff }] }
     (me s).handler = false ∧ myCtx s = some 4 ∧ trimming (ctxAt s 4) = true) ∧
    (let s := tweakCtx tm fun y => { y with queue := List.replicate 16 waitingEntry }
     trimming (ctxAt s 4) = false ∧ 16 ≤ (ctxAt s 4).queue.length ∧ vtSew (ctxAt s 4).vtype ≠ 64) ∧
    (let s := tmType 0x406 4
     trimming (ctxAt s 4) = false ∧ vtSew (ctxAt s 4).vtype = 64 ∧ ∃ r ∈ ([2, 31, 4] : List VReg), r.toNat % 2 = 1) ∧
    owesG .vredsum = true ∧ owesG .vadd = false ∧ portCode (me tm) 31 = 0 := by decide +kernel

/-- VectorIssueStops, a full queue and a counter at its limit behind operands that all pass. -/
theorem test_meets_VectorIssueStops_full :
    (∃ v s, vecForm (.vadd 31 1 2 VMask.all) = some v ∧ (me s).handler = false ∧ myCtx s = some 4 ∧ trimming (ctxAt s 4) = false ∧
      Plain s (formRegs v) ∧ vecAdmits s 4 v (formEntry s 4 v) s ∧ 16 ≤ (ctxAt s 4).queue.length) ∧
    ∃ v s, vecForm (.vld 31 1 2 VMask.all) = some v ∧ (me s).handler = false ∧ myCtx s = some 4 ∧ trimming (ctxAt s 4) = false ∧
      Plain s (formRegs v) ∧ vecAdmits s 4 v (formEntry s 4 v) s ∧ (ctxAt s 4).queue.length < 16 ∧ ¬Countable s (formEntry s 4 v) :=
  ⟨⟨_, tweakCtx tm fun y => { y with queue := List.replicate 16 waitingEntry }, rfl, by decide +kernel, by decide +kernel, by decide +kernel,
     by decide +kernel, .inl (by decide +kernel), by decide +kernel⟩,
   ⟨_, withG (tweak (tmType 0x41D 8) fun x => { x with outL := 63 }) [(1, near 8160)], rfl, by decide +kernel, by decide +kernel, by decide +kernel,
     by decide +kernel, .inr (.inr (.inl (by decide +kernel))), by decide +kernel, by decide +kernel⟩⟩

/-- A context whose queue holds one entry of an instruction. -/
noncomputable def tmEntry (t : BitVec 20) (n : Nat) (op : VOp) (f : F3Fields) : State :=
  tweakCtx (tmType t n) fun y => { y with queue := [{ waitingEntry with op := op, f := f, vl := n, vtype := t }], seq := 1 }

/-- Nothing held back, a strip slot free and a strip that the arbitration picks. -/
noncomputable def stripPicked (s : State) : Bool :=
  (heldStep s 0).isNone && decide (((coreAt s 0).strips.filter fun t => decide (t.way < 16)).length < min (coreAt s 0).stripSlots (slotsNow s)) &&
  match drrPick s 0 .strips ((stripContenders s 0).map (·.1)) with
  | (_, some pick) => ((stripContenders s 0).find? fun q => q.1.ctx == pick.ctx).isSome
  | _ => false

/-- The entry at the head of the context's queue. -/
noncomputable def headEntry (s : State) : QEntry := (ctxAt s 4).queue.headD entry0

/-- Whether the context of `tmEntry` is alone on its core with a strip of its entry that has an active element. -/
noncomputable def aloneStrip (s : State) : Bool :=
  let e := headEntry s
  decide (Alone s 0 4 e) && (nextStrip (ctxAt s 4) e).any fun p => stripActive (ctxAt s 4) e p

/-- StripsRun: one element, a full array and more; a strip on its way; an instruction of the tree with elements and with none, and as its
one strip drains. -/
theorem test_meets_StripsRun :
    [1, 8, 512, 1000].all (fun n =>
      let s := tmEntry 0x41D n .vadd ⟨5, 6, 7, 0, VMask.all⟩
      stripPicked s && aloneStrip s && decide (relayNeed (headEntry s) = 0 ∧ 0 < (coreAt s 0).stripSlots ∧ 0 < slotsNow s)) = true ∧
    opKind .vadd = .lane ∧ isMemOp .vadd = false ∧ vecPage .vadd = 2 ∧
    (let s := after (exec (.stripStart 0) (tmEntry 0x41D 8 .vadd ⟨5, 6, 7, 0, VMask.all⟩)) tm
     ((coreAt s 0).strips.find? fun q => q.way == 0 && q.endAt != 0).isSome = true) ∧
    (let s := tmEntry 0x41D 0 .vredsum ⟨5, 6, 7, 0, VMask.all⟩
     Alone s 0 4 (headEntry s) ∧ (headEntry s).op = .vredsum ∧ (headEntry s).vl ≤ (headEntry s).start) ∧
    (let s := tmEntry 0x41D 8 .vredsum ⟨5, 6, 7, 0, VMask.all⟩
     let e := headEntry s
     let t := after (exec (.treePass 0) s) tm
     aloneStrip s = true ∧ e.op = .vredsum ∧ (ctxAt t 4).queue = [e] ∧ e.st = .queued ∧
       (coreAt t 0).strips.map (fun w => (w.way, w.ctx, w.seq, w.endAt)) = [(16, 4, e.seq, 0)] ∧
       (nextStrip (ctxAt t 4) e).any (fun p => decide (p.way < 16 ∧ e.vl ≤ p.hi ∧ ∀ q ∈ stripsOf (ctxAt t 4), q.2.2 ≤ p.hi)) = true) := by
  decide +kernel

/-- A context of FP32 elements: v1 holds 1, 2, a hook and five zeros, v2 a quiet NaN first. -/
def floats : Ctx := { loadCtx with v := [(1, [0x3F800000, 0x40000000, 0x7FA10000, 0, 0, 0, 0, 0]), (2, [0x7FC00000, 0x3F800000, 0, 0, 0, 0, 0, 0])] }

/-- An entry of an element-wise or cross-element instruction of page 3 on v3, v1 and v2. -/
def floatEntry (op : VOp) (t : BitVec 20) (gb : Word) (k : VMask) : QEntry := { entry0 with op := op, f := ⟨3, 1, 2, 0, k⟩, vl := 8, vtype := t, gb := gb }

/-- FloatElementResults: elements with a hook and without, active and not; blocks and groups of each kind; reductions of no element and
of some, with a NaN and without; candidates whose keys are numbers. -/
theorem test_meets_FloatElementResults :
    ([(.vfadd, 0), (.vfaddS, 0x3FF0000000000000), (.vfcvt, 0x35), (.vf2i, 6), (.vhksel, 0), (.vfceq, 0), (.vhktest, 0), (.vsfu, 0)] : List (VOp × Word)).all (fun (op, g) =>
      let e := floatEntry op 0x41D g VMask.all
      decide (vtSew e.vtype ≤ 64 ∧ opKind e.op = .lane ∧ isFloatOp e.op = true ∧ e.op ∉ [VOp.vqscale, .vqpack, .vfwht] ∧ firstElem e ≤ 0 ∧
        destWidth e.op e.vtype e.gb ≤ 64)) = true ∧
    [0, 1, 2].map (fun i => isHook ((src floats 1).at 32 i)) = [false, false, true] ∧
    [0x03, 0x13].all (fun g =>
      let e := { floatEntry .vqpack 0x45B g VMask.all with vl := 32 }
      decide (isAdaptive e = false ∧ (blockFmt (vtFmt e.vtype)).isSome = true ∧ vtSew e.vtype ≤ 16 ∧ fld e.gb 0 4 = 3 ∧ unitOf e = 32)) = true ∧
    (tab 32 0 id).any (fun i => isHook ((src floats 1).at 32 i)) = true ∧ (tab 32 0 id).any (fun i => isHook ((src floats 2).at 32 i)) = false ∧
    blockFmt (vtFmt (0x41D : BitVec 20)) = none ∧ 4 % 2 ^ ((2 : Word).toNat % 16) = 0 ∧ 4 + 2 ^ ((2 : Word).toNat % 16) ≤ 8 ∧
    ((tab 8 0 id).filter fun i => predicate (maskBits floats 0) ⟨true, false, 0⟩ i) = [] ∧
    ((tab 8 0 id).filter fun i => predicate (maskBits floats 0) VMask.all i && !isHook ((src floats 1).at 32 i)) = [0, 1, 3, 4, 5, 6, 7] ∧
    (treeRoot (clog2 8) fp32 ⟨.rne, false, false, 0⟩ (tab 8 0 fun i => if i = 2 then none else some (decNum fp32 ((src floats 1).at 32 i))) 0).1.isSome = true ∧
    ((src floats 1).at 32 0, (src floats 2).at 32 0, isNan (decNum fp32 0x3F800000), isNan (decNum fp32 0x7FC00000)) = (0x3F800000, 0x7FC00000, false, true) ∧
    (floatEntry .vtopk 0x41D 2 VMask.all).start < (floatEntry .vtopk 0x41D 2 VMask.all).vl ∧
    ((tab 8 0 id).all fun i => let p := (src floats 1).at 32 i; !isNan (if isHook p then decNum bf16 (p % 2 ^ 16) else decNum fp32 p)) = true := by decide +kernel

/-- The context's entry over `n` elements of type `t` at an address, under mask m1 that holds `m`, memory's first page pinned and element
`i` of its index vector i. -/
noncomputable def tmVec (op : VOp) (t : BitVec 20) (n : Nat) (a : Word) (m : List Bool) : State :=
  let s := tmEntry t n op ⟨6, 1, 2, 3, ⟨true, false, 1⟩⟩
  let s := tweakCtx s fun y => { y with v := [(2, (List.range n).map (BitVec.ofNat 32))], m := [(1, m)], queue := y.queue.map fun e => { e with ga := a, gc := 9 } }
  tweakCore s fun k => { k with pins := [⟨⟨0, false, 0, 0xF0⟩, 4, 1, false⟩] }

/-- Whether element `i` of the entry at `ea` has a place that reads, `n` bytes of it. -/
noncomputable def placed (s : State) (ea : Word) (n : Nat) : Bool :=
  let e := headEntry s
  match findVec s 4 e (pinsOf s 4 e.seq) (memNeed e.op) ea with
  | .place l => !badAt s 0 l n && (match l with
    | .phys pa => !isAperture pa && (n != 256 || pa % 256 == 0) && (List.range n).all fun k => !isRemote 0 (pa + k) && !owesHome s 0 (pa + k)
    | .scratch _ _ _ => true)
  | _ => false

/-- Whether the entry is one that VectorMemoryResults speaks of. -/
noncomputable def vecCalm (s : State) : Bool :=
  let e := headEntry s
  decide (e.seen = [] ∧ e.acc = [] ∧ e.snapV = [] ∧ s.door.remotes = [] ∧ blockFmt (vtFmt e.vtype) = none ∧ vtSew e.vtype ≤ 64 ∧
    memFmtOk e.op e.vtype = true ∧ MemOk s)

/-- VectorMemoryResults: every element of a strip at a place of scratch or of memory that reads, elements of half a byte among them, rows
of one slot and of two; an element past scratch, at a poisoned block, and one whose line lies on another die. -/
theorem test_meets_VectorMemoryResults :
    ([(.vld, 0x41D), (.vlds, 0x41D), (.vldx, 0x41D), (.vldff, 0x41D), (.vldw, 0x41D), (.vldsync, 0x41D), (.vst, 0x41D), (.vsts, 0x41D),
        (.vstx, 0x41D), (.vstxa, 0x405)] : List (VOp × BitVec 20)).all (fun (op, t) => [near 64, near 8160, 0x3000].all fun a =>
      let s := tmVec op t 8 a (List.replicate 8 true)
      vecCalm s && (List.range 8).all fun i => placed s (a + BitVec.ofNat 64 (4 * i)) 4) = true ∧
    (let s := tmVec .vst 0x402 8 (near 64) (List.replicate 8 true)
     vecCalm s && (List.range 8).all fun i => placed s (near (64 + i * 4 / 8)) 1) = true ∧
    [VOp.vldrow, .vstrow].all (fun op =>
      let s := tmVec op 0x41D 128 0x3000 (List.replicate 128 true)
      vecCalm s && [0, 64].all fun i => placed s (0x3000 + BitVec.ofNat 64 (256 * (i / 64))) 256) = true ∧
    (let s := tmVec .vamorow 0x42C 256 0x3000 [true]
     vecCalm s && decide (vtSew (headEntry s).vtype = 16) && placed s 0x3000 256) = true ∧
    (let s := tmVec .vld 0x41D 8 (near 8188) (List.replicate 8 true)
     vecCalm s && placed s (near 8188) 4 && (match findVec s 4 (headEntry s) (pinsOf s 4 1) needR (near 8192) with
       | .fault _ => true
       | _ => false)) = true ∧
    (let s := tweakCore (tmVec .vld 0x41D 8 (near 32) (List.replicate 8 true)) fun k => { k with scratch := [(1, ⟨[39], [], [], [1]⟩)] }
     badAt s 0 (.scratch 0 1 32) 4) = true ∧
    (let s := tweakCore (tmVec .vldsync 0x41D 8 0x3000 (List.replicate 8 true)) fun k => { k with pins := [⟨⟨0, false, 0, 0x40000000F0⟩, 4, 1, false⟩] }
     findVec s 4 (headEntry s) (pinsOf s 4 1) needR 0x3000 = .miss) := by decide +kernel

theorem test_meets_VectorMemoryResults_owned : ∀ l n, engineOwns (tmVec .vld 0x41D 8 (near 64) [true]) l n = false :=
  (owns_nothing _ (by decide +kernel) (by decide +kernel) (by decide +kernel)).1

/-- An `mma` of one row of eight INT8 elements in two blocks of 8, over a band of 16 rows of registers, and its FP8 counterpart. -/
def mmaEntry (ft : Nat) (op : VOp) : QEntry :=
  { entry0 with op := op, f := ⟨3, 0, 0, 0, VMask.all⟩, vl := 8, vtype := 0x41D, acc := [1], band := ⟨8, 8, ft, 16, 8, true⟩, vdcfg := 1 }

/-- A context of identity maps that holds the entry's row. -/
noncomputable def tmMma (ft : Nat) : State :=
  tweakCtx tm fun y => { y with vl := 8, v := [(3, [0x3F800000, 0x7FA10000])], holds := [(0, ⟨true, ft, 1, 16, 8, List.replicate 16 0x38, [120, 120]⟩)] }

/-- ProductResults: identity maps; an integer class, whose held elements and weights are the integers of their codes; a float class with a
hook and without; and `ptree` of whole gangs. -/
theorem test_meets_ProductResults :
    (∀ ft j, ∀ q < bandBlocks (mmaEntry ft .mma).band, blockAt (ctxAt (tmMma ft) 4) (arrayOf (stripGroups (ctxAt (tmMma ft) 4) 0) j) q <
      bandBlocks (mmaEntry ft .mma).band) ∧
    (∃ za : Nat → Int, ∀ k, heldRow (heldFor (ctxAt (tmMma 3) 4) (mmaEntry 3 .mma)) 4 0 0 0 k = numOfInt (za k)) ∧
    (∃ zb : Nat → Nat → Nat → Int, ∀ j q, ∀ i < 8, (columnBlock (mmaEntry 3 .mma).band (columnBits (bandRegs (ctxAt (tmMma 3) 4) (mmaEntry 3 .mma).band) j) q)[i]? =
      some (numOfInt (zb j q i))) ∧
    ftInt 3 = true ∧ ftInt 0x33 = false ∧ readsVerdict (mmaEntry 0x33 .mmav) = false ∧ [0, 1].map (fun j => isHook (((look (ctxAt (tmMma 0x33) 4).v 3 []).getD j 0).toNat)) = [false, true] ∧
    (∀ f < 8, f % 4 = 0 → f + 4 ≤ 8) := by
  refine ⟨fun ft j q h => ?_, ⟨_, fun k => rfl⟩, ⟨fun j q i => sInt 8 (columnBits (bandRegs (ctxAt (tmMma 3) 4) (mmaEntry 3 .mma).band) j / 2 ^ ((q * 8 + i) * 8) % 2 ^ 8), fun j q i h => ?_⟩, by decide +kernel, by decide +kernel, by decide +kernel, by decide +kernel, by decide +kernel⟩
  · have : (ctxAt (tmMma ft) 4).blockMap = [] := by rfl
    simpa [blockAt, this, look] using h
  · unfold columnBlock
    exact (tab_get _ _ _ i h).trans rfl

/-- A strip of entry 1 of the context that awaits its verdict read. -/
def waitingStrip : Strip := ⟨4, 1, 0, 0, 0, 8, 0, 0, [], 0, [], [], 0⟩

/-- UnitsRun, the row-buffer pair: a relay of 32-bit and of 64-bit elements with the buffers free, picked and alone. -/
theorem test_meets_UnitsRun_rows :
    [0x41D, 0x406].all (fun t =>
      let s := tmEntry t 4 .vmul ⟨6, 6, 8, 0, VMask.all⟩
      let e := headEntry s
      aloneStrip s && decide (relayNeed e ≠ 0 ∧ ((coreAt s 0).rowHold.filter fun h => isRelay 4 h) = [] ∧
        (coreAt s 0).rowHold.length + relayNeed e ≤ 2) &&
      match drrPick s 0 .rows ((rowContenders s 0).map (·.1)) with
      | (u, some pick) =>
        match (rowContenders s 0).find? (fun q => q.1.ctx == pick.ctx) with
        | some (_, .relay e _) => decide ((coreAt u 0).rowHold.length + relayNeed e ≤ 2)
        | _ => false
      | _ => false) = true ∧ opKind .vmul = .lane ∧ isMemOp .vmul = false ∧ vecPage .vmul = 2 := by decide +kernel

/-- UnitsRun, a verdict read: a strip that awaits the key of a word in the last doubleword of scratch. -/
theorem test_meets_UnitsRun_verdict :
    let e := { waitingEntry with op := .mmav, acc := [1], ga := 0, band := ⟨8, 17, 20, 32, 32, true⟩, vdcfg := near 8184 ||| 5 }
    let s := tweakCore (tweakCtx tm fun y => { y with queue := [e] }) fun k => { k with strips := [waitingStrip] }
    ctxCore 4 = 0 ∧ waitingStrip.ctx = 4 ∧ waitingStrip.way < 16 ∧ waitingStrip.reads = [] ∧ waitingStrip.begun ≤ cycleOf s 0 ∧
      e.seq = waitingStrip.seq ∧ readsVerdict e = true ∧ pinWaits s 4 e.seq (e.vdcfg &&& ~~~7) = false ∧
      (match pinnedLoc s 4 e.seq needR (e.vdcfg &&& ~~~7) with
       | some l => (apertureOf l).isNone && !locPoisoned (acquireAt s 0 .package) 0 l
       | none => false) = true := by decide +kernel

/-- UnitsRun, pins: a request for a page that translates, and one of an entry that has gone. -/
theorem test_meets_UnitsRun_pins :
    let w : PinWait := ⟨4, 1, 0⟩
    let e := { waitingEntry with op := .vld, f := ⟨5, 1, 2, 0, VMask.all⟩, ga := 0x3000, vtype := 0x41D }
    let s := tweakCore (tweakCtx tm fun y => { y with queue := [e] }) fun k => { k with pinWait := [w] }
    let s0 := setCore s 0 { coreAt s 0 with pinWait := [] }
    (coreAt s 0).pinWait.find? (fun v => decide (v.until_ ≤ cycleOf s 0)) = some w ∧ w.until_ ≤ cycleOf s 0 ∧
      (ctxAt s w.ctx).queue.find? (fun q => q.seq == w.seq) = some e ∧ pinsPages e = true ∧ e.op ≠ .vldw ∧ e.pinned = 0 ∧
      (nextStrip (ctxAt s 4) e).any (fun p =>
        let a := pinSet s0 0 (pageAddrs [] (pinAddrs (ctxAt s 4) e p.lo e.vl))
        decide (0 < p.top ∧ a.mig = false ∧ a.pins.length + a.fails ≤ 256 ∧ unitPins s0 0 + a.pins.length ≤ 3840) &&
          (pinnedFor s0 4 e p true).2) = true ∧
      (ctxAt (tweakCtx s fun y => { y with queue := [] }) w.ctx).queue.find? (fun q => q.seq == w.seq) = none := by decide +kernel

/-- UnitsRun, the tile unit: a `tzero` alone. -/
theorem test_meets_UnitsRun_tile :
    let s := tmEntry 0x41D 8 .tzero ⟨7, 0, 0, 0, VMask.all⟩
    ((coreAt s 0).strips.find? fun t => t.way == 17) = none ∧ Alone s 0 4 (headEntry s) ∧ (headEntry s).op = .tzero ∧
      (match drrPick s 0 .tile ((tileContenders s 0).map (·.1)) with
       | (_, some k) => ((tileContenders s 0).find? fun q => q.1.ctx == k.ctx).isSome
       | _ => false) = true := by decide +kernel

/-- EntriesEndOrTrap: a reduction done, and a trap that is due. -/
theorem test_meets_EntriesEndOrTrap :
    (let e := { waitingEntry with op := .vredsum, f := ⟨5, 6, 7, 0, VMask.all⟩, st := .done, result := some 9 }
     let s := tweakCtx tm fun y => { y with queue := [e] }
     (ctxAt s 4).queue = e :: [] ∧ ctxCore 4 = 0 ∧ entryEnded s 4 e = true ∧ (ctxAt s 4).trap = none ∧ (ctxAt s 4).frozen = false ∧
       (ctxAt s 4).bound = some 0 ∧ e.faults = [] ∧ e.late = none ∧ e.result = some 9 ∧ owesG e.op = true ∧ e.f.d ≠ 0 ∧
       portCode (slotAt s 0) e.f.d = 0 ∧ (slotAt s 0).late = [] ∧ (slotAt s 0).flagWrites = [] ∧ (slotAt s 0).dbg.vcen = false ∧
       (slotAt s 0).dbg.vcHit = false ∧ (slotAt s 0).dbg.stepping = false) ∧
    (let z : VTrap := ⟨0x2001, 16, true, 5⟩
     let s := tweakCtx tm fun y => { y with trap := some z }
     ctxOf s (16 * 0 + 0) = some 4 ∧ (ctxAt s 4).trap = some z ∧ (ctxAt s 4).frozen = false ∧ (slotAt s (16 * 0 + 0)).handler = false ∧
       (slotAt s (16 * 0 + 0)).st = .ready ∧ (slotAt s (16 * 0 + 0)).freezing = none ∧ z.cause ≠ 8 ∧ z.cause < 128 ∧ (ctxAt s 4).queue = [] ∧
       (∀ w ∈ (coreAt s (ctxCore 4)).strips, w.ctx ≠ 4) ∧
       (let u := tweakCore s fun k => { k with strips := [⟨4, 1, 0, 0, 0, 8, 0, 9, [], 0, [], [], 0⟩] }
        (ctxAt u 4).trap = some z ∧ ∃ w ∈ (coreAt u (ctxCore 4)).strips, w.ctx = 4 ∧ w.way < 16)) := by decide +kernel

/-- TaskResults: an even entry with 63 packets waiting, an odd one, a bad handle; a handle of 0, a good and a bad one; a task with
nothing outstanding; a free slot and a packet that waits. -/
theorem test_meets_TaskResults :
    (let s := tweakCore (withG tm [(1, 0x2000), (4, 0x2001), (5, 0x3001), (6, 0x3000)]) fun k =>
       { k with wings := List.replicate 63 ⟨0x2000, 5, 0, 0, 0, 1, 1⟩ }
     (me s).handler = false ∧ (me s).sup = false ∧ Plain s [1, 2, 3, 4, 5, 6] ∧ bitOf (readG (me s) 1) 0 = false ∧ readG (me s) 3 = 0 ∧
       (prodAt s (me s).prodid).isSome = true ∧ (coreAt s 0).wings.length < 64 ∧ releaseReady s = true ∧ bitOf (readG (me s) 4) 0 = true ∧
       readG (me s) 5 ≠ 0 ∧ badHandle (readG (me s) 5) = true ∧ (me s).waiting = .none ∧ readG (me s) 6 ≠ 0 ∧
       badHandle (readG (me s) 6) = false ∧ calmAt s 8 needR 0x3000 (.phys 0x3000) = true ∧ isAperture 0x3000 = false ∧ (me s).sbuf = [] ∧ storeAhead s (.phys 0x3000) 8 = false) ∧
    ((me tm).handle = 0 ∧ (me tm).outT = 0 ∧ (me tm).outC = 0 ∧ (me tm).outS = 0 ∧ (me tm).outL = 0 ∧
      (∀ k ∈ myCtx tm, (ctxAt tm k).queue = []) ∧ sfuOut tm tm.cur = false ∧ releaseReady tm = true) ∧
    (let t : TaskPacket := ⟨0x2000, 5, 0, 0, 0, 1, 1⟩
     let s := tweakCore tm fun k => { k with wings := [t] }
     let u := takeTurn s (16 * 0 + 15)
     (slotAt s (16 * 0 + 15)).sup = false ∧ (slotAt s (16 * 0 + 15)).st = .free ∧ (nextSaved u 0).isNone = true ∧
       (search u 0).map (·.1) = some t ∧ (coreAt s 0).saved = [] ∧ (coreAt s 0).wings = [t] ∧
       (prodAt s t.prodid).map (fun p => eligible p 0) = some true) := by
  decide +kernel

/-- ContextResults: a context bound, one free and none free; requests within and beyond 7 and 6. -/
theorem test_meets_ContextResults :
    Plain tmSup [1, 2, 3] ∧ (me tmSup).handler = false ∧ (me tmSup).sup = true ∧ (me tmSup).vctx = none ∧
    Plain tm [1, 2, 3] ∧ (me tm).handler = false ∧ (me tm).sup = false ∧ (me tm).vctx = some 0 ∧ myCtx tm = some 4 ∧ (ctxAt tm 4).queue = [] ∧
    (me tmFree).vctx = none ∧ myCtx tmFree = none ∧ freeCtx tmFree tmFree.cur = none ∧ bitOf (readG (me (withG tmFree [(1, 1)])) 1) 0 = true ∧
    (let s := tweakCtx tmFree fun y => { y with bound := none }
     (me s).vctx = none ∧ freeCtx s s.cur = some 0) ∧
    7 < (8 : Word).toNat ∧ 6 < (7 : Word).toNat ∧ (7 : Word).toNat ≤ 7 ∧ (4 : Word).toNat ≤ 4 ∧ (6 : Word).toNat = 6 := by decide +kernel

/-- How an operand of `prodctl` is checked: its status, or 0 for a target. -/
noncomputable def ctlOf (s : State) (op w : Word) : Nat :=
  match ctlCheck s op w with
  | .stat n => n
  | .target _ _ => 0

/-- ProductionControl: a refusal of each status; each operation with a target; a misaligned and an aligned block, refused and not. -/
theorem test_meets_ProductionControl :
    Plain tm [1, 2, 3] ∧ ctlOf tm 7 0 = 3 ∧ ctlOf tm 0 (2 ^ 28) = 3 ∧ ctlOf tm 0 0x20000 = 2 ∧ prodAt tm 2 = none ∧
    ([(0, 0), (1, 255), (2, 0), (3, 0), (4, 0), (5, 1), (6, 0)] : List (Word × Word)).all (fun (op, w) =>
      ctlOf tmSup op (w + 0x10000) == 0 && decide (fld (w + 0x10000) 16 12 = 1 ∧ fld (w + 0x10000) 28 36 = 0)) = true ∧
    (prodAt tmSup 1).map (fun p => (ctlWaits tmSup 0 1 p, ctlWaits tmSup 4 1 p)) = some (none, none) ∧ ctlOf tm 4 0 = 0 ∧ (me tm).prodid = 1 ∧
    (prodAt tmSup 1).isSome = true ∧ (me tmSup).sup = true ∧ mayLaunch tm = false ∧ mayLaunch tmSup = true ∧
    (let s := withG tmSup [(1, 0x3020), (2, 0x3000)]
     Plain s [1, 2, 3] ∧ releaseReady s = true ∧ (readG (me s) 1).toNat % 64 ≠ 0 ∧ (readG (me s) 2).toNat % 64 = 0 ∧
       (match blockPlaces (releaseAt s 0 .system) needRW (blockPieces 6 0x3000 128) with
       | .ok (ls, u) => ls.all (fun q => (apertureOf q.1).isNone && !locPoisoned u 0 q.1) &&
           (match (checkAddr u 0 (me s).prodid true (isUser (me s)) needRW (0x3000 + 0x50)).1 with
            | .ok _ _ => true
            | _ => false) &&
           (match launchStatus u ((ls.map fun q => locBytes u 0 q.1 q.2).flatten) with
            | .error n => n != 0
            | .ok _ => false)
       | .error _ => false) = true) := by decide +kernel

/-- A launch block for core 1: one way, one context, one granule, class 3, SHARE 1. -/
noncomputable def tmBlock : State :=
  { tmSup with mem := memPutAll (memPutAll (memPutAll tmSup.mem 0x3000 (leBytes 8 0x2000)) 0x3010 (leBytes 4 0x80010001)) 0x3020 [1, 1, 1, 3, 0, 1] }

/-- ProductionControl: a block whose launch goes through. -/
theorem test_meets_launch :
    (match blockPlaces (releaseAt tmBlock 0 .system) needRW (blockPieces 6 0x3000 128) with
     | .ok (ls, u) =>
       (match launchStatus u ((ls.map fun q => locBytes u 0 q.1 q.2).flatten) with
        | .ok n => n == 2
        | .error _ => false)
     | .error _ => false) = true := by decide +kernel

/-- ProductionControl: that block, condition by condition. -/
theorem test_meets_launch_conditions :
    let s := withG tmBlock [(1, 0x3000)]
    mayLaunch s = true ∧ Plain s [1, 3] ∧ releaseReady s = true ∧ (readG (me s) 1).toNat % 64 = 0 ∧
      (match blockPlaces (releaseAt s (myCore s) .system) needRW (blockPieces 6 (readG (me s) 1) 128) with
       | .ok (ls, u) =>
         let bs := (ls.map fun q => locBytes u 0 q.1 q.2).flatten
         let cs := coreSet (launchRanges bs)
         (ls.all fun q => (apertureOf q.1).isNone && !locPoisoned u 0 q.1 && !engineOwns u q.1 q.2) &&
         (match checkAddr u (myCore s) (me s).prodid (me s).sup (isUser (me s)) needRW (readG (me s) 1 + 0x50) with
          | (.ok _ _, v) =>
            !badBlock bs && !cs.isEmpty && blockNat bs 0x48 8 == 0 && (cs.all fun c => coreExists v c && !allRetired (coreAt v c) &&
              decide (blockNat bs 0x20 1 ≤ (freeWays (coreAt v c)).length ∧ blockNat bs 0x22 1 + 2 ≤ (l1Granules (coreAt v c)).length)) &&
            ((tab 8 0 id).all fun k => decide (dieCurtains v k + blockNat bs 0x28 2 ≤ 256)) &&
            decide (packageCurtains v + blockNat bs 0x2A 2 ≤ 64 ∧ (dieAt v (coreDie (cs.headD 0))).board.length < 256 ∧ prodAt v 2 = none ∧
              prodAt v 1 ≠ none)
          | _ => false)
       | .error _ => false) = true := by decide +kernel

/-- A production with four curtains and two of the package's. -/
noncomputable def tmCurtains : State := { tm with prods := [(1, { loadProd with curtains := 4, pcurtains := 2, cores := [(0, 0)] })] }

/-- CurtainResults: the last curtain and the largest count; an index past the allotment, one past the tables, a count too large and
one of 0; arrivals of each kind at the home. -/
theorem test_meets_CurtainResults :
    (me tmCurtains).waiting = .none ∧ (me tmCurtains).handler = false ∧ (me tmCurtains).sup = false ∧ Plain tmCurtains [1, 2, 3] ∧
    (prodAt tmCurtains (me tmCurtains).prodid).map (fun p => (p.curtains, p.pcurtains)) = some (4, 2) ∧ releaseReady tmCurtains = true ∧
    ([(3, false, true), (0x8001, true, true), (4, false, false), (0x8002, true, false)] : List (Word × Bool × Bool)).all (fun (x, tbl, y) =>
      bitOf x 15 == tbl && fld x 16 48 == 0 && fld x 8 7 == 0 && decide (fld x 0 8 < if tbl then 2 else 4) == y) = true ∧
    fld (0x100 : Word) 8 7 ≠ 0 ∧ fld (0x10000 : Word) 16 48 ≠ 0 ∧ fld (65535 : Word) 16 48 = 0 ∧
    (let s := setSlot { tmCurtains with curtains := [⟨0, 1, 3, 7, 1, 2⟩] } 1 { slot0 with prodid := 1, st := .parked (.curtain 3), waiting := .arrived 0 3 7 }
     (curtainAt s 0 1 3).gen = 7 ∧ (slotAt s 1).waiting = .arrived 0 3 7 ∧ (slotAt s 1).prodid = (me s).prodid) ∧
    (prodAt tmCurtains (me tmCurtains).prodid).map (·.shed) = some false ∧ tmCurtains.curtainReqs = [] ∧
    ([(0, 0, 2), (1, 3, 3), (0, 0, 1), (1, 2, 2)] : List (Nat × Nat × Nat)).all (fun (k, m, n) =>
      let s : State := { tmCurtains with curtains := [⟨0, 1, 3, 7, k, m⟩] }
      let c := curtainAt s (coreDie (myCore s)) (me s).prodid 3
      decide (c.count = k ∧ (c.count = 0 ∨ n = c.n) ∧ 1 ≤ n ∧ (c.count + 1 < n ∨ c.count + 1 = n))) = true ∧
    (let c := curtainAt ({ tmCurtains with curtains := [⟨0, 1, 3, 7, 1, 3⟩] }) 0 1 3
     c.count ≠ 0 ∧ 2 ≠ c.n) ∧
    ([(⟨0, 0, 1, 3, 2, none⟩, 0, 0), (⟨0, 0, 1, 3, 2, none⟩, 1, 2), (⟨0, 0, 1, 3, 2, some (5, 7)⟩, 0, 0)] : List (CurtainReq × Nat × Nat)).all (fun (q, k, n) =>
      let s := { tm with curtainReqs := [q], prods := [], curtains := [⟨0, 1, 3, 7, k, n⟩] }
      let c := curtainAt s q.home q.prod q.index
      decide (s.curtainReqs = q :: [] ∧ prodAt s (slotAt s q.slot).prodid = none ∧ q.n ≠ 0 ∧ (slotAt s q.slot).st = .ready ∧
        (c.count = 0 ∧ q.n ≠ 1 ∨ c.count ≠ 0 ∧ q.n = c.n ∧ c.count + 1 = q.n ∧ q.answer = none ∧ (slotAt s 0).prodid = q.prod) ∧
        portCode (slotAt s 0) 5 = 0)) = true := by decide +kernel

/-- FullEmptyResults: a word of scratch, a page with the attribute and one without; a request at its word's home, full and empty; one
to be sent again. -/
theorem test_meets_FullEmptyResults :
    Plain tm [1, 2] ∧ (me tm).waiting = .none ∧ releaseReady tm = true ∧ isNear (near 8184) = true ∧
    calmAt tm 8 needNone (near 8184) (.scratch 0 1 8184) = true ∧ storeAhead tm (.scratch 0 1 8184) 8 = false ∧
    ([(0xF3, false, true), (0x2E3, true, false)] : List (Nat × Bool × Bool)).all (fun (n, fe, may) =>
      let s := tmPage n
      match (checkAddr s (myCore s) (me s).prodid (me s).sup false needNone 0x3000).1 with
      | .ok (.phys pa) leaf => pa == 0x3000 && !isAperture pa && bitOf leaf 9 == fe && permits leaf needRW (isUser (me s)) == may
      | _ => false) = true ∧
    [near 8184, 0x3000].all (fun ea => [true, false].all fun full =>
      let s : State := if full then { tm with full := [0x3000 / 8] } else tm
      match feCheck s ea with
      | (.ok l _, u) => decide (acqWaits u u.cur = false ∧ loadsAhead s = false ∧ s.feReqs = [] ∧ engineOwns u l 8 = false ∧ feList u l = [] ∧
          homePoisoned u l = false ∧ isFull u l = (full && l == .phys 0x3000))
      | _ => false) = true ∧
    [FeKind.lde, .ldf, .stf, .ste, .feq, .fefill, .feclr].all (fun k => ([[], [0x3000 / 8]] : List (List Nat)).all fun full =>
      let q : FeReq := ⟨k, 5, 0, .phys 0x3000, 0x3000, 9, none⟩
      let s : State := { (tweak tm fun x => { x with st := .parked (.fullEmpty 0x3000) }) with feReqs := [q], full := full }
      decide (s.feReqs = q :: [] ∧ portCode (slotAt s q.slot) 5 = 0 ∧ (slotAt s q.slot).st = .parked (.fullEmpty q.ea) ∧
        (dieAt s (homeDie 0x3000)).feWait = [] ∧ MemOk s ∧ s.poisoned.contains (lineOf 0x3000) = false ∧
        engineOwns s q.loc 8 = false ∧ s.full.contains (0x3000 / 8) = !full.isEmpty)) = true ∧
    (let q : FeReq := ⟨.lde, 5, 0, .phys 0x3000, 0x3000, 9, none⟩
     let s := tweak tm fun x => { x with waiting := .refused q 0 }
     (slotAt s (16 * 0 + 0)).waiting = .refused q 0 ∧ 0 ≤ cycleOf s 0) := by decide +kernel

/-- The slot parked. -/
noncomputable def tmParked (w : ParkWhy) : State := tweak tm fun x => { x with st := .parked w, since := some 0, patience := 100 }

/-- Core 0's local cycle. -/
noncomputable def atCycle (s : State) (n : Nat) : State := { s with clusters := [(0, { cluster0 with cycle := n })] }

/-- ParkedEvents: a register pending and not; counters; a yield, a migration and a patience at their cycle and one before; a
pre-emption that is ready; a production that is over and one that is not. -/
theorem test_meets_ParkedEvents :
    bitOf (me (tmParked (.pending 5))).pend 5 = false ∧
    (let s := tweak (tmParked (.pending 5)) fun x => { x with pend := 32 }
     bitOf (me s).pend 5 = true ∧ (me s).since = some 0 ∧ (me s).saved = false ∧ (me s).patience ≠ 0 ∧
       0 + (me s).patience.toNat ≤ cycleOf (atCycle s 100) 0 ∧ cycleOf (atCycle s 99) 0 < 0 + (me s).patience.toNat) ∧
    (let x := me (tmParked (.counters 0 0 0 0))
     x.outL ≤ 0 ∧ x.outS ≤ 0 ∧ x.outC ≤ 0 ∧ x.outT ≤ 0) ∧
    17 ≤ cycleOf (atCycle (tmParked (.yieldUntil 17)) 17) 0 ∧ cycleOf (atCycle (tmParked (.yieldUntil 17)) 16) 0 < 17 ∧
    256 ≤ cycleOf (atCycle (tmParked (.migrating 0x3000 256)) 256) 0 ∧ cycleOf (atCycle (tmParked (.migrating 0x3000 256)) 255) 0 < 256 ∧
    (let s := tweak tm fun x => { x with st := .stopped (.preempting .deadline) none }
     preemptReady s 0 = true ∧ poolWaits s 0 1 (me s).saveptr (areaSize (ctxAt s 4)) = false) ∧
    (prodAt tm 1).map (prodOver tm 1) = some false ∧
    (let s := { tm with slots := [], prods := [(1, { loadProd with ending := some 1 })] }
     (prodAt s 1).map (fun p => prodOver s 1 p && !p.doneFe) = some true) := by decide +kernel

/-- ParkedEvents, a pre-emption: a task with a context that runs no strip; one without, its pool giving a block of 96 KiB and none. -/
theorem test_meets_ParkedEvents_preemption :
    (let s := tweak tm fun x => { x with st := .stopped (.preempting .deadline) none }
     preemptReady s 0 = true ∧ (slotAt s 0).freezing = none ∧ ctxOf s 0 = some 4 ∧ (slotAt s 0).handler = false ∧ stripsRun s 4 = false) ∧
    [0, 0x40000].all (fun free =>
      let s : State := { tweak tm (fun x => { x with st := .stopped (.preempting .prodctl) none, vctx := none, saveptr := 0x30000 }) with
        mem := memPutAll (memPutAll tm.mem 0x30000 (leBytes 8 free)) 0x30008 (leBytes 8 0x18000) }
      let x := slotAt s 0
      decide (x.freezing = none ∧ x.vctx = none ∧ x.waiting = .none ∧ x.sbuf = [] ∧ x.arrivals = [] ∧ portWaits s 0 = false ∧
        (∀ q ∈ s.curtainReqs, q.slot ≠ 0) ∧ sfuOut s 0 = false ∧ x.late = [] ∧ x.outT = 0 ∧
        poolWaits s 0 x.prodid x.saveptr 0x18000 = false) &&
      (poolTake (setSlot (withdrawRequest s 0) 0 { x with since := none }) 0 x.saveptr 0x18000).isSome == (free != 0)) = true := by decide +kernel

/-- ParkedEvents, a production's end: nothing of production 1 is left anywhere. -/
theorem test_meets_ParkedEvents_end :
    let s := { tm with slots := [] }
    (prodAt s 1).map (fun v => (v.spillSize, v.doneFe)) = some (0, false) ∧
      (∀ q ∈ s.slots, q.2.st = .free ∨ q.2.sup = true ∨ q.2.prodid ≠ 1) ∧
      (∀ q ∈ s.cores, (∀ o ∈ q.2.sgOps, o.owner.prod ≠ 1) ∧ (∀ t ∈ q.2.wings, t.prodid ≠ 1) ∧ (∀ r ∈ q.2.saved, r.prod ≠ 1)) ∧
      s.door.colls = [] ∧ doorWaits s = [] ∧ (∀ q ∈ s.dies, ∀ t ∈ q.2.board, t.prodid ≠ 1) := by decide +kernel

/-- EngineResults: count words within and outside their limits, 31 operations already there; a descriptor and a list in the last
bytes of scratch; command items of a good and a bad kind; an operation that runs. -/
theorem test_meets_EngineResults :
    countWordOk .copy (2 ^ 60) = true ∧ countWordOk .copy (5 * 2 ^ 60) = true ∧ countWordOk .copy 0 = false ∧
    countWordOk .copy (6 * 2 ^ 60) = false ∧ countWordOk .copy (2 ^ 60 + 2 ^ 56) = false ∧
    countWordOk .nearReduce (2 ^ 60 + 6 * 2 ^ 56) = true ∧ countWordOk .nearReduce (2 ^ 60 + 7 * 2 ^ 56) = false ∧
    (let o : SgOp := ⟨0, .copy, ⟨0, 1, 0⟩, false, true, some 5, near 0, near 64, 2 ^ 60 + 8, [], none, [], [], 0⟩
     let s := tweakCore tm fun k => { k with sgOps := List.replicate 31 o }
     Plain s [1, 2, 3] ∧ (coreAt s 0).sgOps.length < 32 ∧ (me s).outC < 63 ∧ releaseReady s = true ∧ scratchSize s 0 1 ≤ 2 ^ 19 ∧
       8160 + 32 ≤ scratchSize s 0 1 ∧ (∀ j < 32, (scratchAt s 0 1).poison.contains ((8160 + j) / 32) = false) ∧
       (coreAt s 0).sgOps[3]? = some o ∧ opRuns (coreAt s 0) 3 o = true ∧ opRuns (coreAt s 0) 4 o = false ∧ o.token = none ∧
       cwCount (2 ^ 60) = 0 ∧ holds (slotAt s o.owner.slot) o.owner = true ∧ portCode (slotAt s 0) 5 = 0) ∧
    (let s := tweak tm fun x => { x with qCmd := [4, 0, 1, 2, 9], outC := 62 }
     (slotAt s (16 * 0 + 0)).qCmd = 4 :: 0 :: 1 :: 2 :: [9] ∧ (slotAt s 0).st ≠ .free ∧ (coreAt s 0).sgOps.length < 32 ∧
       (slotAt s 0).outC < 63 ∧ releaseReady { s with cur := 16 * 0 + 0 } = true) := by decide +kernel

/-- EngineResults, a gather: the descriptor in scratch names a list of one offset at byte 64 of it. -/
theorem test_meets_gather :
    let s := tweakCore tm fun k => { k with scratch := [(1, ⟨[39], [(0, 64), (5, 0xF0), (6, 0xFF), (7, 0xFF), (8, 1)], [], []⟩)] }
    (me s).sup = false ∧ 0 + 16 ≤ scratchSize s 0 1 ∧ BitVec.ofNat 64 (leNat (scratchBytes s 0 1 0 8)) = near 64 ∧
    leNat (scratchBytes s 0 1 8 8) = 1 ∧ 1 < 2 ^ 16 ∧ 64 + 8 * 1 ≤ scratchSize s 0 1 := by decide +kernel

/-- EngineResults, SentPackets, CollectiveResults: no engine owns a line. -/
theorem test_meets_owned : (∀ l n, engineOwns tm l n = false) ∧ ∀ a l n, ownedBefore tm a l n = false :=
  owns_nothing _ (by decide +kernel) (by decide +kernel) (by decide +kernel)

/-- EngineResults, blocks and a copy of the last 24 bytes of scratch to its first: places that read, unpoisoned and owned by none. -/
theorem test_meets_EngineResults_near :
    nearBlock tm (near 8160) 8160 32 ∧ nearBlock tm (near 0) 0 16 ∧
    (let o : SgOp := ⟨0, .copy, ⟨0, 1, 0⟩, false, true, some 5, near 0, near 8168, 2 ^ 60 + 24, [], none, [], [List.replicate 24 7], 0⟩
     let s := tweakCore tm fun k => { k with sgOps := [o] }
     (coreAt s 0).sgOps = [o] ∧ slotCore o.owner.slot = 0 ∧ o.token = none ∧ o.kind = .copy ∧ o.sup = false ∧ o.snap = [List.replicate 24 7] ∧ cwCount o.ctl = 24 ∧
       s.door.remotes = [] ∧ 8168 % 32 + 24 ≤ 32 ∧ 0 % 32 + 24 ≤ 32 ∧ scratchSize s 0 1 ≤ 2 ^ 19 ∧ 8168 + 24 ≤ scratchSize s 0 1 ∧
       (scratchAt s 0 1).poison = [] ∧ holds (slotAt s 0) o.owner = true ∧ portCode (slotAt s 0) 5 = 0) := by decide +kernel

/-- SpecialFunctionResults: one request of an octet of eight cores; the last batch of a strip of `vsfu`. -/
theorem test_meets_SpecialFunctionResults_batch :
    (let q : SfuReq := ⟨0, some 5, 0, 0x3F800000, 0, 0, 0⟩
     let s := tweakCore tm fun k => { k with sfuReqs := [q] }
     slotCore q.slot = 0 ∧ q.behind = 0 ∧ (coreAt s 0).sfuReqs = [q] ∧
       (tab 8 0 id).all (fun k => decide ((coreAt s k).sfuPort = [] ∧ (coreAt s k).sfuVec = [] ∧ (k ≠ 0 → (coreAt s k).sfuReqs = []))) = true ∧
       s.slots.all (fun i => decide (i.2.qSfuReq = [])) = true) ∧
    (let w : Strip := ⟨4, 1, 0, 0, 0, 8, 0, 0, [], 0, [], [], 0⟩
     let s := tweakCore tm fun k => { k with sfuRun := [⟨[], some (4, 0)⟩], sfuVec := [⟨4, 0, 0, 1, 1⟩], strips := [w] }
     (coreAt s 0).sfuRun = ⟨[], some (4, 0)⟩ :: [] ∧ (coreAt s 0).sfuVec = [⟨4, 0, 0, 1, 1⟩] ∧ (coreAt s 0).strips = [w] ∧ w.ctx = 4 ∧ w.way = 0) := by
  decide +kernel

/-- SpecialFunctionResults: codes 10 and 11, a hook and none, three requests under way; a batch to take and one to deliver. -/
theorem test_meets_SpecialFunctionResults :
    10 < (11 : Word).toNat ∧ (10 : Word).toNat ≤ 10 ∧ isHook 0x7FA00000 = true ∧ isHook 0x3F800000 = false ∧
    (let q : SfuReq := ⟨0, some 5, 0, 0x3F800000, 0, 0, 0⟩
     let s := tweakCore tm fun k => { k with sfuReqs := [q, q, q] }
     Plain s [1, 2, 3] ∧ sfuCount s s.cur < 4 ∧
       (let u := (tab 8 0 id).foldl (fun s c => sfuFill s c 4) s
        (tab 8 1 fun i => (look u.sfuLast 0 7 + i) % 8).find? (fun c => !(coreAt u c).sfuPort.isEmpty) = some 0)) ∧
    (let q : SfuReq := ⟨0, some 5, 0, 0x3F800000, 0, 0, 0⟩
     let s := tweakCore tm fun k => { k with sfuRun := [⟨[q], none⟩] }
     (coreAt s 0).sfuRun = ⟨[q], none⟩ :: [] ∧ q.reg = some (5 : GReg).toNat ∧ portCode (slotAt s q.slot) 5 = 0) := by decide +kernel

/-- Doublewords in memory. -/
def words (m : List Host.Cell) (l : List (Nat × Nat)) : List Host.Cell := l.foldl (fun m p => memPutAll m p.1 (leBytes 8 p.2)) m

/-- Core 0 is the port core; connection 0 a stage-door's, connection 1 a RoCE one to mailbox 0 of core 0; window 0 opens the 256
bytes at 0x3000 to both under key 7 (18 R455). -/
noncomputable def tmDoor : State :=
  { tweakCore tm fun k => { k with mbox := 0x20000 } with
    mem := words tm.mem [(0x28000, 2 ^ 63), (0x28020, 2 ^ 63 + 2 ^ 62), (0x28800, 0xF000000000070000), (0x28808, 0x3000),
      (0x28810, 0x100), (0x28818, 3)] }

/-- A record of 32 bytes under their seal. -/
def rec32 (b : Byte) : LineRec := ⟨0xFFFFFFFF, List.replicate 32 b, crc16 (List.replicate 32 b)⟩

/-- A packet on connection 0 in sequence. -/
def packet (off len : Nat) (rs : List LineRec) : Packet := ⟨0, false, 0, 0, 0, 0, 7, off, len, 3, 0, rs⟩

/-- Whether a request is next in its connection's sequence, already performed, or neither. -/
noncomputable def arrives (s : State) (p : Packet) : Nat :=
  match arrival s p with
  | .next _ => 2
  | .again _ => 1
  | .no => 0

/-- ArrivingPackets, windows: a packet in and out of sequence and on no connection; an access at each end of its window and one byte
past it, under another key and from another connection. -/
theorem test_meets_ArrivingPackets_window :
    arrives tmDoor (packet 0 32 [rec32 1]) = 2 ∧ arrives tmDoor { packet 0 32 [] with psn := 2 ^ 32 - 1 } = 1 ∧
    arrives tmDoor { packet 0 32 [] with conn := 9 } = 0 ∧ MemOk (taken tmDoor (packet 0 32 [rec32 1])) ∧
    (let u := taken tmDoor (packet 0 32 [rec32 1])
     [DoorNeed.read, .write, .atomic].all (fun n => (windowFor u 0 0 7 224 32 n).isSome && (windowFor u 0 0 7 224 33 n).isNone &&
       (windowFor u 0 0 8 0 1 n).isNone && (windowFor u 2 0 7 0 1 n).isNone && (windowFor u 64 0 7 0 1 n).isNone) = true ∧
     (match winEntry u 0 with
      | some w => decide (w.key = 7 ∧ windowLines u w needW 0x30E0 32 = some [(0x30E0, 0x30E0)] ∧
          (windowLines u w needR 0x3000 256).map List.length = some 8 ∧ windowPhys u w needRW 0x30F8 = some 0x30F8 ∧
          windowLines u w needW 0x5000000 1 = none)
      | none => false) = true ∧
     u.poisoned.contains (lineOf 0x30E0) = false ∧ ({ u with poisoned := [0x30E0 / 32] }).poisoned.contains (lineOf 0x30E0) = true) := by
  decide +kernel

/-- ArrivingPackets, messages, atomics and RoCE: mailboxes full and free, the first and last box; a doubleword operation of each end of
its codes; a RoCE request next in sequence, with data within and past a message's room and R_Keys of 24 bits and more. -/
theorem test_meets_ArrivingPackets_message :
    (coreAt tmDoor 0).mbox ≠ 0 ∧ (coreAt tmDoor 1).mbox = 0 ∧ regionPhys tmDoor 0 (0x1000 + 256 * 111) = some (0x21000 + 256 * 111) ∧
    tmDoor.full.contains (0x21000 / 8) = false ∧ (dieAt tmDoor (homeDie 0x21000)).feWait = [] ∧
    (1 + 7) / 8 = 1 ∧ (248 + 7) / 8 = 31 ∧ 31 < (249 + 7) / 8 ∧
    (0 : Byte).toNat ≤ 6 ∧ (6 : Byte).toNat ≤ 6 ∧ 0xF8 % 2 ^ (3 : Byte).toNat = 0 ∧ (packet 0 0 []).len = 0 ∧
    (roceConn tmDoor 1).map (fun e => (e.dcore, e.dmbox, (connAt tmDoor 1).psnIn)) = some (0, 0, 0) ∧ roceConn tmDoor 0 = none ∧
    248 < (List.replicate 249 (1 : Byte)).length ∧ (List.replicate 248 (1 : Byte)).length ≤ 248 ∧ 0 < 1024 ∧
    2 ^ 24 ≤ (0x1000700 : Nat) ∧ 0x700 < 2 ^ 24 ∧ windowFor tmDoor 1 (0x800 % 256) (0x800 / 256) 0 32 .write = none ∧
    (windowWrite tmDoor 1 (0x700 % 256) (0x700 / 256) 224 32 (makeRecs 3 0x30E0 (List.replicate 32 1))).isSome = true ∧
    windowRead tmDoor 1 (0x700 % 256) (0x700 / 256) 0 2 = some (some [0, 0]) := by decide +kernel

/-- The same machine with its one page migrating. -/
noncomputable def tmMoving : State := { tmDoor with mem := memPutAll tmDoor.mem 0x104000 (leBytes 8 0x6F3) }

/-- ArrivingPackets: requests and RoCE messages that nothing makes wait, and all that a migrating page makes wait; a lost and an early
message; a RoCE write of the last bytes of its line and a read; an announcement at its limits. -/
theorem test_meets_ArrivingPackets_waits :
    (tab 9 0 id).all (fun k => !requestWaits tmDoor k (packet 0 32 [rec32 1]) && requestWaits tmMoving k (packet 0 32 [rec32 1])) = true ∧
    tableWaits tmDoor = false ∧ tableWaits tmMoving = true ∧
    (let r : RoceMsg := ⟨1, 0, 0x700, 24, 32, List.replicate 8 1⟩
     (tab 4 0 id).all (fun k => !roceWaits tmDoor k r) = true ∧ (roceConn tmDoor 1).isSome = true ∧ (connAt tmDoor 1).psnIn = r.psn ∧ MemOk tmDoor ∧
       (windowFor tmDoor 1 (r.rkey % 256) (r.rkey / 256) r.offset r.data.length .write).any (fun w =>
         decide (windowLines tmDoor w needW (w.base + BitVec.ofNat 64 r.offset) r.data.length = some [(0x3000, 0x3000)])) = true ∧
       (windowFor tmDoor 1 (r.rkey % 256) (r.rkey / 256) r.offset r.len .read).any (fun w =>
         (windowLines tmDoor w needR (w.base + BitVec.ofNat 64 r.offset) r.len).any fun ls =>
           decide (∀ q ∈ ls, tmDoor.poisoned.contains (lineOf q.2) = false)) = true) ∧
    (0 : Nat) ≠ 1 ∧ (0 + 2 ^ 24 - (2 ^ 24 - 1)) % 2 ^ 24 < 2 ^ 23 ∧ 2 ^ 23 ≤ (0 + 2 ^ 24 - 1) % 2 ^ 24 ∧
    look (taken tmDoor (packet (2 ^ 33 - 1) 0 [])).door.collSeen 0 0 = 0 ∧ 2 ^ 33 - 1 < 2 ^ 33 := by decide +kernel

/-- Who waits for an answer: the task on slot 0. -/
def me0 : Owner := ⟨0, 1, 0⟩

/-- A connection with what it waits for under TAG 3. -/
noncomputable def tmWaits (w : Awaiting) (un : List Packet) : State :=
  { tmDoor with door := { tmDoor.door with conns := [(0, ⟨1, 0, un, [(3, w)], 0, 0, 0, 0, [], []⟩)] } }

/-- SentPackets, `msgs`: each field of its count word good at its limit and bad past it; a payload in memory; no port core; a
connection that is not valid. -/
theorem test_meets_SentPackets_msgs :
    ([(1, false), (31 + 111 * 2 ^ 32 + 1023 * 2 ^ 40 + 63 * 2 ^ 56, false), (0, true), (1 + 112 * 2 ^ 32, true), (1 + 2 ^ 62, true), (1 + 2 ^ 50, true),
      (1 + 2 ^ 39, true), (1 + 2 ^ 5, true)] : List (Word × Bool)).all (fun (w, b) =>
        decide ((fld w 62 2 ≠ 0 ∨ fld w 50 6 ≠ 0 ∨ fld w 39 1 ≠ 0 ∨ fld w 5 27 ≠ 0 ∨ 111 < fld w 32 7 ∨ fld w 0 5 = 0) = b)) = true ∧
    Plain tmDoor [1, 2, 3] ∧ (0x3001 : Word).toNat % 8 ≠ 0 ∧ (me tmDoor).outC < 63 ∧ releaseReady tmDoor = true ∧ portCore tmDoor = some 0 ∧
    portCore tm = none ∧ (stageConn tmDoor 0).isSome = true ∧ stageConn tmDoor 2 = none ∧
    [8, 248].all (fun n =>
      match blockPlaces (releaseAt tmDoor 0 .system) needR (blockPieces (n / 32 + 2) 0x3000 n) with
      | .ok (ls, u) => ls.all fun q => (apertureOf q.1).isNone && !locPoisoned u 0 q.1
      | .error _ => false) = true := by decide +kernel

/-- SentPackets, a payload in the last bytes of scratch, the tables readable and not. -/
theorem test_meets_SentPackets_near :
    nearBlock tmDoor (near 7944) 7944 248 ∧ 7944 % 8 = 0 ∧ (me tmDoor).outC < 63 ∧ releaseReady tmDoor = true ∧
    (let r := releaseAt tmDoor (myCore tmDoor) .system
     (stageConn r 0).isSome = true ∧ tableWaits r = false ∧ r.door.deferred = []) ∧
    tableWaits (releaseAt tmMoving (myCore tmMoving) .system) = true ∧
    (match blockPlaces (releaseAt tmDoor 0 .system) needR (blockPieces 3 (near 0) 8) with
     | .ok (ls, u) => ls.all (fun q => !engineOwns u q.1 q.2) && u.door.deferred.all fun d => d.conn != 0
     | .error _ => false) = true := by decide +kernel

/-- SentPackets, answers: what each kind of packet waits for; a connection with unacknowledged packets at its 50 µs and 100 ms; a busy
message at 50 µs and at 100 ms. -/
theorem test_meets_SentPackets_answers :
    holds (slotAt tmDoor 0) me0 = true ∧ portCode (slotAt tmDoor 0) 5 = 0 ∧ (stageConn tmDoor 0).isSome = true ∧ stageConn tmDoor 9 = none ∧
    tableWaits tmDoor = false ∧ tableWaits tmMoving = true ∧ portCore tm = none ∧ tm.door.deferred = [] ∧ tmDoor.door.deferred = [] ∧ recsOk [rec32 1] = true ∧
    ([.load me0 5 8 false 0x3000 false, .msg me0 5 0 [1] none, .store me0 0x3000] : List Awaiting).all (fun w =>
      let s := tmWaits w []
      decide ((connAt s 0).waits = [((packet 0 8 []).tag, w)] ∧ (connAt s 0).unacked = [] ∧ holds (slotAt s 0) me0 = true ∧ s.door.busy = [])) = true ∧
    (let k := connAt (tmWaits (.store me0 0x3000) [packet 0 0 []]) 0
     k.unacked ≠ [] ∧ k.sentAt + 50 ≤ 50 ∧ 49 < k.sentAt + 50 ∧ k.progress + 100000 ≤ 100000 ∧ 99999 < k.progress + 100000) ∧
    (let b : BusyMsg := ⟨0, .msg me0 5 0 [1] (some 0), 0⟩
     let s : State := { tmDoor with door := { tmDoor.door with busy := [b] } }
     s.door.busy[0]? = some b ∧ s.door.busy[1]? = none ∧ b.last + 50 ≤ 50 ∧ 49 < b.last + 50 ∧ s.now ≤ 50 ∧ 0 + 100000 ≤ 100000 ∧ 99999 < 0 + 100000 ∧
       (connAt (tmWaits (.msg me0 5 0 [1] none) []) 0).waits = [(3, .msg me0 5 0 [1] none)] ∧ tm.door.busy = []) := by decide +kernel

/-- A collective of this package and the one at connection 0, of four bytes each. -/
def twoColl : Coll :=
  { id := 1, k := 0, owner := me0, sup := false, user := true, reg := 5, gid := 2, ctl := 0, count := 1, self := 0, conns := [64, 0], src := 0x3000,
    dst := 0x3100, own := some [1, 0, 0, 0], fault := none, lost := false, snap := [], owned := [], age := 0 }

/-- CollectiveResults: control words good at their limits and bad past them; a descriptor that reads and a misaligned one; a collective
whose member has sent nothing, all of its data, and data of another shape; one lost and one with a fault. -/
theorem test_meets_CollectiveResults :
    ([(0, false), (0x5202, false), (3, true), (0x10, true), (0x300, true), (0x6000, true), (0x10000, true), (0x101, true)] :
      List (Word × Bool)).all (fun (w, b) =>
        decide ((2 < fld w 0 4 ∨ fld w 4 4 ≠ 0 ∨ 2 < fld w 8 4 ∨ 5 < fld w 12 4 ∨ fld w 16 48 ≠ 0 ∨ fld w 0 4 = 1 ∧ fld w 8 4 ≠ 0) = b)) = true ∧
    Plain tmDoor [1, 2, 3] ∧ (0x3001 : Word).toNat % 8 ≠ 0 ∧
    (match collRead (releaseAt tmDoor 0 .system) 0x3000 0 5 with
     | .bad n _ => n != 0
     | _ => false) = true ∧
    (match collRead (releaseAt { tmDoor with mem := words tmDoor.mem [(0x3000, 0x3100), (0x3008, 0x3180), (0x3010, 1), (0x3018, 0x3040),
         (0x3040, 2 * 2 ^ 56 + 2)] } 0 .system) 0x3000 0 5 with
     | .ok q _ => decide (q.gid = 2 ∧ q.count = 1 ∧ q.conns = [64, 0])
     | _ => false) = true ∧
    holds (slotAt tmDoor twoColl.owner.slot) twoColl.owner = true ∧ twoColl.reg = (5 : GReg).toNat ∧
    ([([], none), ([⟨0, 2, 0, 0, 1, 2, [2, 0, 0, 0]⟩], some true), ([⟨0, 2, 0, 0, 3, 2, List.replicate 12 0⟩], some false)] :
      List (List CollIn × Option Bool)).all (fun (rs, same) =>
        let s : State := { tmDoor with door := { tmDoor.door with colls := [twoColl], collIn := rs } }
        decide (startColls s = s ∧ (memberIn s twoColl 1).map (fun r => inWhole r && decide (r.ctl = twoColl.ctl ∧ r.count = twoColl.count ∧ r.n = 2)) = same)) = true := by
  decide +kernel

/-- CollectiveResults: a descriptor, its group and its destination in scratch, three members, and their data there. -/
theorem test_meets_CollectiveResults_near :
    (let put (l : List (Nat × Nat)) : List (Nat × Byte) := (l.map fun q => (leBytes 8 q.2).zipIdx.map fun (b, i) => (q.1 + i, b)).flatten
     let s := withG { tmDoor with cores := [(0, { coreAt tmDoor 0 with scratch := [(1, ⟨[39],
       put [(0, nearBase + 64), (8, nearBase + 128), (16, 1), (24, nearBase + 32), (32, 2 * 2 ^ 56 + 9)], [], []⟩)] })] } [(1, near 0), (2, 0)]
     let r := releaseAt s (myCore s) .system
     Plain s [1, 2, 3] ∧ (me s).outC < 63 ∧ releaseReady s = true ∧ r.door.remotes = [] ∧ tableWaits r = false ∧ portCore r ≠ none ∧
       nearBlock s (near 0) 0 32 ∧ nearWords s 0 4 = [near 64, near 128, 1, near 32] ∧ nearBlock s (near 32) 32 (8 + 8 * 2) ∧
       (nearWords s 32 3).head? = some 0x0200000000000009 ∧ fld (0x0200000000000009 : Word) 56 8 = 2 ∧ fld (0x0200000000000009 : Word) 48 8 = 0 ∧
       fld ((nearWords s 32 3).getD 2 0) 0 6 = 0 ∧ (stageConn r 0).isSome = true) ∧
    (let q := { twoColl with dst := near 128 }
     let s : State := { tmDoor with door := { tmDoor.door with colls := [q], collIn := [⟨0, 2, 0, 0, 1, 2, [2, 0, 0, 0]⟩] } }
     let datas (m : Nat) : List Byte := if m = 0 then ownChunk q [1, 0, 0, 0] else [2, 0, 0, 0]
     q.lost = false ∧ q.fault = none ∧ q.own = some [1, 0, 0, 0] ∧ q.self < q.conns.length ∧ datas q.self = ownChunk q [1, 0, 0, 0] ∧
       (memberIn s q 1).map (fun r => inWhole r && decide (r.ctl = q.ctl ∧ r.count = q.count ∧ r.n = q.conns.length ∧ r.data = datas 1)) = some true ∧
       (collResult q ((tab q.conns.length 0 id).map datas)).length = 4 ∧ 128 % 32 + 4 ≤ 32 ∧ q.sup = false ∧
       scratchSize s (slotCore q.owner.slot) q.owner.prod ≤ 2 ^ 19 ∧ 128 + 4 ≤ scratchSize s (slotCore q.owner.slot) q.owner.prod ∧
       s.door.remotes = [] ∧ holds (slotAt s q.owner.slot) q.owner = true) := by decide +kernel

/-- ErrorResults: a counter not yet begun, one below and one at its threshold, its window over and not; a lane group of a core that
exists and of one that does not; a copy of a row a notice names; the same stack at each step of its hysteresis. -/
theorem test_meets_ErrorResults :
    (let r : Resource := ⟨2, 5, 0⟩
     let s : State := { tm with errors := { tm.errors with win := [(2, 2 ^ 63 + 2 * 2 ^ 48 + 100)], counts := [(r, 0, 1)] } }
     r.cls = 2 ∧ s.errors.counts.find? (fun x => x.1 == r) = some (r, 0, 1) ∧ bitOf (errWin s 2) 63 = true ∧ max (fld (errWin s 2) 48 8) 1 ≤ 1 + 1 ∧
       ¬max (fld (errWin s 2) 48 8) 1 ≤ 0 + 1 ∧ fld (errWin s 2) 0 40 = 100 ∧ 0 + 100 ≤ (clusterAt (atCycle s 100) r.cluster).cycle ∧
       (clusterAt (atCycle s 99) r.cluster).cycle < 0 + 100 ∧ tm.errors.counts.find? (fun x => x.1 == r) = none) ∧
    (dieAt tm (coreDie 1023)).present = true ∧ 1023 < 1024 ∧ 63 < 64 ∧
    (let s : State := { tm with dies := [(7, { die0 with present := false })] }
     (dieAt s (coreDie 1023)).present = false) ∧
    (let s : State := { tmCopy with notices := [⟨0, farLine / 8, 5⟩] }
     s.notices[0]? = some ⟨0, farLine / 8, 5⟩ ∧ s.notices[1]? = none ∧ (coreAt s 0).remote.length = 1) := by decide +kernel

/-- PowerResults: the handles released and all drawn; a cluster that has run its boost cycles and one short of them; tokens to refill at
the millisecond and before; a slack window at each bound, at 10 ms and before. -/
theorem test_meets_PowerResults :
    inOrder tm ⟨true, 0, 16, false, 1, 8⟩ = ⟨true, 0, 16, false, 1, 8⟩ ∧ inOrder tm ⟨false, 15, 1, true, 4, 1⟩ = ⟨false, 15, 1, true, 4, 1⟩ ∧
    inOrder tm ⟨false, 15, 1, true, 4, 8⟩ = ⟨false, 15, 1, true, 4, 8⟩ ∧ boosting tm 0 = false ∧
    (let s (n : Nat) : State := { tweakCtx tm fun y => { y with tokens := 5, allow := 5, queue := [waitingEntry] } with
       clusters := [(0, { cluster0 with boostCycles := n })] }
     boosting (s 4096) 0 = true ∧ 4096 ≤ boostRun (clusterAt (s 4096) 0) ∧ boostRun (clusterAt (s 4095) 0) < 4096 ∧
       nextPayer (s 4096) 0 = some 4 ∧
       ((s 4096).ctxs.filter fun e => ctxCore e.1 / 4 == 0 && e.2.allow != 0 && e.2.tokens != 0).map (·.1) = [4]) ∧
    tm.now < tm.refillAt + 1000 ∧ ({ tm with now := 1000 }).refillAt + 1000 ≤ 1000 ∧ tm.dimmer.slackEnd + 10000 ≤ 10000 ∧
    9999 < tm.dimmer.slackEnd + 10000 ∧ noBoostNow tm = false ∧ (prodAt tm (ctxProd 4)).map (fun p => (p.shed, p.ending)) = some (false, none) ∧ tm.ctxs.any (fun x => x.1 == 4) = true ∧
    bitOf tm.dimmer.hold 16 = false ∧
    (let s : State := { tm with dimmer := { tm.dimmer with hold := 0x320100C8, slack := 1, slackLow := true } }
     bitOf s.dimmer.hold 16 = true ∧ s.dimmer.slack < 3 ∧ 0 < s.dimmer.slack ∧ s.dimmer.slackAt + fld s.dimmer.hold 24 8 * 1000 ≤ 50000 ∧
       49999 < s.dimmer.slackAt + fld s.dimmer.hold 24 8 * 1000 ∧ 250 ≤ 250 ∧ 50 ≤ 50 ∧ 50 < 51 ∧ 249 < 250) := by decide +kernel

/-- A shelf frame of sequence `seq` at 50 Hz with no shedding, and its seal (16 R410). -/
def frame (seq minl : Nat) : List Byte :=
  let body := leBytes 2 seq ++ leBytes 3 50000 ++ leBytes 2 800 ++ leBytes 1 (16 * minl)
  0xA5 :: body ++ leBytes 2 (crc16 body).toNat

/-- A machine up, with a shelf. -/
noncomputable def tmShelf : State := { tm with dimmer := { tm.dimmer with present := true } }

/-- DimmerResults: a frame with a good and with a bad seal, first, later and late; TIMEOUT at its microsecond and one before; a class
to come back; a deadline that is due with a task that holds a slot; the last entry of the curve. -/
theorem test_meets_DimmerResults :
    (frame 7 8).length = 11 ∧ (frame 7 8).head? = some 0xA5 ∧
    crc16 (((frame 7 8).drop 1).take 8) = BitVec.ofNat 16 (leNat (((frame 7 8).drop 9).take 2)) ∧
    ¬crc16 (((frame 7 8).set 1 9).drop 1 |>.take 8) = BitVec.ofNat 16 (leNat (((frame 7 8).drop 9).take 2)) ∧
    tmShelf.dimmer.present = true ∧ tmShelf.mgmt.done = true ∧ tmShelf.dimmer.partialBytes = [] ∧ tmShelf.dimmer.lastSeq = none ∧
    tm.dimmer.present = false ∧ (7 + 65536 - 7) % 65536 = 0 ∧ 32767 < (7 + 65536 - 8) % 65536 ∧ ¬32767 < (7 + 65536 - 6) % 65536 ∧
    tmShelf.dimmer.blindOn = false ∧ tmShelf.dimmer.lastTime + fld tmShelf.dimmer.blind 8 16 * 1000 ≤ 100000 ∧
    99999 < tmShelf.dimmer.lastTime + fld tmShelf.dimmer.blind 8 16 * 1000 ∧ tm.dimmer.restoring = [] ∧
    (let s : State := { tmShelf with dimmer := { tmShelf.dimmer with restoring := [1, 2], nextRestore := 1000, shedDeadlines := [(0, 9)] },
                                     prods := [(1, { loadProd with shed := true })] }
     s.dimmer.restoring = 1 :: [2] ∧ s.dimmer.nextRestore ≤ 1000 ∧ 999 < s.dimmer.nextRestore ∧ (0, 9) ∈ s.dimmer.shedDeadlines ∧ 9 ≤ 9 ∧
       (slotAt s 0).st = .ready ∧ (slotAt s 0).sup = false ∧ (slotAt s 0).cls.toNat = 0 ∧ (slotAt s 0).saved = false ∧ (prodAt s (slotAt s 0).prodid).map (·.shed) = some true) ∧
    (let q : Saved := ⟨0x40000, 1, 5, 1, 0x30000, slot0, [], [], 0, [], [], []⟩
     let s := tweakCore tmShelf fun k => { k with saved := [q] }
     (∃ x ∈ s.cores, ∃ q ∈ x.2.saved, q.cls.toNat = 1) ∧ 999 < 1000) ∧
    15 < 16 ∧ 16 ≤ 16 := by decide +kernel

/-- A machine at a stage of bring-up. -/
noncomputable def atStage (n : Nat) : State := { State.reset with mgmt := { State.reset.mgmt with stage := n } }

/-- BringUpResults: each stage under way, with nothing wrong and with what stops it; a report asked for, under way and readable; the
debug block answering and not; the last offsets of each range of registers. -/
theorem test_meets_BringUpResults :
    tm.mgmt.done = true ∧ (atStage 1).mgmt.done = false ∧ (atStage 1).mgmt.error = 0 ∧ (atStage 5).mgmt.stage = 5 ∧
    imageError (atStage 1) false (imageAt (atStage 1) firmwareOffset) ≠ 0 ∧ imageError (atStage 5) true (imageAt (atStage 5) supervisorOffset) ≠ 0 ∧
    (dieAt (atStage 2) 0).present = true ∧ (dieAt { atStage 2 with dies := [(0, { die0 with present := false })] } 0).present = false ∧
    coreExists tm 1023 = true ∧ coreExists tm 1024 = false ∧ tm.mgmt.nonce.length = 32 ∧ tm.mgmt.report = [] ∧
    (let s : State := { tm with mgmt := { tm.mgmt with report := [1] } }
     s.mgmt.report ≠ [] ∧ s.mgmt.ready = false) ∧
    bitOf (1 : Word) 0 = true ∧ bitOf (2 : Word) 0 = false ∧ bitOf (2 : Word) 1 = true ∧ 30 < 31 ∧ 0x400 ≤ 0xBFF := by decide +kernel

/-- DebugResults: a slot that is ready, parked, free and stopped, the block answering. -/
theorem test_meets_DebugResults :
    (let s : State := tweak tm fun x => { x with dbg := { x.dbg with brk := true } }
     (me s).dbg.brk = true ∧ (me tm).dbg.brk = false) ∧
    (slotAt tm (dbgSlot tm)).st = .ready ∧ (slotAt tm (dbgSlot tm)).since = none ∧
    (let s : State := { tm with mgmt := { tm.mgmt with dbgSel := 15 } }
     (slotAt s (dbgSlot s)).st = .free) ∧
    (slotAt (tmParked (.pending 5)) (dbgSlot tm)).st = .parked (.pending 5) ∧
    (let s := tweak tm fun x => { x with st := .stopped (.debug 4) (some (.pending 5)) }
     (slotAt s (dbgSlot s)).st = .stopped (.debug 4) (some (.pending 5)) ∧ ctxOf s 0 = some 4 ∧ (slotAt s 0).handler = false) ∧
    ctxOf tmFree 0 = none ∧ (slotAt tmFree 0).st = .ready ∧ dbgAnswers tm = true ∧ dbgAnswers State.reset = false := by decide +kernel

/-- The key and signature that stand for the neutral point of the curve and zero: the check of R478 holds under them. -/
def plainKey : List Byte := 1 :: List.replicate 56 0
def plainSig : List Byte := 1 :: List.replicate 113 0

/-- Multiples of the neutral point. -/
theorem edMul_neutral (f n : Nat) : edMul f n ⟨0, 1, 1⟩ = ⟨0, 1, 1⟩ := by
  have h : edAdd ⟨0, 1, 1⟩ ⟨0, 1, 1⟩ = ⟨0, 1, 1⟩ := by decide +kernel
  induction f generalizing n with
  | zero => rfl
  | succ f ih => simp only [edMul, h, ih]; split <;> (try split) <;> rfl

/-- Every message verifies under them. -/
theorem plainSig_verifies (c m : List Byte) : ed448phVerify plainKey plainSig c m = true := by
  have h1 : edDecode plainKey = some ⟨0, 1, 1⟩ := by decide +kernel
  have h2 : edDecode (plainSig.take 57) = some ⟨0, 1, 1⟩ := by decide +kernel
  have h4 : leNat (plainSig.drop 57) = 0 := by decide +kernel
  simp only [ed448phVerify, h1, h2, h4, edMul_neutral]
  decide +kernel

/-- The bytes of an image without a body from `off` of the flash: its magic, slot 0 for a supervisor's, that key and signature. -/
def tinyImage (off kind : Nat) : Map Byte :=
  (leBytes 8 (0x38424D4952414D00 + kind)).zipIdx.map (fun (b, i) => (off + i, b)) ++ [(off + 0x19, BitVec.ofNat 8 kind), (off + 0x23, 1), (off + 0x5C, 1)]

/-- A machine at the stage of an image, its key fused. -/
noncomputable def withImage (n off kind : Nat) : State :=
  { atStage n with mgmt := { (atStage n).mgmt with flash := tinyImage off kind, keys := [(shake256 plainKey 64, false)] } }

/-- BringUpResults: a firmware image and a supervisor image that pass every check. -/
theorem test_meets_images :
    imageError (withImage 1 firmwareOffset 0) false (imageAt (withImage 1 firmwareOffset 0) firmwareOffset) = 0 ∧
    imageError (withImage 5 supervisorOffset 1) true (imageAt (withImage 5 supervisorOffset 1) supervisorOffset) = 0 := by
  have pass (s : State) (sup : Bool) (m : Image) (hk : m.key = plainKey) (hs : m.sig = plainSig) (hi : m.keyIdx = 0)
      (hs' : s.mgmt.keys = [(shake256 plainKey 64, false)]) (hv : ¬m.svn < s.mgmt.minSvn)
      (h1 : ¬(m.magic ≠ (if sup then 0x38424D4952414D01 else 0x38424D4952414D00) ∨ 2 ^ 24 < m.length ∨
        (m.reserved.any fun b => b != 0) ∨ (sup ∧ ((maskSlots m.supMask).length = 0 ∨ 4 < (maskSlots m.supMask).length)))) :
      imageError s sup m = 0 := by
    unfold imageError
    dsimp only
    rw [if_neg h1]
    simp [hk, hs, hi, hs', hv, plainSig_verifies]
  exact ⟨pass _ _ _ (by decide +kernel) (by decide +kernel) (by decide +kernel) rfl (by decide +kernel) (by decide +kernel),
    pass _ _ _ (by decide +kernel) (by decide +kernel) (by decide +kernel) rfl (by decide +kernel) (by decide +kernel)⟩

/-! Results worked out by hand from the spec. -/

/-- What g3 holds after one instruction on g1, g2 and g3. -/
noncomputable def gives (x y z : Word) (l : List (Instr × Word)) : Bool :=
  l.all fun (i, v) => readG (me (after (exec i (tmRegs x y z)) tm)) 3 == v

/-- −2^63 and 3 under the register-register family: wraps, signs, and a product that needs its high half (05 R133, R137). -/
theorem test_register_register : gives 0x8000000000000000 3 9
    [(.add 3 1 2, 0x8000000000000003), (.sub 3 1 2, 0x7FFFFFFFFFFFFFFD), (.and 3 1 2, 0), (.or 3 1 2, 0x8000000000000003),
     (.xor 3 1 1, 0), (.andn 3 2 1, 3), (.sll 3 1 2, 0), (.srl 3 1 2, 0x1000000000000000), (.sra 3 1 2, 0xF000000000000000),
     (.rol 3 1 2, 4), (.slt 3 1 2, 1), (.sltu 3 1 2, 0), (.min 3 1 2, 0x8000000000000000), (.max 3 1 2, 3), (.minu 3 1 2, 3),
     (.maxu 3 1 2, 0x8000000000000000), (.mul 3 1 2, 0x8000000000000000), (.mulh 3 1 2, 0xFFFFFFFFFFFFFFFE), (.mulhu 3 1 2, 1),
     (.cmov 3 1 2, 0x8000000000000000), (.cmov 3 1 0, 9), (.lea 3 1 2 2, 0x800000000000000C)] = true := by decide +kernel

/-- Division rounds toward zero; by zero it gives all ones and the dividend; −2^63 by −1 wraps (05 R134). -/
theorem test_division :
    gives 0xFFFFFFFFFFFFFFF9 2 0 [(.div 3 1 2, 0xFFFFFFFFFFFFFFFD), (.rem 3 1 2, 0xFFFFFFFFFFFFFFFF), (.divu 3 1 2, 0x7FFFFFFFFFFFFFFC),
      (.remu 3 1 2, 1)] = true ∧
    gives 7 0 0 [(.div 3 1 2, 0xFFFFFFFFFFFFFFFF), (.divu 3 1 2, 0xFFFFFFFFFFFFFFFF), (.rem 3 1 2, 7), (.remu 3 1 2, 7)] = true ∧
    gives 0x8000000000000000 0xFFFFFFFFFFFFFFFF 0 [(.div 3 1 2, 0x8000000000000000), (.rem 3 1 2, 0)] = true := by decide +kernel

/-- The one-operand forms and the immediates (05 R135, R136, R138). -/
theorem test_one_operand : gives 0x80818283 0 0x1122334455667788
    [(.clz 3 1, 32), (.ctz 3 1, 0), (.clz 3 0, 64), (.ctz 3 0, 64), (.popc 3 1, 8), (.bswap 3 1, 0x8382818000000000),
     (.sextb 3 1, 0xFFFFFFFFFFFFFF83), (.sexth 3 1, 0xFFFFFFFFFFFF8283), (.sextw 3 1, 0xFFFFFFFF80818283), (.addi 3 1 (-1), 0x80818282),
     (.andi 3 1 (-4), 0x80818280), (.ori 3 1 (-1), 0xFFFFFFFFFFFFFFFF), (.xori 3 1 3, 0x80818280), (.slli 3 1 63, 0x8000000000000000),
     (.srli 3 1 31, 1), (.srai 3 3 60, 1), (.li 3 (-5), 0xFFFFFFFFFFFFFFFB), (.lih 3 (-2), 0xFFFFFFFE55667788)] = true := by decide +kernel

/-- g0 discards its result, and a source may be the destination (05 R124). -/
theorem test_g0 : readG (me (after (exec (.add 0 1 1) (tmRegs 5 0 0)) tm)) 0 = 0 ∧ gives 0 0 6 [(.add 3 3 3, 12), (.sub 3 0 3, 0xFFFFFFFFFFFFFFFA)] = true := by
  decide +kernel

/-- The pc after one instruction of two words at 0x2000. -/
noncomputable def goesTo (x y : Word) (i : Instr) : Word := (me (after (exec i { tmRegs x y 0 with ir := [0, 0] }) tm)).pc

/-- Branches and jumps go to their own address and twice the displacement; `jalr` to a register, `jal` linking g1 (05 R139 to R141). -/
theorem test_branches :
    goesTo 5 5 (.beq 1 2 (-6)) = 0x1FF4 ∧ goesTo 5 5 (.bne 1 2 (-6)) = 0x2004 ∧ goesTo 0xFFFFFFFFFFFFFFFF 0 (.blt 1 2 8) = 0x2010 ∧
    goesTo 0xFFFFFFFFFFFFFFFF 0 (.bltu 1 2 8) = 0x2004 ∧ goesTo 0xFFFFFFFFFFFFFFFF 0 (.bge 1 2 8) = 0x2004 ∧
    goesTo 0xFFFFFFFFFFFFFFFF 0 (.bgeu 1 2 8) = 0x2010 ∧ goesTo 0 0 (.j (-1)) = 0x1FFE ∧ goesTo 0x4444 0 (.jalr 1 1) = 0x4444 ∧
    readG (me (after (exec (.jal 4) { tmRegs 0 0 0 with ir := [0, 0] }) tm)) 1 = 0x2004 ∧
    (let t := me (after (exec (.jalr 3 1) (tmRegs 0x4445 0 9)) tm)
     t.handler = true ∧ t.trapcause = 5 ∧ t.trapaddr = 0x4445 ∧ readG t 3 = 9) := by decide +kernel

/-- g3 and the flags after a binary64 instruction: as bits (03 R73; 08 R224). -/
noncomputable def gives64 (x y z : Word) (l : List (Instr × Word × BitVec 6)) : Bool :=
  l.all fun (i, v, f) =>
    let t := me (after (exec i (tmRegs x y z)) tm)
    readG t 3 == v && t.fflags == f

/-- One third rounds down and is inexact; a quotient by zero; a root of two; a NaN compared (03 R67; 08 R224). -/
theorem test_binary64 :
    gives64 0x3FF0000000000000 0x4008000000000000 0 [(.fadd 3 1 2, 0x4010000000000000, 0), (.fsub 3 1 2, 0xC000000000000000, 0),
      (.fmul 3 1 2, 0x4008000000000000, 0), (.fdiv 3 1 2, 0x3FD5555555555555, flagNX), (.fmin 3 1 2, 0x3FF0000000000000, 0),
      (.fmax 3 1 2, 0x4008000000000000, 0), (.fceq 3 1 2, 0, 0), (.fclt 3 1 2, 1, 0), (.fcle 3 2 1, 0, 0), (.fma 3 2 2, 0x4022000000000000, 0),
      (.fsqrt 3 1, 0x3FF0000000000000, 0), (.f2i 3 2, 3, 0), (.fabs 3 1, 0x3FF0000000000000, 0)] = true ∧
    gives64 0x4000000000000000 0 5 [(.fsqrt 3 1, 0x3FF6A09E667F3BCD, flagNX), (.fdiv 3 1 2, 0x7FF0000000000000, flagDZ),
      (.i2f 3 3, 0x4014000000000000, 0)] = true ∧
    gives64 0x7FF8000000000000 0 0 [(.fclt 3 1 2, 0, flagNV), (.fceq 3 1 2, 0, 0)] = true := by decide +kernel

/-- −1.5 in each format and 470 in E4M3, as chapter 03 works them out. -/
theorem test_formats :
    (encNum fp16 ⟨.rne, false, false, 0⟩ (.fin true 3 (-1)) ⟨0, 1⟩).1 = 0xBE00 ∧ (encNum fp32 ⟨.rne, false, false, 0⟩ (.fin true 3 (-1)) ⟨0, 1⟩).1 = 0xBFC00000 ∧
    (encNum fp64 ⟨.rne, false, false, 0⟩ (.fin true 3 (-1)) ⟨0, 1⟩).1 = 0xBFF8000000000000 ∧ (encNum bf16 ⟨.rne, false, false, 0⟩ (.fin true 3 (-1)) ⟨0, 1⟩).1 = 0xBFC0 ∧
    (encNum e4m3 ⟨.rne, false, false, 0⟩ (.fin true 3 (-1)) ⟨0, 1⟩).1 = 0xBC ∧ (encNum e5m2 ⟨.rne, false, false, 0⟩ (.fin true 3 (-1)) ⟨0, 1⟩).1 = 0xBE ∧
    (encNum e2m1 ⟨.rne, false, false, 0⟩ (.fin true 3 (-1)) ⟨0, 1⟩).1 = 0xB ∧
    (encNum e4m3 ⟨.rne, false, false, 0⟩ (.fin false 470 0) ⟨0, 1⟩).1 = 0x7F ∧ (encNum e4m3 ⟨.rne, true, false, 0⟩ (.fin false 470 0) ⟨0, 1⟩).1 = 0x7E ∧
    (encNum e4m3 ⟨.rne, false, false, 0⟩ (.fin false 460 0) ⟨0, 1⟩).1 = 0x7E := by decide +kernel

/-- A line in L1 whose eight bytes at 0x3000 are 0x88 to 0x81. -/
noncomputable def tmLine : State :=
  { tweakCore (withG tm [(1, 0x3000), (3, 0x1122334455667788)]) (fun k => { k with l1 := [⟨0x3000 / 32, 0, false⟩] }) with
    mem := memPutAll tm.mem 0x3000 [0x88, 0x87, 0x86, 0x85, 0x84, 0x83, 0x82, 0x81] }

/-- Loads extend what little-endian bytes give, their offset counted in their own size (02 R36; 05 R143). -/
theorem test_loads : ([(.ldb 3 1 1, 0xFFFFFFFFFFFFFF87), (.ldbu 3 1 1, 0x87), (.ldh 3 1 1, 0xFFFFFFFFFFFF8586), (.ldhu 3 1 1, 0x8586),
    (.ldw 3 1 1, 0xFFFFFFFF81828384), (.ldwu 3 1 1, 0x81828384), (.ldd 3 1 0, 0x8182838485868788), (.lacq 3 1 .core .w, 0x85868788)] :
      List (Instr × Word)).all (fun (i, v) => readG (me (after (exec i tmLine) tm)) 3 == v) = true := by decide +kernel

/-- A store waits in the buffer and leaves memory alone until it drains (05 R144). -/
theorem test_stores :
    let t := after (exec (.sth 3 1 1) tmLine) tm
    (me t).sbuf.map (fun e => (e.loc, e.n)) = [(.phys 0x3002, 2)] ∧ memBytes t.mem 0x3000 4 = [0x88, 0x87, 0x86, 0x85] ∧ (me t).outS = 1 ∧
    memBytes (after (exec (.storeDrain 0 0) t) tm).mem 0x3000 5 = [0x88, 0x87, 0x88, 0x77, 0x84] ∧
    (slotAt (after (exec (.storeDrain 0 0) t) tm) 0).outS = 0 := by decide +kernel

/-- A load from the store before it; one of bytes that the store holds in part waits (05 R144). -/
theorem test_forwarding :
    let t := after (exec (.sth 3 1 1) tmLine) tm
    readG (me (after (exec (.ldbu 4 1 2) t) tm)) 4 = 0x88 ∧ (me (after (exec (.ldd 4 1 0) t) tm)).st = .parked (.entry 0x3000) := by decide +kernel

/-- Misaligned, out of the 56 bits, beyond scratch, and a page without the right: codes 6, 7, 7 and 8 (05 R142; 17 R423). -/
theorem test_access_traps :
    ([(0x3001, 6), (0x0080000000000000, 7), (near 8192, 7), (0x4000000, 8)] : List (Word × Word)).all (fun (ea, c) =>
      let t := me (after (exec (.ldd 3 1 0) (withG tm [(1, ea)])) tm)
      t.trapcause == c && t.trapaddr == ea && t.trappc == 0x2000 && t.handler) = true := by decide +kernel

/-- The seven atomics on the word 5 at 0x3000 with the operand −1, and 7 as what `amocas` leaves (14 R385). -/
theorem test_atomics : ([(.amoadd 2 1 .core .w, 4), (.amoswap 2 1 .core .w, 0xFFFFFFFF), (.amomax 2 1 .core .w, 5), (.amomin 2 1 .core .w, 0xFFFFFFFF),
    (.amoand 2 1 .core .w, 5), (.amoor 2 1 .core .w, 0xFFFFFFFF), (.amocas 2 1 .core .w, 5), (.amocas 4 1 .core .w, 7)] : List (Instr × Nat)).all (fun (i, v) =>
      let s : State := { withG tm [(1, 0x3000), (2, 0xFFFFFFFFFFFFFFFF), (3, 7), (4, 5), (5, 7)] with mem := memPutAll tm.mem 0x3000 [5] }
      let t := after (exec i s) tm
      leNat (memBytes t.mem 0x3000 4) == v && leNat (memBytes t.mem 0x3004 4) == 0 && ((me t).arrivals.map (·.val)) == [5]) = true := by decide +kernel

/-- Copies of far lines: `acq` drops them, `rel` writes back the bytes written alone (12 R322, R325, R326). -/
theorem test_fences :
    (coreAt (after (exec (.fenceAcq .cluster) tmCopy) tm) 0).remote = [] ∧ (coreAt (after (exec (.fenceAcq .core) tmCopy) tm) 0).remote.length = 1 ∧
    memBytes (after (exec (.fenceRel .cluster) tmCopy) tm).mem (farLine * 32) 2 = [7, 0] := by decide +kernel

/-- `mfk` of TASKID's neighbours and a privileged index; `mtk` of FRM keeps a reserved mode out; HMODE in the handler (05 R128, R151). -/
theorem test_control :
    readG (me (after (exec (.mfk 3 0x0A) tm) tm)) 3 = 1 ∧ (me (after (exec (.mfk 3 0x40) tm) tm)).trapcause = 4 ∧
    readG (me (after (exec (.mfk 3 0x45) tmHand) tm)) 3 = 2 ∧ (me (after (exec (.mtk 1 0x0E) (withG tm [(1, 5)])) tm)).frm = 5 ∧
    (me (after (exec (.mtk 1 0x0E) (withG tm [(1, 6)])) tm)).frm = 0 ∧ (me (after (exec (.mtk 1 0x40) (withG tmHand [(1, 0x3001)])) tm)).trappc = 0x3000 := by
  decide +kernel

/-- A trap and its return: TRAPPC, TRAPCAUSE and TRAPADDR; a second trap stops the slot (05 R152; 17 R424, R428, R429). -/
theorem test_trap_and_return :
    let s := tweak tm fun x => { x with trapvec := 0x4000 }
    let t := after (exec (.trap 9) s) tm
    (me t).pc = 0x4000 ∧ (me t).trappc = 0x2000 ∧ (me t).trapcause = 10 ∧ (me t).trapaddr = 9 ∧ (me t).handler = true ∧
    (ctxAt t 4).frozen = true ∧ (me (after (exec (.rett 0) t) tm)).pc = 0x2000 ∧ (me (after (exec (.rett 0) t) tm)).handler = false ∧
    (ctxAt (after (exec (.rett 0) t) tm) 4).frozen = false ∧ (me (after (exec (.trap 9) t) tm)).st = .stopped .doubleTrap none := by decide +kernel

/-- The registers of a context after `vid` and a scalar added, elements of 32 bits (07 R190). -/
def ramp : Ctx :=
  let e (op : VOp) (d : VReg) (g : Word) : QEntry := { entry0 with op := op, f := ⟨d, 1, 0, 0, VMask.all⟩, gb := g, vl := 8, vtype := 0x41D }
  laneInt (laneInt loadCtx (e .vid 1 0) 0 8) (e .vaddS 2 0xFFFFFFFD) 0 8

/-- Elements `i` of register `r`. -/
def elems (y : Ctx) (r : Nat) : List Nat := (List.range 8).map ((src y r).at 32)

/-- An entry on registers 3, 1 and 2 under the mask m1. -/
def maskEntry (op : VOp) : QEntry := { entry0 with op := op, f := ⟨3, 1, 2, 0, ⟨true, false, 1⟩⟩, vl := 8, vtype := 0x41D }

/-- `vid`, a scalar −3 added; a compare of i − 3 with i, signed and not; a product under its mask leaves the rest (06 R158; 07 R190, R196). -/
theorem test_vector_integer :
    elems ramp 1 = [0, 1, 2, 3, 4, 5, 6, 7] ∧ elems ramp 2 = [0xFFFFFFFD, 0xFFFFFFFE, 0xFFFFFFFF, 0, 1, 2, 3, 4] ∧
    (maskBits (laneInt ramp { maskEntry .vcltu with f := ⟨1, 2, 1, 0, VMask.all⟩ } 0 8) 1).toList.take 8 = [false, false, false, true, true, true, true, true] ∧
    (maskBits (laneInt ramp { maskEntry .vclt with f := ⟨1, 2, 1, 0, VMask.all⟩ } 0 8) 1).toList.take 8 = List.replicate 8 true ∧
    (let y := laneInt ramp { maskEntry .vcltu with f := ⟨1, 2, 1, 0, VMask.all⟩ } 0 8
     elems (laneInt y (maskEntry .vmul) 0 8) 3 = [0, 0, 0, 0, 4, 10, 18, 28] ∧
     crossInt y { maskEntry .mfirst with f := ⟨0, 1, 0, 0, VMask.all⟩ } = (y, some 3, []) ∧
     crossInt y { maskEntry .mpopc with f := ⟨0, 1, 0, 0, VMask.all⟩ } = (y, some 5, [])) := by decide +kernel

/-- One element of each operation at the edge of a byte (07 R190, R191, R193). -/
theorem test_vector_edges :
    ([(.vadd, 0x7F, 1, 0x80), (.vsadd, 0x7F, 1, 0x7F), (.vssub, 0x80, 1, 0x80), (.vsaddu, 0xFF, 1, 0xFF), (.vssubu, 0, 1, 0), (.vmulh, 0x80, 0x80, 0x40),
      (.vmulhu, 0xFF, 0xFF, 0xFE), (.vsra, 0x80, 7, 0xFF), (.vsrl, 0x80, 15, 1), (.vsll, 1, 8, 1), (.vmin, 0x80, 0x7F, 0x80), (.vminu, 0x80, 0x7F, 0x7F),
      (.vabs, 0x80, 0, 0x80), (.vneg, 0x80, 0, 0x80), (.vandn, 0xFF, 0x0F, 0xF0), (.vrsubS, 1, 0, 0xFF), (.vpopc, 0xFF, 0, 8), (.vclz, 1, 0, 7),
      (.vctz, 0, 0, 8)] : List (VOp × Nat × Nat × Nat)).all (fun (op, x, z, r) => intOp op 8 0 0 x z 0 == r) = true := by decide +kernel

/-- IntegerLaneAndMaskResults, CrossElementResults: elements within and outside the range and the mask; a first element found at each
end and none. -/
theorem test_meets_elements :
    vtSew (maskEntry .vadd).vtype ≤ 64 ∧ 0 ≤ 7 ∧ 7 < 8 ∧
    (let y := laneInt ramp { maskEntry .vcltu with f := ⟨1, 2, 1, 0, VMask.all⟩ } 0 8
     predicate (maskBits y 1) (maskEntry .vadd).f.k 3 = true ∧ predicate (maskBits y 1) (maskEntry .vadd).f.k 2 = false ∧
       ((tab 8 0 id).filter fun i => predicate (maskBits y 1) VMask.all i) = [0, 1, 2] ++ 3 :: [4, 5, 6, 7] ∧
       (∀ j ∈ [0, 1, 2], (maskBits y 1).getD j false = false) ∧ (maskBits y 1).getD 3 false = true ∧
       (∀ i ∈ tab 8 0 id, (maskBits y 2).getD i false = false) ∧ (src y 1).at 32 7 = (7 : Word).toNat % 2 ^ 32) ∧
    vtFmt (0x405 : BitVec 20) = 0 ∧ vtFmt (0x40D : BitVec 20) = 1 := by decide +kernel

/-- A task forked and dispatched: its pc, its argument in g3, the next number; and one that takes a context (04 R93, R96, R101, R114). -/
theorem test_tasks :
    let s := withG tm [(1, 0x4000), (2, 77)]
    let t := after (exec (.fork 0 1 2) s) tm
    let u := after (exec (.dispatch 0 1) t) tm
    (coreAt t 0).wings.map (fun p => (p.pc, p.arg, p.taskid)) = [(0x4000, 77, 1)] ∧ (slotAt u 1).st = .ready ∧ (slotAt u 1).pc = 0x4000 ∧
    readG (slotAt u 1) 3 = 77 ∧ (coreAt u 0).wings = [] ∧ (me (after (exec .retire tm) tm)).st = .free ∧
    readG (me (after (exec (.vacq 3 0) (tweakCtx tmFree fun y => { y with bound := none })) tm)) 3 = 0 := by decide +kernel

/-- A word taken empty and one filled (14 R388 to R390); a curtain of one falls at once (14 R394). -/
theorem test_full_empty :
    (let s : State := { withG tm [(1, 0x3000), (2, 9)] with mem := memPutAll tm.mem 0x3000 [42], full := [0x3000 / 8] }
     let t := after (exec (.feRequest 0) (after (exec (.lde 3 1) s) tm)) tm
     readG (me t) 3 = 42 ∧ t.full = [] ∧ (me t).pc = 0x2002 ∧
       (let u := after (exec (.feRequest 0) (after (exec (.stf 2 1) t) tm)) tm
        u.full = [0x3000 / 8] ∧ memBytes u.mem 0x3000 2 = [9, 0])) ∧
    (let s := withG tmCurtains [(1, 3), (2, 1)]
     let t := after (exec (.curtainHome 0) (after (exec (.curtain 1 2) s) tm)) tm
     (me t).st = .ready ∧ (me t).pc = 0x2002 ∧ t.curtainReqs = []) := by decide +kernel

/-- A launch of a block that passes: production 2 with its ways, contexts and class on core 1 (04 R106, R109). -/
theorem test_launch :
    let t := after (exec (.launch 3 1) (withG tmBlock [(1, 0x3000)])) tm
    (prodAt t 2).map (fun p => (p.ways, p.contexts, p.cls, p.share)) = some (1, 1, 3, 1) := by decide +kernel

/-- A copy of eight bytes in scratch ends with a token of DONE 8 (13 R360, R364). -/
theorem test_copy :
    let s := tweakCore (withG tm [(1, near 64), (2, near 0), (3, 2 ^ 60 + 8)]) fun k => { k with scratch := [(1, ⟨[39], [(0, 0xAB), (7, 0xCD)], [], []⟩)] }
    let t := after (exec (.engineOperationDone 0 0) (after (exec (.cpy 3 1 2) s) tm)) tm
    scratchBytes t 0 1 64 8 = [0xAB, 0, 0, 0, 0, 0, 0, 0xCD] ∧ readG (me t) 3 = 8 ∧ (me t).outC = 0 ∧ bitOf (me t).pend 3 = false := by decide +kernel

/-- The seal of the bytes "123456789" under the generator 0x1021 from 0xFFFF (17 R434). -/
theorem test_seal : crc16 [0x31, 0x32, 0x33, 0x34, 0x35, 0x36, 0x37, 0x38, 0x39] = 0x29B1 := by decide +kernel

/-- A write into a window reaches memory and is acknowledged; one past its end is refused with STATUS 2 (18 R455 to R458). -/
theorem test_door_write :
    (let t := after (exec (.stageDoorWrite (packet 32 32 [rec32 5])) tmDoor) tm
     memBytes t.mem 0x3020 32 = List.replicate 32 5 ∧ memByte t.mem 0x301F = 0 ∧
       t.door.outbox.map (fun o => match o with
         | .packet q => (q.kind, q.tag, q.status)
         | _ => (0, 0, 9)) = [(5, 3, 0)]) ∧
    (let t := after (exec (.stageDoorWrite (packet 225 32 [rec32 5, rec32 5])) tmDoor) tm
     t.mem = tmDoor.mem ∧ t.door.outbox.map (fun o => match o with
         | .packet q => (q.kind, q.tag, q.status)
         | _ => (0, 0, 9)) = [(6, 3, 2)]) := by decide +kernel

/-- A frame of sequence 7 whose shelf asks for level 8 raises the level to it at once (16 R410, R413). -/
theorem test_shelf_frame :
    let t := after (exec (.shelfFrame (frame 7 8) 10) tmShelf) tm
    t.dimmer.level = 8 ∧ t.dimmer.lastSeq = some 7 ∧ t.dimmer.accepted = 1 := by decide +kernel

/-- The words the host places run as the next step: `add g0, g0, g0` goes on, and table bits read as words (02 R33). -/
theorem test_fetch_word :
    decodeTableWord 16 0x0394 = some (.add 3 4 5) ∧ decodeTableWord 32 0xFC020DDC = some (.vadd 5 6 7 VMask.all) ∧
    (let s := State.reset.withFetchWord 16 0x0394
     decide (nextPick s = .turn 0) = true ∧ (me (after (step s) State.reset)).pc = 0x2002) := by decide +kernel

/-- The bounds of R233 around values worked out by hand: 1/3 lies 1/3 of a unit below 0x3EAAAAAB, so that pattern and the one below
are within 1 ulp; e = 2.71828183, ln 3 = 1.09861229 and erf 1 = 0.84270079 have their nearest patterns; sin 0.5 is bounded
absolutely, 2^−22 being 8 of its units. -/
theorem test_sfu_bound :
    ([0x3EAAAAA9, 0x3EAAAAAA, 0x3EAAAAAB, 0x3EAAAAAC].map (sfuMay 0 0x40400000) = [false, true, true, false]) ∧
    sfuMay 3 0x3F800000 0x402DF854 = true ∧ sfuMay 3 0x3F800000 0x402DF858 = false ∧
    sfuMay 5 0x40400000 0x3F8C9F54 = true ∧ sfuMay 10 0x3F800000 0x3F57BB3D = true ∧ sfuMay 2 0x40000000 0x40800000 = true ∧
    sfuMay 6 0x3F000000 0x3EF57744 = true ∧ sfuMay 6 0x3F000000 0x3EF57750 = false := by decide +kernel

/-- IntegerElementResults, CrossElementMoves: a byte with seven leading and one with two trailing zeros; movements of eight elements of
32 bits, with the equal and unequal elements that `vconflict` and `vprobe` ask for. -/
theorem test_meets_moves :
    (1 : Nat) < 2 ^ (8 - 7) ∧ 2 ^ (8 - 7 - 1) ≤ 1 ∧ 12 % 2 ^ 2 = 0 ∧ 12 / 2 ^ 2 % 2 = 1 ∧ 2 ^ 2 < 8 ∧
    ([.vslideup, .vslidednS, .vxchg, .vcompress, .vexpand, .vperm, .vgath8, .vconflict, .vmatch] : List VOp).all (fun op =>
      decide (vtSew (maskEntry op).vtype ≤ 64 ∧ (op ∈ moveOps ∨ op = .vmatch))) = true ∧
    (let a (i : Nat) : Nat := (src ({ loadCtx with v := [(1, [5, 6, 5, 5])] }) 1).at 32 i
     a 2 = a 0 ∧ a 1 ≠ a 2 ∧ a 1 ≠ a 0 ∧ ∀ i ∈ tab 4 0 id, a i ≠ 7) := by decide +kernel

/-- TileResults: panels in scratch and items of the queue, with a hook and without, of no step and of two; places of scratch and of a
pinned page; rows within their limits, of elements with a hook and without, and of no element. -/
theorem test_meets_TileResults :
    ([(0, false), (0x7FA10000, true)] : List (Nat × Bool)).all (fun (v, hook) =>
      let s := tweakCore (tmEntry 0x41D 8 .tmma ⟨1, 0, 0, 0, VMask.all⟩) fun k => { k with scratch := [(1, ⟨[39], (leBytes 4 v).zipIdx.map (fun (b, i) => (64 + i, b)), [], []⟩)] }
      let e := { headEntry s with ga := near 64, gb := BitVec.ofNat 64 (1 + 2 * 2 ^ 28 + 64 * 2 ^ 44) }
      decide (bitOf e.gb 3 = false ∧ tmmaSteps e = 2 ∧ tmmaSize e = 4 ∧ tmmaB e = near 128 ∧ (scratchAt s (ctxCore 4) (ctxProd 4)).poison = []) &&
        isHook (leNat (scratchBytes s (ctxCore 4) (ctxProd 4) 64 4)) == hook) = true ∧
    (let s := tweakCtx (tmEntry 0x41D 8 .tmma ⟨1, 0, 0, 0, VMask.all⟩) fun y => { y with tileQ := List.replicate 32 0x3F800000 }
     let e := { headEntry s with gb := BitVec.ofNat 64 (9 + 2 * 2 ^ 28) }
     bitOf e.gb 3 = true ∧ tmmaSteps e = 2 ∧ e.acc = [] ∧ e.late = none ∧ 16 * tmmaSteps e ≤ (ctxAt s 4).tileQ.length ∧
       isHook (((ctxAt s 4).tileQ.getD 0 0).toNat % 2 ^ 32) = false) ∧
    [near 64, 0x3000].all (fun a =>
      let s := tweakCore (tmEntry 0x41D 8 .tld ⟨1, 0, 0, 0, VMask.all⟩) fun k => { k with pins := [⟨⟨0, false, 0, 0xF0⟩, 4, 1, true⟩] }
      decide (s.door.remotes = [] ∧ MemOk s) && (List.range 64).all fun n => match pinnedLoc s 4 1 needRW (a + BitVec.ofNat 64 (8 * n)) with
        | some (.phys pa) => !isAperture pa && ((List.range 8).all fun i => !isRemote 0 (pa + i)) && !locPoisoned s 0 (.phys pa)
        | some l => !locPoisoned s 0 l
        | none => false) = true ∧
    fld (0x0001000000080 : Word) 0 4 ≤ 3 ∧ fld (0x80 : Word) 4 4 ≤ 8 ∧ fld (0x80 : Word) 0 4 = 0 ∧ fld (0x83 : Word) 0 4 = 3 ∧
    isHook ((src floats 1).at 32 2) = true ∧ isHook ((src floats 1).at 32 3) = false := by decide +kernel

/-- StripsRun: the last pass of a slide. -/
theorem test_meets_StripsRun_pass :
    let s := tweakCtx (tmEntry 0x41D 8 .vslideup ⟨5, 6, 7, 0, VMask.all⟩) fun y => { y with queue := y.queue.map fun e => { e with passes := 1, begun := true } }
    let e := headEntry s
    (ctxAt s 4).queue = [e] ∧ e.st = .queued ∧ opKind e.op = .cross ∧ 0 < e.passes ∧ treePasses e 0 ≤ e.passes + 1 := by decide +kernel

/-- ParkedEvents, DONE: a place that `launch` found in memory and its page. -/
theorem test_meets_ParkedEvents_done :
    let v := { loadProd with done := .phys 0x3050, donePage := some ⟨0, false, 0, 0xF0⟩, ending := some 1, doneFe := false }
    let s := { tm with slots := [], prods := [(1, v)] }
    prodAt s 1 = some v ∧ prodOver s 1 v = true ∧ isAperture 0x3050 = false ∧ 0x3050 % 8 = 0 ∧ MemOk s ∧
      (match donePlace s v with
       | .migrating => false
       | _ => true) = true := by decide +kernel

/-- FencesAndWriteBacks, SentPackets: a slot that has stored through connection 0, on which nothing waits. -/
theorem test_meets_apertures :
    (let s : State := { tmDoor with door := { tmDoor.door with conns := [(0, ⟨1, 0, [], [], 0, 0, 0, 0, [], [tmDoor.cur]⟩)] } }
     let u := releaseAt s 0 .system
     releaseReady s = true ∧ tableWaits u = false ∧ u.door.deferred = [] ∧ (u.door.conns.map fun q => q.2.wrote.contains s.cur) = [true] ∧
       (stageConn u 0).isSome = true) ∧
    answerWaits (tmWaits (.msg me0 5 0 [1] none) []) 0 = false := by decide +kernel

/-- CollectiveResults: no member has said that one is lost, and one has; the owner's task holds its slot. -/
theorem test_meets_CollectiveResults_lost :
    (let s : State := { tmDoor with door := { tmDoor.door with colls := [twoColl] } }
     toldLost s twoColl = false ∧ tokenWaits s twoColl.owner = false ∧ startColls s = s) ∧
    toldLost ({ tmDoor with door := { tmDoor.door with colls := [twoColl], collIn := [⟨0, 2, 0, 0, 1, 1, []⟩] } }) twoColl = true := by
  decide +kernel

/-- CollectiveResults: no engine owns a line there. -/
theorem test_meets_CollectiveResults_owned :
    ∀ l n, ownedBefore { tmDoor with door := { tmDoor.door with colls := [twoColl] } } twoColl.age l n = false :=
  (owns_nothing _ (by decide +kernel) (by decide +kernel) (by decide +kernel)).2 _

/-- PowerResults: handles in their order; a clock that the loop has still to lock to, and one it has. -/
theorem test_meets_PowerResults_handles :
    InHandleOrder (handlesNow tm 0) ∧ (clusterAt tm 0).pll = clockNow tm 0 ∧
    (let s : State := { tm with clusters := [(0, { cluster0 with clock := 4 })] }
     (clusterAt s 0).pll ≠ clockNow s 0) := by decide +kernel

/-- DimmerResults: level 3 to be left, its hold under way and run out; tasks ready, parked and stopped for the debugger. -/
theorem test_meets_DimmerResults_hold :
    (let s : State := { tmShelf with dimmer := { tmShelf.dimmer with level := 3, holdFrom := some 100 } }
     exitLevel s 3 50000 800 = true ∧ 200099 - 100 < fld s.dimmer.hold 0 16 * 1000 ∧ fld s.dimmer.hold 0 16 * 1000 ≤ 200100 - 100) ∧
    ((slotAt tm 0).st = .ready ∧ (me (tmParked (.pending 5))).st = .parked (.pending 5) ∧
      (let s := tweak tm fun x => { x with st := .stopped (.debug 4) none }
       (slotAt s 0).st = .stopped (.debug 4) none)) := by decide +kernel

/-- BringUpResults: a stage within its limit and past it; slots of the supervisor and not. -/
theorem test_meets_BringUpResults_limits :
    max (atStage 1).now 150000 ≤ (atStage 1).mgmt.stageAt + 150000 ∧ (atStage 1).mgmt.stageAt + 150000 < max (atStage 1).now 150001 ∧
    max (atStage 5).now 50000 ≤ (atStage 5).mgmt.stageAt + 50000 ∧ coreExists (atStage 5) 1023 = true ∧ coreExists (atStage 5) 1024 = false := by
  decide +kernel

/-- DebugResults: a slot that waits with an instruction still to issue. -/
theorem test_meets_DebugResults_since :
    let s := tweak tm fun x => { x with since := some 3 }
    (slotAt s (dbgSlot s)).st = .ready ∧ (slotAt s (dbgSlot s)).since ≠ none ∧ dbgAnswers s = true := by decide +kernel

/-- The column step of `vadd` on the operand rows of R484's table, with C, the row written and H0 after each of its five steps as
the table gives them. -/
theorem test_vadd_step_table :
    let row (n : Nat) (l : List Nat) : List Nat := l.map fun x => x / 2 ^ n % 2
    let a := [0, 1, 2, 3, 4, 5, 6, 7, 8, 9, 10, 11, 12, 13, 14, 15]
    let b := [3, 10, 1, 8, 15, 6, 13, 4, 11, 2, 9, 0, 7, 14, 5, 12]
    let after (n : Nat) := (a.zip b).map fun (x, y) => columnAfter .vadd 4 x y true ⟨true, false, false, true, 0⟩ n
    let c (n : Nat) := (after n).map fun x => x.c.toNat
    row 0 b = [1, 0, 1, 0, 1, 0, 1, 0, 1, 0, 1, 0, 1, 0, 1, 0] ∧ row 3 b = [0, 1, 0, 1, 1, 0, 1, 0, 1, 0, 1, 0, 0, 1, 0, 1] ∧
    c 1 = List.replicate 16 0 ∧ c 2 = List.replicate 16 0 ∧ c 3 = [0, 0, 0, 0, 1, 1, 1, 1, 0, 0, 0, 0, 1, 1, 1, 1] ∧
    c 4 = [0, 0, 0, 0, 1, 0, 1, 0, 1, 0, 1, 0, 1, 1, 1, 1] ∧ c 5 = c 4 ∧ ((after 5).map fun x => x.h.toNat) = c 4 ∧
    ((after 5).map fun x => x.d) = [3, 11, 3, 11, 3, 11, 3, 11, 3, 11, 3, 11, 3, 11, 3, 11] := by decide +kernel

end Sys2Proof.Tests
end

/-! PROOFS. The instruction words (02): decode and encode agree, a step runs what it decodes, branches and jumps. -/

namespace Sys2Proof

/-! The prefixes of an encoding, read back word by word (02 R29, R38, R39, R43, R55). -/

/-- A field of a word is what its bits are worth. -/
theorem fld_eq_extractLsb' {w : Nat} (x : BitVec w) (lo n : Nat) : fld x lo n = (x.extractLsb' lo n).toNat := rfl

/-- The PP payload that selects a page; page 0 needs none (R41, R55). -/
def ppFor (page : Nat) : Option (BitVec 9) := if page = 0 then none else some (BitVec.ofNat 9 page)

/-- The PR payload that an encoding carries; zero needs none (R55). -/
def prFor (pr : BitVec 9) : Option (BitVec 9) := if pr = 0 then none else some pr

/-- What has been read of an encoding when its base word is reached. -/
def prefixesOf (page : Nat) (pr : BitVec 9) (pm : Option (BitVec 9)) (px : List (BitVec 9)) : Prefixes :=
  ⟨px, prFor pr, ppFor page, pm⟩

/-- The word of a PX, PR, PP or PM: its seven fixed bits over its payload (R38). -/
def prefixWord (tag : BitVec 7) (x : BitVec 9) : Half := tag ++ x

theorem fld_prefixWord_major (t : BitVec 7) (x : BitVec 9) : fld (prefixWord t x) 11 5 = (t.extractLsb' 2 5).toNat := by
  rw [fld_eq_extractLsb', prefixWord, BitVec.extractLsb'_append_eq_of_le (by decide)]

theorem fld_prefixWord_kind (t : BitVec 7) (x : BitVec 9) : fld (prefixWord t x) 9 2 = (t.extractLsb' 0 2).toNat := by
  rw [fld_eq_extractLsb', prefixWord, BitVec.extractLsb'_append_eq_of_le (by decide)]

@[simp] theorem setWidth_prefixWord (t : BitVec 7) (x : BitVec 9) : (prefixWord t x).setWidth 9 = x :=
  BitVec.setWidth_append_eq_right

/-- The words of an encoding by its payloads. -/
theorem wordsOf_eq (page : Nat) (pr : BitVec 9) (pm : Option (BitVec 9)) (px : List (BitVec 9)) (base : Half) :
    wordsOf page pr pm px base =
      (ppFor page).toList.map (prefixWord 0b1111110) ++ ((prFor pr).toList.map (prefixWord 0b1111101) ++
        (pm.toList.map (prefixWord 0b1111111) ++ (px.map (prefixWord 0b1111100) ++ [base]))) := by
  have hpp : (ppFor page).toList.map (prefixWord 0b1111110) =
      if page = 0 then [] else [prefixWord 0b1111110 (BitVec.ofNat 9 page)] := by
    unfold ppFor; split <;> rfl
  have hpr : (prFor pr).toList.map (prefixWord 0b1111101) = if pr = 0 then [] else [prefixWord 0b1111101 pr] := by
    unfold prFor; split <;> rfl
  rw [hpp, hpr]
  simp only [wordsOf, List.append_assoc]
  rfl

/-- Reading one more of the prefixes, which R43 admits. -/
theorem decodeFrom_prefixWord {p q : Prefixes} {t : BitVec 7} {x : BitVec 9} (ht : t.extractLsb' 2 5 = 31)
    (h : addPrefix p (prefixWord t x) = some q) (k : Nat) (ws : List Half) :
    decodeFrom p k (prefixWord t x :: ws) = decodeFrom q (k + 1) ws := by
  have hw : isPrefixWord (prefixWord t x) = true := by rw [isPrefixWord, fld_prefixWord_major, ht]; rfl
  rw [decodeFrom, if_pos hw]
  simp only [h]

/-- Reading the word of a PR, PP or PM, where an encoding has one. -/
theorem decodeFrom_optional {p q : Prefixes} {t : BitVec 7} {o : Option (BitVec 9)} (ht : t.extractLsb' 2 5 = 31)
    (hn : o = none → p = q) (hs : ∀ x, o = some x → addPrefix p (prefixWord t x) = some q) (k : Nat) (ws : List Half) :
    decodeFrom p k (o.toList.map (prefixWord t) ++ ws) = decodeFrom q (k + o.toList.length) ws := by
  cases o with
  | none => rw [hn rfl]; rfl
  | some x => exact decodeFrom_prefixWord ht (hs x rfl) k ws

/-- Reading PX words: their payloads in fetch order (R36). -/
theorem decodeFrom_px (px : List (BitVec 9)) (p : Prefixes) (k : Nat) (ws : List Half) (h : prefixCount p + px.length ≤ 4) :
    decodeFrom p k (px.map (prefixWord 0b1111100) ++ ws) = decodeFrom { p with px := p.px ++ px } (k + px.length) ws := by
  induction px generalizing p k with
  | nil => simp
  | cons x px ih =>
    rw [List.length_cons] at h
    have ha : addPrefix p (prefixWord 0b1111100 x) = some { p with px := p.px ++ [x] } := by
      rw [addPrefix, if_neg (by omega), fld_prefixWord_kind, setWidth_prefixWord]; rfl
    have hc : prefixCount { p with px := p.px ++ [x] } = prefixCount p + 1 := by
      simp only [prefixCount, List.length_append, List.length_singleton]; omega
    rw [List.map_cons, List.cons_append, decodeFrom_prefixWord (by decide) ha, ih _ _ (by omega), List.length_cons,
      List.append_assoc, Nat.add_assoc, Nat.add_comm 1]
    rfl

/-- Words decode to the instruction that their base word is under their prefixes, where these number at most four. -/
theorem decode_wordsOf {page : Nat} {pr : BitVec 9} {pm : Option (BitVec 9)} {px : List (BitVec 9)} {base : Half} {i : Instr}
    (hc : prefixCount (prefixesOf page pr pm px) ≤ 4) (hb : isPrefixWord base = false)
    (hi : decodeBase (prefixesOf page pr pm px) base = some i) {rest : List Half} :
    decode (wordsOf page pr pm px base ++ rest) = .ok i (wordsOf page pr pm px base).length := by
  simp only [prefixCount, prefixesOf] at hc
  have hpp : ∀ x, ppFor page = some x →
      addPrefix noPrefixes (prefixWord 0b1111110 x) = some ⟨[], none, ppFor page, none⟩ := by
    intro x hx
    rw [hx, addPrefix, fld_prefixWord_kind, setWidth_prefixWord]; rfl
  have hpr : ∀ x, prFor pr = some x →
      addPrefix ⟨[], none, ppFor page, none⟩ (prefixWord 0b1111101 x) = some ⟨[], prFor pr, ppFor page, none⟩ := by
    intro x hx
    rw [hx] at hc ⊢
    simp only [Option.toList_some, List.length_singleton] at hc
    have hlt : ¬ prefixCount ⟨[], none, ppFor page, none⟩ ≥ 4 := by
      simp only [prefixCount, Option.toList_none, List.length_nil]; omega
    rw [addPrefix, if_neg hlt, fld_prefixWord_kind, setWidth_prefixWord]; rfl
  have hpm : ∀ x, pm = some x →
      addPrefix ⟨[], prFor pr, ppFor page, none⟩ (prefixWord 0b1111111 x) = some ⟨[], prFor pr, ppFor page, pm⟩ := by
    intro x hx
    rw [hx] at hc ⊢
    simp only [Option.toList_some, List.length_singleton] at hc
    have hlt : ¬ prefixCount ⟨[], prFor pr, ppFor page, none⟩ ≥ 4 := by
      simp only [prefixCount, Option.toList_none, List.length_nil]; omega
    rw [addPrefix, if_neg hlt, fld_prefixWord_kind, setWidth_prefixWord]; rfl
  rw [decode, wordsOf_eq]
  simp only [List.append_assoc]
  rw [decodeFrom_optional (by decide) (by intro h; rw [h]; rfl) hpp,
    decodeFrom_optional (by decide) (by intro h; rw [h]) hpr,
    decodeFrom_optional (by decide) (by intro h; rw [h]) hpm,
    decodeFrom_px px _ _ _ (by simp only [prefixCount, List.length_nil]; omega), List.singleton_append, decodeFrom,
    if_neg (by simp [hb])]
  rw [prefixesOf] at hi
  simp only [List.nil_append, hi, List.length_append, List.length_map, List.length_singleton, Nat.zero_add, Nat.add_assoc]

/-! What the decoder's field readers make of a base word and the prefixes read before it (02 R34 to R42). -/

@[simp] theorem prOf_prefixesOf (page : Nat) (pr : BitVec 9) (pm : Option (BitVec 9)) (px : List (BitVec 9)) :
    prOf (prefixesOf page pr pm px) = pr := by
  simp only [prOf, prefixesOf, prFor]
  split
  · simp [*]
  · rfl

/-- A base word selects the page its encoding names (R41). -/
theorem pageOf_prefixesOf {page : Nat} (h : page < 512) (pr : BitVec 9) (pm : Option (BitVec 9)) (px : List (BitVec 9)) :
    ((prefixesOf page pr pm px).pp.getD 0).toNat = page := by
  simp only [prefixesOf, ppFor]
  split
  · simp [*]
  · simpa using h

/-- Bits of a base word below the major opcode. -/
theorem extractLsb'_baseWord (maj : Nat) (low : BitVec 11) {lo n : Nat} (h : lo + n ≤ 11) :
    (baseWord maj low).extractLsb' lo n = low.extractLsb' lo n :=
  BitVec.extractLsb'_append_eq_of_add_le h

theorem fld_baseWord_major {maj : Nat} (h : maj < 32) (low : BitVec 11) : fld (baseWord maj low) 11 5 = maj := by
  rw [fld_eq_extractLsb', baseWord, BitVec.extractLsb'_append_eq_left, BitVec.toNat_ofNat]
  exact Nat.mod_eq_of_lt h

theorem isPrefixWord_baseWord {maj : Nat} (h : maj < 31) (low : BitVec 11) : isPrefixWord (baseWord maj low) = false := by
  rw [isPrefixWord, fld_baseWord_major (by omega)]
  simpa using Nat.ne_of_lt h

/-- A register number is its PR pair over its low three bits (R35). -/
theorem extractLsb'_append_setWidth (r : BitVec 5) : r.extractLsb' 3 2 ++ r.setWidth 3 = r := by
  rw [BitVec.setWidth_eq_extractLsb' (by decide)]
  exact BitVec.extractLsb'_append_extractLsb'

section
variable {i j k l : Nat} (x : BitVec i) (y : BitVec j) (z : BitVec k) (u : BitVec l)

theorem extractLsb'_first_of_three : (x ++ y ++ z).extractLsb' (j + k) i = x := by
  rw [BitVec.extractLsb'_append_eq_of_le (by omega), show j + k - k = j by omega, BitVec.extractLsb'_append_eq_left]

theorem extractLsb'_second_of_three : (x ++ y ++ z).extractLsb' k j = y := by
  rw [BitVec.extractLsb'_append_eq_of_le (by omega), Nat.sub_self, BitVec.extractLsb'_append_eq_right]

theorem extractLsb'_first_of_four : (x ++ y ++ z ++ u).extractLsb' (j + k + l) i = x := by
  rw [BitVec.extractLsb'_append_eq_of_le (by omega), show j + k + l - l = j + k by omega, extractLsb'_first_of_three]

theorem extractLsb'_second_of_four : (x ++ y ++ z ++ u).extractLsb' (k + l) j = y := by
  rw [BitVec.extractLsb'_append_eq_of_le (by omega), show k + l - l = k by omega, extractLsb'_second_of_three]

theorem extractLsb'_third_of_four : (x ++ y ++ z ++ u).extractLsb' l k = z := extractLsb'_second_of_three ..

theorem extractLsb'_fourth_of_four : (x ++ y ++ z ++ u).extractLsb' 0 l = u := BitVec.extractLsb'_append_eq_right
end

section
variable (page : Nat) (d a b : BitVec 5) (pm : Option (BitVec 9)) (px : List (BitVec 9))

@[simp] theorem hdOf_prBits : hdOf (prefixesOf page (prBits d a b) pm px) = d.extractLsb' 3 2 := by
  rw [hdOf, prOf_prefixesOf]; exact extractLsb'_first_of_four ..

@[simp] theorem haOf_prBits : haOf (prefixesOf page (prBits d a b) pm px) = a.extractLsb' 3 2 := by
  rw [haOf, prOf_prefixesOf]; exact extractLsb'_second_of_four ..

@[simp] theorem hbOf_prBits : hbOf (prefixesOf page (prBits d a b) pm px) = b.extractLsb' 3 2 := by
  rw [hbOf, prOf_prefixesOf]; exact extractLsb'_third_of_four ..

@[simp] theorem prZero_prBits : prZero (prefixesOf page (prBits d a b) pm px) = true := by
  rw [prZero, prOf_prefixesOf]; exact beq_iff_eq.mpr (extractLsb'_fourth_of_four ..)

end

section
variable (maj : Nat) (d a b : BitVec 3) (m : BitVec 2)

theorem dBits_baseWord : dBits (baseWord maj (d ++ a ++ b ++ m)) = d := by
  rw [dBits, extractLsb'_baseWord maj _ (by decide)]; exact extractLsb'_first_of_four ..

theorem aBits_baseWord : aBits (baseWord maj (d ++ a ++ b ++ m)) = a := by
  rw [aBits, extractLsb'_baseWord maj _ (by decide)]; exact extractLsb'_second_of_four ..

theorem bBits_baseWord : bBits (baseWord maj (d ++ a ++ b ++ m)) = b := by
  rw [bBits, extractLsb'_baseWord maj _ (by decide)]; exact extractLsb'_third_of_four ..

theorem fld_minor_baseWord : fld (baseWord maj (d ++ a ++ b ++ m)) 0 2 = m.toNat := by
  rw [fld_eq_extractLsb', extractLsb'_baseWord maj _ (by decide)]; exact congrArg BitVec.toNat (extractLsb'_fourth_of_four ..)

theorem minorOf_baseWord : minorOf (baseWord maj (d ++ a ++ b ++ m)) = m := by
  rw [minorOf, extractLsb'_baseWord maj _ (by decide)]; exact extractLsb'_fourth_of_four ..
end

/-- With at most one PX word an encoding has no more prefixes than R39 admits. -/
theorem prefixCount_le_four (page : Nat) (pr : BitVec 9) (pm : Option (BitVec 9)) {px : List (BitVec 9)} (h : px.length ≤ 1) :
    prefixCount (prefixesOf page pr pm px) ≤ 4 := by
  have hpp := Option.length_toList_le (o := ppFor page)
  have hpr := Option.length_toList_le (o := prFor pr)
  have hpm := Option.length_toList_le (o := pm)
  simp only [prefixCount, prefixesOf]
  omega

/-- The row of the page tables at a page and a major opcode, where its fields are read as `reads` says, is instruction `i`
(R46 to R52). -/
def TableRow (page maj : Nat) (reads : Prefixes → Half → Prop) (i : Instr) : Prop :=
  ∀ (p : Prefixes) (w : Half), (p.pp.getD 0).toNat = page → fld w 11 5 = maj → reads p w → decodeBase p w = some i

/-- Words of a row whose fields are read as the row has them decode to its instruction. -/
theorem decode_row {page maj : Nat} {pr : BitVec 9} {pm : Option (BitVec 9)} {px : List (BitVec 9)} {low : BitVec 11}
    {reads : Prefixes → Half → Prop} {i : Instr} (hpage : page < 512) (hmaj : maj < 31)
    (hc : prefixCount (prefixesOf page pr pm px) ≤ 4) (hr : reads (prefixesOf page pr pm px) (baseWord maj low))
    (hrow : TableRow page maj reads i) {rest : List Half} :
    decode (wordsOf page pr pm px (baseWord maj low) ++ rest) = .ok i (wordsOf page pr pm px (baseWord maj low)).length :=
  decode_wordsOf hc (isPrefixWord_baseWord hmaj low)
    (hrow _ _ (pageOf_prefixesOf hpage pr pm px) (fld_baseWord_major (by omega) low) hr)

/-! Register fields, the mask operand, and the formats F3 and FV (02 R34, R35, R40, R42). -/

/-- Whether a register number may stand in a field (R35, R40, R180). -/
def fieldFits : FieldKind → BitVec 5 → Bool
  | .wide, _ => true
  | .narrow, r => r.extractLsb' 3 2 == 0
  | .width, r => r.extractLsb' 3 2 == 0 && decide (r.setWidth 3 < 6#3)
  | .zero, r => r == 0
  | .ignored, r => r == 0

/-- A register number that may stand in a field is read from it. -/
theorem readField_of_fieldFits {k : FieldKind} {r : BitVec 5} (h : fieldFits k r = true) :
    readField k (r.extractLsb' 3 2) (r.setWidth 3) = some r := by
  cases k with
  | wide => rw [readField, extractLsb'_append_setWidth]
  | narrow =>
    have hr : r.extractLsb' 3 2 = 0 := by simpa [fieldFits] using h
    rw [readField, if_pos hr, extractLsb'_append_setWidth]
  | width =>
    have hr : r.extractLsb' 3 2 = 0 ∧ r.setWidth 3 < 6 := by simpa [fieldFits] using h
    rw [readField, if_pos hr, extractLsb'_append_setWidth]
  | zero | ignored =>
    have hr : r = 0 := by simpa [fieldFits] using h
    subst hr; rfl

/-- A three-bit register number has no PR pair. -/
@[simp] theorem extractLsb'_setWidth_three (x : BitVec 3) : (x.setWidth 5).extractLsb' 3 2 = 0#2 := by
  revert x; decide

@[simp] theorem setWidth_five_three (x : BitVec 3) : (x.setWidth 5).setWidth 3 = x := by
  revert x; decide

/-- Whether a fourth operand and a mask may stand in an instruction that PM is allowed `m` (R42, R180). -/
def maskFits (m : MaskKind) (c : BitVec 4) (k : VMask) : Bool :=
  match m with
  | .no => decide (c = 0 ∧ k = VMask.all)
  | .opt => decide (c = 0) && k.wf
  | .req => decide (c = 0) && (k.wf && k.en)
  | .fourth => k.wf

@[simp] theorem cBits_pmBits (c : BitVec 4) (k : VMask) : cBits (pmBits c k) = c := BitVec.setWidth_append_eq_right

/-- A bit is what its one-bit field holds. -/
theorem bitOf_eq_of_extractLsb' {w n : Nat} {x : BitVec w} {b : Bool} (h : x.extractLsb' n 1 = BitVec.ofBool b) :
    bitOf x n = b := by
  have hx : (x.extractLsb' n 1).getLsbD 0 = (BitVec.ofBool b).getLsbD 0 := by rw [h]
  simpa [bitOf] using hx

theorem readMask_pmBits (c : BitVec 4) {k : VMask} (h : k.wf = true) : readMask (pmBits c k) = some k := by
  have he : bitOf (pmBits c k) 5 = k.en := bitOf_eq_of_extractLsb' (extractLsb'_second_of_four ..)
  have hv : bitOf (pmBits c k) 4 = k.inv := bitOf_eq_of_extractLsb' (extractLsb'_third_of_four ..)
  have hr : (pmBits c k).extractLsb' 6 3 = k.reg := extractLsb'_first_of_four ..
  simp only [readMask, he, hv, hr, h, if_true]

/-- A fourth operand and a mask that an instruction may have are read from its PM word, or from the want of one. -/
theorem readPm_pmFor {m : MaskKind} {c : BitVec 4} {k : VMask} (h : maskFits m c k = true) :
    readPm m (pmFor m c k) = some (c, k) := by
  cases m with
  | no =>
    obtain ⟨rfl, rfl⟩ := of_decide_eq_true h
    rfl
  | opt =>
    obtain ⟨rfl, hk⟩ : c = 0 ∧ k.wf = true := by simpa [maskFits] using h
    by_cases ha : k = VMask.all
    · subst ha; rfl
    · simp [pmFor, readPm, ha, readMask_pmBits 0#4 hk]
  | req =>
    obtain ⟨rfl, hk, he⟩ : c = 0 ∧ k.wf = true ∧ k.en = true := by simpa [maskFits] using h
    simp [pmFor, readPm, readMask_pmBits 0#4 hk, he]
  | fourth => simp [pmFor, readPm, readMask_pmBits c h]

/-- Whether operands may stand in an instruction of a shape. -/
def fieldsFit (sh : F3Shape) (f : F3Fields) : Bool := fieldFits sh.d f.d && fieldFits sh.a f.a && fieldFits sh.b f.b

/-- The operands of an F3 or FV instruction are read from its words. -/
theorem readF3_baseWord (page maj minor : Nat) {sh : F3Shape} {f : F3Fields} (hf : fieldsFit sh f = true)
    (hm : maskFits sh.mask f.c f.k = true) :
    readF3 sh (prefixesOf page (prBits f.d f.a f.b) (pmFor sh.mask f.c f.k) [])
      (baseWord maj (d3 f.d ++ a3 f.a ++ a3 f.b ++ BitVec.ofNat 2 minor)) = some f := by
  obtain ⟨⟨hd, ha⟩, hb⟩ : (fieldFits sh.d f.d = true ∧ fieldFits sh.a f.a = true) ∧ fieldFits sh.b f.b = true := by
    simpa [fieldsFit] using hf
  rw [readF3, if_pos ⟨rfl, prZero_prBits ..⟩, hdOf_prBits, haOf_prBits, hbOf_prBits, dBits_baseWord, aBits_baseWord,
    bBits_baseWord, d3, a3, a3, readField_of_fieldFits hd, readField_of_fieldFits ha, readField_of_fieldFits hb]
  simp only [prefixesOf, readPm_pmFor hm]
  rfl

/-- The words of an F3 or FV instruction decode to it. -/
theorem decode_encodeF3 {page maj minor : Nat} {sh : F3Shape} {f : F3Fields} {i : Instr} (hpage : page < 512) (hmaj : maj < 31)
    (hminor : minor < 4) (hf : fieldsFit sh f = true) (hm : maskFits sh.mask f.c f.k = true)
    (hrow : TableRow page maj (fun p w => fld w 0 2 = minor ∧ readF3 sh p w = some f) i) {rest : List Half} :
    decode (encodeF3 page maj minor sh f ++ rest) = .ok i (encodeF3 page maj minor sh f).length := by
  refine decode_row hpage hmaj (prefixCount_le_four _ _ _ (by decide)) ⟨?_, readF3_baseWord page maj minor hf hm⟩ hrow
  rw [fld_minor_baseWord, BitVec.toNat_ofNat, Nat.mod_eq_of_lt hminor]

/-- The two row tables of the vector queue agree. -/
theorem vopAt_vopRow (o : VOp) : vopAt (vopRow o).1 (vopRow o).2.1 (vopRow o).2.2 = some o := by
  cases o <;> rfl

/-- The rows of vector-queue instructions: on pages 2 to 5, beside the rows that the decoder names itself (R48 to R51). -/
theorem vopRow_bounds (o : VOp) :
    ((vopRow o).1 = 2 ∧ (vopRow o).2.1 ≠ 0 ∨ (vopRow o).1 = 3 ∧ (vopRow o).2.1 < 11 ∨ (vopRow o).1 = 4 ∨ (vopRow o).1 = 5) ∧
    (vopRow o).2.1 < 31 ∧ (vopRow o).2.2 < 4 := by
  cases o <;> decide

/-! Vector-queue instructions (02 R48 to R51). -/

/-- Beside the rows that a page names itself, its rows are those of the vector queue. -/
theorem decodeBase_eq_readV {page : Nat} {p : Prefixes} {w : Half} (hp : (p.pp.getD 0).toNat = page)
    (h : page = 2 ∧ fld w 11 5 ≠ 0 ∨ page = 3 ∧ fld w 11 5 < 11 ∨ page = 4 ∨ page = 5) :
    decodeBase p w = readV page p w := by
  obtain ⟨rfl, h0⟩ | ⟨rfl, h11⟩ | rfl | rfl := h
  · simp only [decodeBase, hp, page2]
  · simp only [decodeBase, hp, page3]
    split
    case h_6 => rfl
    all_goals omega
  · simp only [decodeBase, hp, page4]
  · simp only [decodeBase, hp, page5]

/-- The words of a vector-queue instruction decode to it. -/
theorem decode_encodeV {o : VOp} {f : F3Fields} {i : Instr} (hi : vInstr o f = i) (hf : fieldsFit (vopShape o) f = true)
    (hm : maskFits (vopShape o).mask f.c f.k = true) {rest : List Half} :
    decode (encodeV o f ++ rest) = .ok i (encodeV o f).length := by
  obtain ⟨hpage, hmaj, hminor⟩ := vopRow_bounds o
  refine decode_encodeF3 (by omega) hmaj hminor hf hm fun p w hp hM ⟨hN, hr⟩ => ?_
  rw [decodeBase_eq_readV hp (by rwa [hM]), readV, readVop, hM, hN, vopAt_vopRow, Option.bind_some, hr]
  exact congrArg some hi

/-! Immediates and their PX words (02 R36). -/

@[simp] theorem pxDigits_length (k v : Nat) : (pxDigits k v).length = k := by
  induction k generalizing v with
  | zero => rfl
  | succ k ih => simp [pxDigits, ih]

/-- The PX payloads, most significant first, hold the low 9k bits of the number they were cut from. -/
theorem foldl_pxDigits (k v : Nat) : (pxDigits k v).foldl (fun acc x => acc * 512 + x.toNat) 0 = v % 512 ^ k := by
  induction k generalizing v with
  | zero => simp [pxDigits, Nat.mod_one]
  | succ k ih =>
    simp only [pxDigits, List.foldl_append, List.foldl_cons, List.foldl_nil, ih, BitVec.toNat_ofNat]
    rw [show 512 ^ (k + 1) = 512 * 512 ^ k from Nat.pow_succ', Nat.mod_mul]
    omega

/-- A number of `m` bits read as a signed one (R36). -/
theorem signed_of_emod {m : Nat} (hm : 0 < m) {imm : Int} (hlo : -(2 ^ (m - 1) : Int) ≤ imm) (hhi : imm < 2 ^ (m - 1)) :
    (if (imm % 2 ^ m).toNat < 2 ^ (m - 1) then ((imm % 2 ^ m).toNat : Int) else ((imm % 2 ^ m).toNat : Int) - 2 ^ m) = imm := by
  obtain ⟨n, rfl⟩ : ∃ n, m = n + 1 := ⟨m - 1, by omega⟩
  simp only [Nat.add_sub_cancel] at hlo hhi ⊢
  have hcast : ((2 ^ n : Nat) : Int) = 2 ^ n := by norm_cast
  have hpow : (2 : Int) ^ (n + 1) = 2 * 2 ^ n := by rw [Int.pow_succ, Int.mul_comm]
  rw [hpow]
  by_cases h : 0 ≤ imm
  · rw [Int.emod_eq_of_lt h (by omega), if_pos (by omega)]
    omega
  · rw [← Int.add_emod_right, Int.emod_eq_of_lt (by omega) (by omega), if_neg (by omega)]
    omega

/-- A base field and its PX payloads give back the immediate that they were cut from (R36). -/
theorem widenImm_pxDigits {n k : Nat} (hn : 0 < n) {imm : Int} (h : fitsPx n k imm = true) :
    widenImm n (BitVec.ofNat n (imm % 2 ^ (n + 9 * k)).toNat).toNat (pxDigits k ((imm % 2 ^ (n + 9 * k)).toNat / 2 ^ n)) = imm := by
  obtain ⟨hlo, hhi⟩ : -(2 ^ (n + 9 * k - 1) : Int) ≤ imm ∧ imm < 2 ^ (n + 9 * k - 1) := by simpa [fitsPx] using h
  have hlt : (imm % 2 ^ (n + 9 * k)).toNat < 2 ^ n * 512 ^ k := by
    have hp : (512 : Nat) ^ k = 2 ^ (9 * k) := (Nat.pow_mul 2 9 k).symm
    have hc : ((2 ^ (n + 9 * k) : Nat) : Int) = 2 ^ (n + 9 * k) := by norm_cast
    have hb := Int.emod_lt_of_pos imm (b := 2 ^ (n + 9 * k)) (Int.pow_pos (by decide))
    rw [hp, ← Nat.pow_add]
    omega
  have hraw := signed_of_emod (m := n + 9 * k) (by omega) hlo hhi
  rw [widenImm, foldl_pxDigits, pxDigits_length, Nat.mod_eq_of_lt (Nat.div_lt_of_lt_mul hlt), BitVec.toNat_ofNat,
    Nat.div_add_mod']
  exact hraw

/-- An immediate fits its least number of PX words, which are no more than it may have. -/
theorem pxCount_spec {n k : Nat} {imm : Int} (h : fitsPx n k imm = true) (hk : k = 3 ∨ k = 4) :
    fitsPx n (pxCount n imm) imm = true ∧ pxCount n imm ≤ k := by
  unfold pxCount
  by_cases h0 : fitsPx n 0 imm = true
  · rw [if_pos h0]
    exact ⟨h0, by omega⟩
  by_cases h1 : fitsPx n 1 imm = true
  · rw [if_neg h0, if_pos h1]
    exact ⟨h1, by omega⟩
  by_cases h2 : fitsPx n 2 imm = true
  · rw [if_neg h0, if_neg h1, if_pos h2]
    exact ⟨h2, by omega⟩
  by_cases h3 : fitsPx n 3 imm = true
  · rw [if_neg h0, if_neg h1, if_neg h2, if_pos h3]
    exact ⟨h3, by omega⟩
  rw [if_neg h0, if_neg h1, if_neg h2, if_neg h3]
  obtain rfl | rfl := hk
  · exact absurd h h3
  · exact ⟨h, Nat.le_refl 4⟩

/-- The words of an instruction with an immediate decode to it, where its fields are read from any PX payloads and base field
that hold the immediate. -/
theorem decode_encodeImm {maj : Nat} {pr : BitVec 9} {n : Nat} {imm : Int} {low : BitVec n → BitVec 11} {i : Instr}
    (hn : 0 < n) (hmaj : maj < 31) (hf : fits n pr imm = true)
    {reads : Prefixes → Half → Prop} (hr : ∀ (px : List (BitVec 9)) (v : BitVec n), widenImm n v.toNat px = imm →
      reads (prefixesOf 0 pr none px) (baseWord maj (low v)))
    (hrow : TableRow 0 maj reads i) {rest : List Half} :
    decode (encodeImm 0 maj pr n imm low ++ rest) = .ok i (encodeImm 0 maj pr n imm low).length := by
  obtain ⟨hfit, hk⟩ := pxCount_spec hf (by split <;> simp)
  refine decode_row (by decide) hmaj ?_ (hr _ _ (widenImm_pxDigits hn hfit)) hrow
  have hpr : (prFor pr).toList.length = if pr = 0 then 0 else 1 := by unfold prFor; split <;> rfl
  have hpp : (ppFor 0).toList.length = 0 := rfl
  simp only [prefixCount, prefixesOf, pxDigits_length, hpr, hpp, Option.toList_none, List.length_nil]
  split at hk <;> split <;> omega

/-! The formats with an immediate and those without fields of F3 (02 R34 to R37, R47). -/

section
variable (maj : Nat) (d a : BitVec 3) (v : BitVec 5)

theorem dBits_baseWord_FI : dBits (baseWord maj (d ++ a ++ v)) = d := by
  rw [dBits, extractLsb'_baseWord maj _ (by decide)]; exact extractLsb'_first_of_three ..

theorem aBits_baseWord_FI : aBits (baseWord maj (d ++ a ++ v)) = a := by
  rw [aBits, extractLsb'_baseWord maj _ (by decide)]; exact extractLsb'_second_of_three ..

theorem fld_imm_baseWord_FI : fld (baseWord maj (d ++ a ++ v)) 0 5 = v.toNat := by
  rw [fld_eq_extractLsb', extractLsb'_baseWord maj _ (by decide)]; exact congrArg BitVec.toNat BitVec.extractLsb'_append_eq_right

theorem dBits_baseWord_eight (x : BitVec 8) : dBits (baseWord maj (d ++ x)) = d := by
  rw [dBits, extractLsb'_baseWord maj _ (by decide)]; exact BitVec.extractLsb'_append_eq_left

theorem fld_func_baseWord (x : BitVec 8) : fld (baseWord maj (d ++ x)) 8 3 = d.toNat :=
  congrArg BitVec.toNat (dBits_baseWord_eight maj d x)

theorem extractLsb'_imm_baseWord (x : BitVec 8) : (baseWord maj (d ++ x)).extractLsb' 0 8 = x := by
  rw [extractLsb'_baseWord maj _ (by decide)]; exact BitVec.extractLsb'_append_eq_right

theorem setWidth_imm_baseWord (x : BitVec 8) : (baseWord maj (d ++ x)).setWidth 8 = x := by
  rw [BitVec.setWidth_eq_extractLsb' (by decide), extractLsb'_imm_baseWord]

theorem fld_imm_baseWord_FW (x : BitVec 8) : fld (baseWord maj (d ++ x)) 0 8 = x.toNat :=
  congrArg BitVec.toNat (extractLsb'_imm_baseWord maj d x)

theorem fld_size_baseWord (b : BitVec 3) (m : BitVec 2) : fld (baseWord maj (d ++ a ++ b ++ m)) 2 3 = b.toNat :=
  congrArg BitVec.toNat (bBits_baseWord maj d a b m)

end

section
variable {maj : Nat} {d a b : GReg} {imm : Int} {i : Instr} {rest : List Half} (hmaj : maj < 31)
include hmaj

/-- The words of an FI instruction decode to it. -/
theorem decode_encodeFI (hf : fits 5 (prBits d a 0) imm = true) (hrow : TableRow 0 maj (fun p w => readFI p w = some (d, a, imm)) i) :
    decode (encodeImm 0 maj (prBits d a 0) 5 imm (fun v => d3 d ++ a3 a ++ v) ++ rest) =
      .ok i (encodeImm 0 maj (prBits d a 0) 5 imm fun v => d3 d ++ a3 a ++ v).length := by
  refine decode_encodeImm (by decide) hmaj hf (fun px v hv => ?_) hrow
  rw [readFI, if_pos ⟨rfl, prZero_prBits .., hbOf_prBits ..⟩, hdOf_prBits, haOf_prBits, dBits_baseWord_FI, aBits_baseWord_FI,
    fld_imm_baseWord_FI, d3, a3, extractLsb'_append_setWidth, extractLsb'_append_setWidth]
  exact congrArg (fun x => some (d, a, x)) hv

/-- The words of an FW instruction decode to it. -/
theorem decode_encodeFW (hf : fits 8 (prBits d 0 0) imm = true) (hrow : TableRow 0 maj (fun p w => readFW p w = some (d, imm)) i) :
    decode (encodeImm 0 maj (prBits d 0 0) 8 imm (fun v => d3 d ++ v) ++ rest) =
      .ok i (encodeImm 0 maj (prBits d 0 0) 8 imm fun v => d3 d ++ v).length := by
  refine decode_encodeImm (by decide) hmaj hf (fun px v hv => ?_) hrow
  rw [readFW, if_pos ⟨rfl, prZero_prBits .., haOf_prBits .., hbOf_prBits ..⟩, hdOf_prBits, dBits_baseWord_eight,
    fld_imm_baseWord_FW, d3, extractLsb'_append_setWidth]
  exact congrArg (fun x => some (d, x)) hv

/-- The words of an FM instruction decode to it. -/
theorem decode_encodeFM {z : BitVec 3} (hf : fits 2 (prBits d a 0) imm = true)
    (hrow : TableRow 0 maj (fun p w => readFM p w = some (d, a, z.toNat, imm)) i) :
    decode (encodeImm 0 maj (prBits d a 0) 2 imm (fun v => d3 d ++ a3 a ++ z ++ v) ++ rest) =
      .ok i (encodeImm 0 maj (prBits d a 0) 2 imm fun v => d3 d ++ a3 a ++ z ++ v).length := by
  refine decode_encodeImm (by decide) hmaj hf (fun px v hv => ?_) hrow
  rw [readFM, if_pos ⟨rfl, prZero_prBits .., hbOf_prBits ..⟩, hdOf_prBits, haOf_prBits, dBits_baseWord, aBits_baseWord,
    fld_size_baseWord, fld_minor_baseWord, d3, a3, extractLsb'_append_setWidth, extractLsb'_append_setWidth]
  exact congrArg (fun x => some (d, a, z.toNat, x)) hv

/-- The words of a branch decode to it. -/
theorem decode_encodeFB (hf : fits 5 (prBits 0 a b) imm = true) (hrow : TableRow 0 maj (fun p w => readFB p w = some (a, b, imm)) i) :
    decode (encodeImm 0 maj (prBits 0 a b) 5 imm (fun v => d3 a ++ a3 b ++ v) ++ rest) =
      .ok i (encodeImm 0 maj (prBits 0 a b) 5 imm fun v => d3 a ++ a3 b ++ v).length := by
  refine decode_encodeImm (by decide) hmaj hf (fun px v hv => ?_) hrow
  rw [readFB, if_pos ⟨rfl, prZero_prBits .., hdOf_prBits ..⟩, haOf_prBits, hbOf_prBits, dBits_baseWord_FI, aBits_baseWord_FI,
    fld_imm_baseWord_FI, d3, a3, extractLsb'_append_setWidth, extractLsb'_append_setWidth]
  exact congrArg (fun x => some (a, b, x)) hv

/-- The words of `j` and `jal` decode to them. -/
theorem decode_encodeFJ (hf : fits 11 0 imm = true) (hrow : TableRow 0 maj (fun p w => readFJ p w = some imm) i) :
    decode (encodeImm 0 maj 0 11 imm (fun v => v) ++ rest) = .ok i (encodeImm 0 maj 0 11 imm fun v => v).length := by
  refine decode_encodeImm (by decide) hmaj hf (fun px v hv => ?_) hrow
  rw [readFJ, if_pos ⟨rfl, rfl⟩, fld_eq_extractLsb', extractLsb'_baseWord maj v (by decide), BitVec.extractLsb'_eq_self]
  exact congrArg some hv

/-- The words of an FS instruction decode to it. -/
theorem decode_encodeFS {page : Nat} {p : Scope} {z : Size} (hpage : page < 512)
    (hrow : TableRow page maj (fun q w => fld w 0 2 = z.code.toNat ∧ readFS q w = some (d, a, p, z)) i) :
    decode (encodeFS page maj d a p z ++ rest) = .ok i (encodeFS page maj d a p z).length := by
  refine decode_row hpage hmaj (prefixCount_le_four _ _ _ (by decide)) ⟨fld_minor_baseWord .., ?_⟩ hrow
  rw [readFS, if_pos ⟨rfl, rfl, prZero_prBits .., hbOf_prBits ..⟩, hdOf_prBits, haOf_prBits, dBits_baseWord, aBits_baseWord,
    bBits_baseWord, minorOf_baseWord, Scope.ofCode_code, Size.ofCode_code, d3, a3, extractLsb'_append_setWidth,
    extractLsb'_append_setWidth]
  rfl

/-- The words of `mfk` and `mtk` decode to them. -/
theorem decode_encodeFK {x : BitVec 8} (hrow : TableRow 1 maj (fun p w => readFK p w = some (d, x)) i) :
    decode (wordsOf 1 (prBits d 0 0) none [] (baseWord maj (d3 d ++ x)) ++ rest) =
      .ok i (wordsOf 1 (prBits d 0 0) none [] (baseWord maj (d3 d ++ x))).length := by
  refine decode_row (by decide) hmaj (prefixCount_le_four _ _ _ (by decide)) ?_ hrow
  rw [readFK, if_pos ⟨rfl, rfl, prZero_prBits .., haOf_prBits .., hbOf_prBits ..⟩, hdOf_prBits, dBits_baseWord_eight,
    setWidth_imm_baseWord, d3, extractLsb'_append_setWidth]

/-- The words of a `sys` instruction decode to it. -/
theorem decode_encodeSys {c : BitVec 3} {n : BitVec 8} (hrow : TableRow 1 maj (fun p w => readSys p w = some (c.toNat, n)) i) :
    decode (wordsOf 1 0 none [] (baseWord maj (c ++ n)) ++ rest) = .ok i (wordsOf 1 0 none [] (baseWord maj (c ++ n))).length := by
  refine decode_row (by decide) hmaj (prefixCount_le_four _ _ _ (by decide)) ?_ hrow
  rw [readSys, if_pos ⟨rfl, rfl, rfl⟩, fld_func_baseWord, setWidth_imm_baseWord]

end

/-- The words of `wait` decode to it. -/
theorem decode_encodeWait {l st c t : BitVec 4} {rest : List Half} :
    decode (encode (.wait l st c t) ++ rest) = .ok (.wait l st c t) (encode (.wait l st c t)).length := by
  refine decode_row (reads := fun p w => readWait p w = some (.wait l st c t)) (by decide) (by decide)
    (prefixCount_le_four _ _ _ (Nat.le_refl _)) ?_ fun p w hp hM hr => by simp only [decodeBase, page1, hp, hM, hr]
  have hfn : fld (baseWord 3 ((0 : BitVec 3) ++ c ++ t)) 8 3 = 0 := by
    rw [fld_eq_extractLsb', extractLsb'_baseWord 3 _ (by decide)]
    exact congrArg BitVec.toNat (extractLsb'_first_of_three ..)
  have hbit : bitOf ((0 : BitVec 1) ++ l ++ st) 8 = false := bitOf_eq_of_extractLsb' (extractLsb'_first_of_three ..)
  have hl : ((0 : BitVec 1) ++ l ++ st).extractLsb' 4 4 = l := extractLsb'_second_of_three ..
  have hst : ((0 : BitVec 1) ++ l ++ st).extractLsb' 0 4 = st := BitVec.extractLsb'_append_eq_right
  have hc : (baseWord 3 ((0 : BitVec 3) ++ c ++ t)).extractLsb' 4 4 = c := by
    rw [extractLsb'_baseWord 3 _ (by decide)]; exact extractLsb'_second_of_three ..
  have ht : (baseWord 3 ((0 : BitVec 3) ++ c ++ t)).extractLsb' 0 4 = t := by
    rw [extractLsb'_baseWord 3 _ (by decide)]; exact BitVec.extractLsb'_append_eq_right
  simp only [readWait, prefixesOf]
  rw [if_pos ⟨trivial, rfl, hfn, hbit⟩, hl, hst, hc, ht]

/-! Every instruction (02 R46 to R52, R55). -/

/-- A shift amount is an immediate of any registers. -/
theorem fits_shift (pr : BitVec 9) (sh : BitVec 6) : fits 5 pr sh.toNat = true := by
  have h := sh.isLt
  simp only [fits, fitsPx]
  split <;> simp <;> omega

theorem shift_range (sh : BitVec 6) : 0 ≤ (sh.toNat : Int) ∧ (sh.toNat : Int) < 64 := by
  have h := sh.isLt
  omega

theorem ofInt_shift (sh : BitVec 6) : BitVec.ofInt 6 sh.toNat = sh := by
  rw [BitVec.ofInt_natCast, BitVec.ofNat_toNat, BitVec.setWidth_eq]

theorem minorOf_eq_of_fld {w : Half} {m : BitVec 2} (h : fld w 0 2 = m.toNat) : minorOf w = m := BitVec.eq_of_toNat_eq h

/-- A fence is an FS word whose registers are zero (R46). -/
theorem readFence_of_readFS {p : Prefixes} {w : Half} {s : Scope} {z : Size} (h : readFS p w = some (0, 0, s, z)) :
    readFence p w = some (s, fld w 0 2) := by
  rw [readFence, h]; rfl

theorem widthCode_lt_six {b : BitVec 3} (h : decide (b.toNat < 6) = true) : b < 6#3 := of_decide_eq_true h

/-- The words of every well-formed instruction decode to it, whatever follows them: a case for each format, in which the page
tables are looked up once. An instruction's words fix the row and the operands, so what is asked of these is elaborated after
them. -/
theorem decode_encode (i : Instr) (rest : List Half) (h : i.wf = true) (he : i.isEvent = false) :
    decode (encode i ++ rest) = .ok (canonical i) (encode i).length := by
  cases i with
  | add | sub | and | or | xor | andn | sll | srl | sra | rol | slt | sltu | min | max | minu | maxu | mul | mulh | mulhu
  | cmov | div | divu | rem | remu | clz | ctz | popc | bswap | sextb | sexth | sextw | jalr | cwb | cinv | cflush
  | cprefetch | tlbi | tlbia | tlbsync | vset | vsetk | fadd | fsub | fmul | fdiv | fma | fmin | fmax | fsqrt | fceq | fclt
  | fcle | fcvt | f2i | i2f | fclass | fabs | fcadapt | fork | join | retire | launch | curtain | curtainx | prodctlQuery
  | prodctlShare | prodctlPause | prodctlResume | prodctlKill | prodctlGrant | prodctlPreempt | qbind | vacq | vrel | boost
  | lde | ldf | stf | ste | feq | fefill | feclr | cpy | cpy2d | cpyg | nmr | coll | sfu | msgs =>
    exact decode_encodeF3 (by decide) (by decide) (by decide) (by rfl) (by rfl) fun p w hp hM ⟨hN, hr⟩ => by
      simp only [decodeBase, page0, page1, page2, page3, page6, hp, hM, hN, hr, Option.map_some, canonical]
  | lea d a b sh =>
    exact decode_encodeF3 (by decide) (by decide) sh.isLt (by rfl) (by rfl) fun p w hp hM ⟨hN, hr⟩ => by
      simp only [decodeBase, page0, hp, hM, hr, Option.map_some, canonical, minorOf_eq_of_fld hN]
  | addi | andi | ori | xori =>
    exact decode_encodeFI (by decide) (by exact h) fun p w hp hM hr => by
      simp only [decodeBase, page0, hp, hM, hr, Option.map_some, canonical]
  | slli d a sh | srli | srai =>
    exact decode_encodeFI (by decide) (fits_shift ..) fun p w hp hM hr => by
      simp only [decodeBase, page0, hp, hM, hr, Option.bind_some, if_pos (shift_range _), ofInt_shift, canonical]
  | li | lih =>
    exact decode_encodeFW (by decide) (by exact h) fun p w hp hM hr => by
      simp only [decodeBase, page0, hp, hM, hr, Option.map_some, canonical]
  | ldb | ldbu | ldh | ldhu | ldw | ldwu | ldd | stb | sth | stw | std =>
    exact decode_encodeFM (by decide) (by exact h) fun p w hp hM hr => by
      simp only [decodeBase, page0, hp, hM, hr, Option.bind_some, BitVec.reduceToNat, canonical]
  | lacq | srel | amoadd | amoswap | amomax | amomin | amoand | amoor =>
    exact decode_encodeFS (by decide) (by decide) fun p w hp hM ⟨_, hr⟩ => by
      simp only [decodeBase, page0, page6, hp, hM, hr, Option.map_some, canonical]
  | amocas d a p z =>
    exact decode_encodeFS (by decide) (by decide) fun p w hp hM ⟨_, hr⟩ => by
      have hd : bitOf d 0 = false := (Bool.not_eq_true' _).mp h
      simp only [decodeBase, page6, hp, hM, hr, hd, Option.bind_some, Bool.false_eq_true, if_false, canonical]
  | fenceFull | fenceAcq | fenceRel | fenceFlush =>
    exact decode_encodeFS (by decide) (by decide) fun p w hp hM ⟨hN, hr⟩ => by
      simp only [decodeBase, page0, hp, hM, readFence_of_readFS hr, hN, Option.bind_some, Size.ofCode,
        Size.code, BitVec.reduceToNat, canonical]
  | beq | bne | blt | bge | bltu | bgeu =>
    exact decode_encodeFB (by decide) (by exact h) fun p w hp hM hr => by
      simp only [decodeBase, page0, hp, hM, hr, Option.map_some, canonical]
  | j | jal =>
    exact decode_encodeFJ (by decide) (by exact h) fun p w hp hM hr => by
      simp only [decodeBase, page0, hp, hM, hr, Option.map_some, canonical]
  | mfk | mtk =>
    exact decode_encodeFK (by decide) fun p w hp hM hr => by
      simp only [decodeBase, page1, hp, hM, hr, Option.map_some, canonical]
  | sysNop | trap | brk | rett | yield | idle =>
    exact decode_encodeSys (by decide) fun p w hp hM hr => by
      simp only [decodeBase, page1, hp, hM, hr, Option.bind_some, BitVec.reduceToNat, canonical]
  | wait => exact decode_encodeWait
  | vadd | vsub | vand | vor | vxor | vandn | vmin | vmax | vminu | vmaxu | vmul | vmulh | vsll | vsrl | vsra | vmulhu
  | vsadd | vssub | vsaddu | vssubu | vmacc | vnmsac | vaddS | vsubS | vrsubS | vandS | vorS | vxorS | vminS | vmaxS | vsllS
  | vsrlS | vsraS | vmulS | vmv | vmvS | vid | vsel | vneg | vabs | vnot | vpopc | vclz | vctz | vslideupS | vslidednS
  | vxchg | vcompress | vexpand | vperm | vgath8 | vconflict | vprobe | vredsum | vredmax | vredmin | vredmaxu | vredand
  | vredor | vredxor | vredminu | vfadd | vfsub | vfmul | vfdiv | vfmin | vfmax | vfsgnj | vfsqrt | vfma | vfms | vfnma
  | vfnms | vfaddS | vfsubS | vfmulS | vfrsubS | vfabs | vfneg | vfclass | vfround | vfcvt | vf2i | vi2f | vf2iT | vqamax
  | vqunpack | vsfu | vfredsumO | vfredsumT | vfredmax | vfredmin | vfdotO | vhksel | vhkcnt | vtopk | vld | vst | vlds
  | vsts | vldx | vstx | vldff | vstxa | vldw | vldrow | vstrow | vamorow | vldsync | mma | mmav =>
    exact decode_encodeV (by rfl) (by rfl) (by exact h)
  | vqscale | vqpack | vfwht | pload | prow | pgang | vdcfg | pbnd | ptree =>
    exact decode_encodeV (by rfl) (by rfl) (by rfl)
  | vceq | vcne | vclt | vcltu | vcle | vcleu | vceqS | vcltS | mpopc | mfirst | msbf | msif | vslideup | vslidedn | vmatch
  | vfceq | vfclt | vfcle | vfcun | vhktest =>
    exact decode_encodeV (by simp [vInstr, canonical])
      (by simp [fieldsFit, vopShape, fieldFits, f3NNZOpt, f3NWWFourth, f3NWWOpt, f3NWZOpt, f3WNZOpt, f3WWNOpt]) (by exact h)
  | mand | mor | mxor | mandn | mnot | mmv | mset | mclr | tmma | tzero | tld | tst | tacc | trow =>
    exact decode_encodeV (by simp [vInstr, canonical])
      (by simp [fieldsFit, vopShape, fieldFits, f3NNN, f3NNZ, f3NWW, f3NWZ, f3NZZ]) (by rfl)
  | vsext | vzext =>
    obtain ⟨hk, hb⟩ := Bool.and_eq_true_iff.mp h
    exact decode_encodeV (by simp [vInstr, canonical])
      (by simp [fieldsFit, vopShape, fieldFits, f3WWWidth, widthCode_lt_six hb]) (by exact hk)
  | _ => nomatch he

/-- Settles O5, by the formats: an encoding is read back word by word, and its base word field by field. -/
theorem decodeEncode : Obligations.DecodeEncode := by
  unfold Obligations.DecodeEncode
  exact decode_encode

/-- Settles O6: the kernel decodes each of the words. -/
theorem decodeWords : Obligations.DecodeWords := by
  unfold Obligations.DecodeWords
  decide +kernel

end Sys2Proof

namespace Sys2Proof.Machine

/-! A slot's turn (02 R43, R44). -/

/-- With nothing on the agenda and bring-up in order, the slot whose turn it is takes it. -/
theorem step_of_turn {s : State} {n : Nat} (ha : s.agenda = []) (he : s.mgmt.error = 0) (hp : nextPick s = .turn n) :
    step s = slotTurn s n := by
  simp only [step, ha, he, hp, ne_eq, not_true_eq_false, if_false]

/-- A ready slot that nothing holds fetches and issues. -/
theorem slotTurn_of_ready {s : State} {n : Nat} (hr : (slotAt (testTurn (startTurn s n) n) n).st = .ready)
    (hf : (slotAt (testTurn (startTurn s n) n) n).freezing = none) (hh : stepHeld (testTurn (startTurn s n) n) n = false)
    (hs : stopBefore (testTurn (startTurn s n) n) n = none) : slotTurn s n = issueTurn (testTurn (startTurn s n) n) n := by
  simp [slotTurn, hr, hf, hh, hs]

/-- What a slot makes of the words it fetched. -/
theorem issueTurn_of_words {s u : State} {ws : List Half} (h : fetch s = .words ws u) (n : Nat) :
    issueTurn s n = thenEnd n (runWords u ws) := by
  simp only [issueTurn, h]

theorem runWords_ok {u : State} {ws : List Half} {i : Instr} {k : Nat} (h : decode ws = .ok i k) :
    runWords u ws = exec i (issuing u ws k) := by
  simp only [runWords, h]

theorem runWords_illegalFormat {u : State} {ws : List Half} {k : Nat} (h : decode ws = .illegalFormat k) :
    runWords u ws = .next (takeTrap u 2 (wordAddr u k)) := by
  simp only [runWords, h]

theorem runWords_illegalInstruction {u : State} {ws : List Half} {k : Nat} (h : decode ws = .illegalInstruction k) :
    runWords u ws = .next (takeTrap u 3 (wordAddr u k)) := by
  simp only [runWords, h]

/-- A step of a slot that fetches runs its words, and what follows a turn is added. -/
theorem step_of_fetch {s u : State} {n : Nat} {ws : List Half} (ha : s.agenda = []) (he : s.mgmt.error = 0)
    (hp : nextPick s = .turn n) (hr : (slotAt (testTurn (startTurn s n) n) n).st = .ready)
    (hf : (slotAt (testTurn (startTurn s n) n) n).freezing = none) (hh : stepHeld (testTurn (startTurn s n) n) n = false)
    (hs : stopBefore (testTurn (startTurn s n) n) n = none) (hw : fetch (testTurn (startTurn s n) n) = .words ws u) :
    step s = thenEnd n (runWords u ws) := by
  rw [step_of_turn ha he hp, slotTurn_of_ready hr hf hh hs, issueTurn_of_words hw]

/-- An event on the agenda is the step, and leaves it. -/
theorem step_of_agenda {s : State} {i : Instr} {rest : List Instr} (h : s.agenda = i :: rest) :
    step s = exec i { s with agenda := rest } := by
  simp only [step, h]

/-- Settles O2, by the step of a slot that fetches and the three things that words can decode to. -/
theorem stepRunsDecoded : Obligations.StepRunsDecoded := by
  unfold Obligations.StepRunsDecoded
  refine ⟨⟨fun s i rest h => step_of_agenda h, ?_⟩, ?_⟩
  · intro s u n k ws i ha he hp hr hf hh hs hw hd
    rw [step_of_fetch ha he hp hr hf hh hs hw, runWords_ok hd]
  · intro s u n k ws ha he hp hr hf hh hs hw
    rw [step_of_fetch ha he hp hr hf hh hs hw]
    constructor
    · intro hd
      rw [runWords_illegalFormat hd]; rfl
    · intro hd
      rw [runWords_illegalInstruction hd]; rfl

/-! Branches and jumps (05 R139 to R141). -/

/-- The target of a branch or jump, computed on the patterns or on the numbers they stand for. -/
theorem pc_add_trunc64 (pc : Word) (x : Int) : pc + trunc64 x = trunc64 (pc.toNat + x) := by
  rw [trunc64, trunc64, BitVec.ofInt_add, BitVec.ofInt_natCast, BitVec.ofNat_toNat, BitVec.setWidth_eq]

/-- A branch over plain operands goes to its target exactly where its relation holds. -/
theorem branch2_jumped {s : State} {a b : GReg} (h : Plain s [a, b]) (disp : Int) {f : Word → Word → Bool} {taken : Prop}
    [Decidable taken] (ht : f (readG (me s) a) (readG (me s) b) = true ↔ taken) :
    branch2 s a b disp f =
      .next (jumped s (me s) (if taken then trunc64 ((me s).pc.toNat + 2 * disp) else nextPc s)) := by
  rw [branch2_plain h, pc_add_trunc64]
  simp only [ht]

/-- A jump that links over plain operands writes the link and goes to its target. -/
theorem jumpTo_writeG_plain {s : State} {d : GReg} (h : plainReg (me s) d = true) (v pc : Word) :
    jumpTo (writeG s d v) pc = jumped s (setG (me s) d v) pc := by
  simp only [writeG_plain h, jumpTo, jumped, me_setMe, setMe_setMe]

theorem exec_jal_plain {s : State} (h : Plain s [1]) (disp : Int) :
    exec (.jal disp) s = .next (jumped s (setG (me s) 1 (nextPc s)) (trunc64 ((me s).pc.toNat + 2 * disp))) := by
  have h1 : plainReg (me s) 1 = true := h 1 (by simp)
  change execJal disp s = _
  rw [execJal, withOps_plain (by simpa using h), jumpTo_writeG_plain h1, pc_add_trunc64]

theorem exec_jalr_plain {s : State} {d a : GReg} (h : Plain s [a, d]) :
    exec (.jalr d a) s =
      if bitOf (readG (me s) a) 0 then .next (takeTrap s 5 (readG (me s) a))
      else .next (jumped s (setG (me s) d (nextPc s)) (readG (me s) a)) := by
  have hd : plainReg (me s) d = true := h d (by simp)
  change execJalr d a s = _
  rw [execJalr, withOps_plain (by simpa using h), ← jumpTo_writeG_plain hd]
  rfl

/-- Settles O10, by the branch over plain operands and the jumps, each with its target as a number. -/
theorem branchAndJumpResults : Obligations.BranchAndJumpResults := by
  unfold Obligations.BranchAndJumpResults
  refine ⟨?_, ?_, fun s disp h => exec_jal_plain h disp, ?_, ?_⟩
  · intro s a b disp h
    refine ⟨branch2_jumped h disp ?_, branch2_jumped h disp ?_, branch2_jumped h disp ?_,
      branch2_jumped (f := fun x y => !x.slt y) h disp ?_, branch2_jumped h disp ?_,
      branch2_jumped (f := fun x y => !x.ult y) h disp ?_⟩
    · exact beq_iff_eq
    · exact bne_iff_ne
    · exact BitVec.slt_iff_toInt_lt
    · simp [BitVec.slt]
    · exact BitVec.ult_iff_toNat_lt
    · simp [BitVec.ult]
  · intro s disp
    rw [← pc_add_trunc64]; rfl
  · intro s d a h hodd
    rw [exec_jalr_plain h, hodd]; rfl
  · intro s d a h hodd
    rw [exec_jalr_plain h, hodd]; rfl

end Sys2Proof.Machine

namespace Sys2Proof.Machine

/-! Writes of the control space (05 R128, R151). -/

/-- The entries of the bound context that a program writes: VSTART, VFAULT and VDCFG (05 R128). -/
abbrev CtxWritten (i : BitVec 8) : Prop := i.toNat = 0x02 ∨ i.toNat = 0x04 ∨ i.toNat = 0x0F

/-- Every slot may use the indices below 0x40. -/
theorem kDenied_low (x : Slot) {i : Nat} (h : i < 0x40) : kDenied x i = false := by
  simp [kDenied, show ¬ 0x80 ≤ i by omega, show ¬ 0x40 ≤ i by omega]

/-- The indices from 0x40 to 0x7F are for the handler state and supervisor slots. -/
theorem kDenied_trap (x : Slot) {i : Nat} (h : 0x40 ≤ i ∧ i < 0x80) : kDenied x i = isUser x := by
  simp [kDenied, h.1, show ¬ 0x80 ≤ i by omega]

/-- A slot replaced by one at the same pc, once its instruction has issued. -/
theorem advance_setMe {s : State} {x : Slot} (h : x.pc = (me s).pc) : advance (setMe s x) = issued s x := by
  rw [advance_eq]
  simp only [issued, me_setMe, setMe_setMe, nextPc, h, irLen_setMe]

/-- A write of a plain register to an entry of the slot, the core or the package. -/
theorem exec_mtk_other {s : State} {d : GReg} {i : BitVec 8} (h : Plain s [d]) (hk : kDenied (me s) i.toNat = false)
    (hi : ¬ CtxWritten i) :
    exec (.mtk d i) s = .next (advance (writeOtherK s i.toNat (readG (me s) d))) := by
  change execMtk d i s = _
  rw [execMtk, withOps_plain (by simpa using h)]
  simp only [hk, if_neg hi]
  rfl

/-- A write that replaces the acting slot, the pc as it was. -/
theorem exec_mtk_slot {s : State} {d : GReg} {i : BitVec 8} {x : Slot} (h : Plain s [d])
    (hw : writeOtherK s i.toNat (readG (me s) d) = setMe s x)
    (hi : ¬ CtxWritten i := by decide) (hpc : x.pc = (me s).pc := by rfl) :
    kDenied (me s) i.toNat = false → exec (.mtk d i) s = .next (issued s x) := by
  intro hk
  rw [exec_mtk_other h hk hi, hw, advance_setMe hpc]

/-- A write that the entry ignores: the slot goes on. -/
theorem exec_mtk_ignored {s : State} {d : GReg} {i : BitVec 8} (h : Plain s [d])
    (hi : ¬ CtxWritten i)
    (hw : writeOtherK s i.toNat (readG (me s) d) = s) (hk : kDenied (me s) i.toNat = false) :
    exec (.mtk d i) s = .next (issued s (me s)) := by
  rw [exec_mtk_other h hk hi, hw, advance_eq]

/-- FRM takes the modes 0 to 5 and ignores the others (03 R73). -/
theorem exec_mtk_frm {s : State} {d : GReg} (h : Plain s [d]) :
    exec (.mtk d 0x0E) s = .next (issued s
      (if 6 ≤ fld (readG (me s) d) 0 3 then me s else { me s with frm := (readG (me s) d).setWidth 3 })) := by
  have hk : kDenied (me s) (0x0E : BitVec 8).toNat = false := kDenied_low _ (by decide)
  split
  case isTrue hv => exact exec_mtk_ignored h (by decide) (if_pos hv) hk
  case isFalse hv => exact exec_mtk_slot h (if_neg hv) (by decide) rfl hk

/-- A write of FFLAGS that waits for no vector instruction takes effect at once. -/
theorem writeFlags_now {s : State} (h : myCtx s = none) (v : Word) :
    writeFlags s v = setMe s { me s with fflags := v.setWidth 6, flagWrites := [] } := by
  simp only [writeFlags, h, Option.bind_none, ite_self]

/-- A write of FFLAGS behind queued vector instructions waits for the last of them. -/
theorem writeFlags_behind {s : State} {n : Nat} {e : QEntry} (hh : (me s).handler = false) (hn : myCtx s = some n)
    (he : (ctxAt s n).queue.getLast? = some e) (v : Word) :
    writeFlags s v = setMe s { me s with flagWrites := (me s).flagWrites ++ [(e.seq, v.setWidth 6)] } := by
  simp [writeFlags, hh, hn, he]

/-- A write to VSTART, VFAULT or VDCFG without a context (05 R128). -/
theorem exec_mtk_noCtx {s : State} {d : GReg} {i : BitVec 8} (h : Plain s [d])
    (hi : CtxWritten i) (hn : myCtx s = none) :
    exec (.mtk d i) s = .next (takeTrap s 13 0) := by
  change execMtk d i s = _
  rw [execMtk, withOps_plain (by simpa using h)]
  simp only [kDenied_low (me s) (show i.toNat < 0x40 by omega), if_pos hi, hn]
  rfl

/-- A write to VSTART, VFAULT or VDCFG of a bound context. -/
theorem exec_mtk_ctx {s t : State} {d : GReg} {i : BitVec 8} {n : Nat} (h : Plain s [d])
    (hi : CtxWritten i) (hn : myCtx s = some n)
    (hw : writeCtxK s n i.toNat (readG (me s) d) = t) : exec (.mtk d i) s = .next (advance t) := by
  change execMtk d i s = _
  rw [← hw, execMtk, withOps_plain (by simpa using h)]
  simp only [kDenied_low (me s) (show i.toNat < 0x40 by omega), if_pos hi, hn]
  rfl

/-- A VSTART, with nothing queued (05 R151). -/
theorem writeCtxK_vstart {s : State} {n : Nat} (hq : (ctxAt s n).queue = []) (v : Word) :
    writeCtxK s n 0x02 v = setCtx s n { ctxAt s n with vstart := v.toNat % 65536 } := by
  simp [writeCtxK, hq, fld]

/-- A VFAULT, with nothing queued (17 R431). -/
theorem writeCtxK_vfault {s : State} {n : Nat} (hq : (ctxAt s n).queue = []) (v : Word) :
    writeCtxK s n 0x04 v = setCtx s n { ctxAt s n with vfault := v &&& 0xFF00FFFFFFFF001F } := by
  simp [writeCtxK, hq, vfaultMask]

/-- Settles O24, by the slot's entries, FRM and FFLAGS, the ignored ones, the core's, and the context's. -/
theorem controlWrites : Obligations.ControlWrites := by
  unfold Obligations.ControlWrites
  intro s d h x v k put
  refine ⟨exec_mtk_slot h rfl, exec_mtk_slot h rfl, exec_mtk_slot h rfl, exec_mtk_slot h rfl, exec_mtk_slot h rfl,
    exec_mtk_slot h rfl, exec_mtk_slot h rfl, exec_mtk_slot h rfl, exec_mtk_slot h rfl, exec_mtk_slot h rfl,
    exec_mtk_slot h rfl, exec_mtk_slot h rfl, fun _ => exec_mtk_frm h, fun hn => exec_mtk_slot h (writeFlags_now hn v),
    fun n e hh hn he => exec_mtk_slot h (writeFlags_behind hh hn he v), ?_, ?_, ?_, ?_⟩
  · intro i hi
    simp only [List.mem_cons, List.not_mem_nil, or_false] at hi
    rcases hi with rfl | rfl | rfl | rfl | rfl | rfl | rfl | rfl | rfl | rfl | rfl | rfl | rfl | rfl | rfl | rfl | rfl | rfl |
      rfl | rfl | rfl | rfl | rfl | rfl | rfl | rfl | rfl | rfl <;> exact exec_mtk_ignored h (by decide) rfl
  · intro hk
    have core {i : BitVec 8} (hi : 0x40 ≤ i.toNat ∧ i.toNat < 0x80) :=
      exec_mtk_other (i := i) h ((kDenied_trap x hi).trans (hk ▸ (kDenied_trap x (by decide)).symm)) (by omega)
    exact ⟨core (by decide), core (by decide), core (by decide)⟩
  · intro i hi hn
    refine exec_mtk_noCtx h ?_ hn
    simp only [List.mem_cons, List.not_mem_nil, or_false] at hi
    rcases hi with rfl | rfl | rfl <;> decide
  · intro n hn hq
    exact ⟨exec_mtk_ctx h (by decide) hn (writeCtxK_vstart hq v), exec_mtk_ctx h (by decide) hn (writeCtxK_vfault hq v),
      exec_mtk_ctx h (by decide) hn rfl⟩

end Sys2Proof.Machine

namespace Sys2Proof.Machine

/-! Scalar binary64 results (08 R223, R224). -/

/-- The flags of an instruction and its result in a register join in either order. -/
theorem setG_addFlags (x : Slot) (d : GReg) (v : Word) (f : BitVec 6) :
    setG (addFlags x f) d v = addFlags (setG x d v) f := by
  unfold setG
  split <;> rfl

/-- A result with flags for a plain register. -/
theorem retire1_raiseFlags_plain {s : State} {d : GReg} (h : plainReg (me s) d = true) (f : BitVec 6) (v : Word) :
    retire1 (raiseFlags s f) d v = .next (wroteFlags s d v f) := by
  have hm : me (raiseFlags s f) = addFlags (me s) f := me_setMe s _
  have hd : plainReg (me (raiseFlags s f)) d = true := by rw [hm]; exact h
  rw [retire1_plain hd, wrote, hm, setG_addFlags]
  simp only [wroteFlags, issued, raiseFlags, setMe_setMe, nextPc_setMe]
  rfl

/-- The acting slot has issued an instruction whose result, before it is rounded to binary64, is `r` (R224). -/
def wroteNum (s : State) (d : GReg) (r : Num × BitVec 6) : State :=
  wroteFlags s d (BitVec.ofNat 64 (encNum fp64 (scalarRounding (me s)) r.1 ⟨0, 1⟩).1)
    ((encNum fp64 (scalarRounding (me s)) r.1 ⟨0, 1⟩).2.flags ||| r.2)

theorem scalarFp_plain {s : State} {d : GReg} (h : plainReg (me s) d = true) (r : Num × BitVec 6) :
    scalarFp s d r = .next (wroteNum s d r) :=
  retire1_raiseFlags_plain h _ _

/-- Of two sources and a destination, the first source and the destination alone. -/
theorem plain_of_two {s : State} {d a b : GReg} (h : Plain s [a, b, d]) : Plain s [a, d] :=
  List.forall_mem_cons.mpr ⟨h a (by simp), List.forall_mem_singleton.mpr (h d (by simp))⟩

section
variable {s : State} {d a b : GReg} (h : Plain s [a, b, d])
include h

theorem scalar2_plain (f : RMode → Num → Num → Num × BitVec 6) :
    scalar2 s d a b f =
      .next (wroteNum s d (f (scalarRounding (me s)).mode (dec64 (readG (me s) a)) (dec64 (readG (me s) b)))) := by
  rw [scalar2, withOps_plain h]
  exact scalarFp_plain (h d (by simp)) _

/-- The smaller or larger operand in its own pattern (R217). -/
theorem scalarPick_plain (big : Bool) :
    let r := minMaxPat fp64 big (readG (me s) a).toNat (readG (me s) b).toNat (dec64 (readG (me s) a)) (dec64 (readG (me s) b))
    scalarPick s d a b big = .next (wroteFlags s d (BitVec.ofNat 64 r.1) r.2) := by
  rw [scalarPick, withOps_plain h]
  exact retire1_raiseFlags_plain (h d (by simp)) _ _

/-- A compare gives 1 or 0 (R221). -/
theorem scalarRel_plain (op : VOp) :
    let r := floatRel op (dec64 (readG (me s) a)) (dec64 (readG (me s) b))
    scalarRel s d a b op = .next (wroteFlags s d (if r.1 then 1 else 0) r.2) := by
  rw [scalarRel, withOps_plain h]
  exact retire1_raiseFlags_plain (h d (by simp)) _ _

theorem execFma_plain :
    execFma d a b s = .next (wroteNum s d
      (fmaNum (scalarRounding (me s)).mode (dec64 (readG (me s) a)) (dec64 (readG (me s) b)) (dec64 (readG (me s) d)))) := by
  rw [execFma, withOps_plain (fun r hr => h r (by simpa using hr))]
  exact scalarFp_plain (h d (by simp)) _

end

section
variable {s : State} {d a : GReg} (h : Plain s [a, d])
include h

theorem execFsqrt_plain : execFsqrt d a s = .next (wroteNum s d (sqrtNum (dec64 (readG (me s) a)))) := by
  rw [execFsqrt, withOps_plain h]
  exact scalarFp_plain (h d (by simp)) _

theorem execI2f_plain : execI2f d a s = .next (wroteNum s d (numOfInt (readG (me s) a).toInt, 0)) := by
  rw [execI2f, withOps_plain h]
  exact scalarFp_plain (h d (by simp)) _

theorem execF2i_plain :
    let r := toIntNum 64 true (scalarRounding (me s)).mode (dec64 (readG (me s) a)) ⟨0, 1⟩
    execF2i d a s = .next (wroteFlags s d (BitVec.ofNat 64 r.1) r.2.flags) := by
  rw [execF2i, withOps_plain h]
  exact retire1_raiseFlags_plain (h d (by simp)) _ _

end

/-! Conversions between formats (R88, R223). -/

/-- The formats that g[b] of an `fcvt` names: the destination's and the source's code each one of 2 to 5, and no other bit set. -/
def CvtOk (g : Word) : Prop := fld g 8 56 = 0 ∧ 2 ≤ fld g 0 4 ∧ fld g 0 4 ≤ 5 ∧ 2 ≤ fld g 4 4 ∧ fld g 4 4 ≤ 5

/-- The pattern that an `fcvt` converts: the low bits of g[a] that the source's format has. -/
def cvtPat (x g : Word) : Nat := x.toNat % 2 ^ codeWidth (fld g 4 4)

theorem cvtOk_iff (g : Word) : ¬ CvtOk g ↔ (fld g 8 56 ≠ 0 ∨ scalarCode (fld g 0 4) = false ∨ scalarCode (fld g 4 4) = false) := by
  simp only [CvtOk, scalarCode, Bool.and_eq_false_iff, decide_eq_false_iff_not]
  omega

section
variable {s : State} {d a b : GReg} (h : Plain s [a, b, d])
include h

theorem execFcvt_invalid (hg : ¬ CvtOk (readG (me s) b)) : execFcvt d a b s = .next (wroteFlags s d 0 flagNV) := by
  rw [execFcvt, withOps_plain h]
  exact (if_pos ((cvtOk_iff _).mp hg)).trans (retire1_raiseFlags_plain (h d (by simp)) _ _)

theorem execFcvt_hook (hg : CvtOk (readG (me s) b))
    (hk : fld (readG (me s) b) 4 4 = 3 ∧ isHook (cvtPat (readG (me s) a) (readG (me s) b)) = true) :
    execFcvt d a b s = .next (takeTrap s 16 0) := by
  rw [execFcvt, withOps_plain h]
  exact (if_neg (mt (cvtOk_iff _).mpr (not_not_intro hg))).trans (if_pos hk)

theorem execFcvt_value (hg : CvtOk (readG (me s) b))
    (hk : ¬ (fld (readG (me s) b) 4 4 = 3 ∧ isHook (cvtPat (readG (me s) a) (readG (me s) b)) = true)) :
    let r := encNum (fmtOf (fld (readG (me s) b) 0 4)) (scalarRounding (me s))
      (decNum (fmtOf (fld (readG (me s) b) 4 4)) (cvtPat (readG (me s) a) (readG (me s) b))) ⟨0, 1⟩
    execFcvt d a b s = .next (wroteFlags s d (BitVec.ofNat 64 r.1) r.2.flags) := by
  rw [execFcvt, withOps_plain h]
  exact (if_neg (mt (cvtOk_iff _).mpr (not_not_intro hg))).trans
    ((if_neg hk).trans (retire1_raiseFlags_plain (h d (by simp)) _ _))

end

/-! Bytes of scratch (12 R315, R320). -/

/-- A table after a run of bytes is put: the byte put there, and every other as before. -/
theorem look_putBytes (m : Map Byte) (o k : Nat) (bs : List Byte) (z : Byte) :
    look (putBytes m o bs) k z = if o ≤ k ∧ k < o + bs.length then bs.getD (k - o) 0 else look m k z := by
  induction bs generalizing m o with
  | nil => rw [if_neg (by simp only [List.length_nil]; omega)]; rfl
  | cons b t ih =>
    rw [putBytes, ih]
    by_cases hk : k = o
    · subst hk
      rw [if_neg (by omega), look_put_self, if_pos (by simp)]
      simp
    · rw [look_put_ne _ (Ne.symm hk)]
      by_cases hr : o + 1 ≤ k ∧ k < o + 1 + t.length
      · obtain ⟨i, rfl⟩ : ∃ i, k = o + 1 + i := ⟨k - (o + 1), by omega⟩
        rw [if_pos hr, if_pos (by simp only [List.length_cons]; omega)]
        simp [show o + 1 + i - o = i + 1 by omega]
      · rw [if_neg hr, if_neg (by simp only [List.length_cons]; omega)]

@[simp] theorem scratchAt_setScratch_self (s : State) (c p : Nat) (x : Scratch) : scratchAt (setScratch s c p x) c p = x := by
  simp [scratchAt, setScratch]

/-- One byte of scratch. -/
theorem scratchBytes_one (s : State) (c p o : Nat) : scratchBytes s c p o 1 = [look (scratchAt s c p).bytes o 0] := rfl

/-- One byte of scratch after a write: the byte written there, and every other as before. -/
theorem scratchBytes_scratchWrite (s : State) (c p o k : Nat) (bs : List Byte) :
    scratchBytes (scratchWrite s c p o bs) c p k 1 =
      if o ≤ k ∧ k < o + bs.length then [bs.getD (k - o) 0] else scratchBytes s c p k 1 := by
  rw [scratchBytes_one, scratchBytes_one, scratchWrite, scratchAt_setScratch_self, look_putBytes]
  split <;> rfl

/-- Adjacent runs of a table. -/
theorem tab_append {α : Type} (n m i : Nat) (f : Nat → α) : tab n i f ++ tab m (i + n) f = tab (n + m) i f := by
  induction n generalizing i with
  | zero => simp [tab]
  | succ n ih => rw [Nat.succ_add, tab, tab, List.cons_append, ← ih, Nat.succ_add_eq_add_succ]

/-- A run of a shifted table. -/
theorem tab_shift {α : Type} (n i j : Nat) (f : Nat → α) : tab n i (fun k => f (j + k)) = tab n (j + i) f := by
  induction n generalizing i with
  | zero => rfl
  | succ n ih => rw [tab, tab, ih]; rfl

/-- Adjacent runs of scratch. -/
theorem scratchBytes_append (s : State) (c p o n m : Nat) :
    scratchBytes s c p o n ++ scratchBytes s c p (o + n) m = scratchBytes s c p o (n + m) := by
  have run (o n : Nat) : scratchBytes s c p o n = tab n o fun k => look (scratchAt s c p).bytes k 0 :=
    tab_shift n 0 o fun k => look (scratchAt s c p).bytes k 0
  rw [run, run, run, tab_append]

/-- A place whose bytes no engine owns has none owned within it. -/
theorem linesMeet_within {ls : List Loc} {c p o n k m : Nat} (h : linesMeet ls (.scratch c p o) n = false) (hm : k + m ≤ n) :
    linesMeet ls (.scratch c p (o + k)) m = false := by
  simp only [linesMeet, List.any_eq_false] at h ⊢
  intro a ha
  specialize h a ha
  cases a with
  | phys x => simp [locOverlap]
  | scratch c' p' o' =>
    simp only [locOverlap, Bool.and_eq_true, decide_eq_true_eq, not_and] at h ⊢
    intro hl hr
    exact h ⟨hl.1, by omega⟩ (by omega)

theorem engineOwns_within {s : State} {c p o n k m : Nat} (h : engineOwns s (.scratch c p o) n = false) (hm : k + m ≤ n) :
    engineOwns s (.scratch c p (o + k)) m = false := by
  simp only [engineOwns, vectorOwns, copierOwns, Bool.or_eq_false_iff, List.any_eq_false, Bool.and_eq_true, not_and,
    Bool.not_eq_true] at h ⊢
  obtain ⟨hv, hs, hc⟩ := h
  exact ⟨fun y hy e he => linesMeet_within (hv y hy e he) hm, fun k hk o ho ht => linesMeet_within (hs k hk o ho ht) hm,
    fun q hq ht => linesMeet_within (hc q hq ht) hm⟩

/-! Runs of bytes in scratch, cut at their 32-byte blocks (12 R316; 08 R230). -/

/-- The address of an offset in the near window. -/
abbrev nearAddr (o : Nat) : Word := BitVec.ofNat 64 (nearBase + o)

theorem nearAddr_toNat {o : Nat} (h : o < 2 ^ 19) : (nearAddr o).toNat = nearBase + o := by
  rw [BitVec.toNat_ofNat, nearBase]
  omega

theorem nearAddr_add (o n : Nat) : nearAddr o + BitVec.ofNat 64 n = nearAddr (o + n) := by
  rw [nearAddr, ← BitVec.ofNat_add, Nat.add_assoc]

/-- An address of the near window within a task's scratch is that place of it, whatever the access (05 R142). -/
theorem checkAddr_near {s : State} {c p o : Nat} (hs : scratchSize s c p ≤ 2 ^ 19) (ho : o < scratchSize s c p) (user : Bool)
    (n : Need) : checkAddr s c p false user n (nearAddr o) = (.ok (.scratch c p o) 0, s) := by
  have ha := nearAddr_toNat (show o < 2 ^ 19 by omega)
  have hf : fld (nearAddr o) 55 9 = 511 := by
    rw [fld, ha, Nat.shiftRight_eq_div_pow, nearBase]
    omega
  have hn : isNear (nearAddr o) = true := by simp [isNear, ha]
  have hx : ¬ scratchSize s c p ≤ o := by omega
  simp [checkAddr, hf, hn, ha, hx]

/-- The places of the pieces that `blockPieces` cuts a run of scratch into. -/
def scratchPieces (c p : Nat) (fuel o len : Nat) : List (Loc × Nat) :=
  match fuel with
  | 0 => []
  | fuel + 1 =>
    if len = 0 then [] else
    let n := min len (32 - o % 32)
    (.scratch c p o, n) :: scratchPieces c p fuel (o + n) (len - n)

theorem blockPlaces_near {s : State} {o len : Nat} (hsup : (me s).sup = false)
    (hs : scratchSize s (myCore s) (me s).prodid ≤ 2 ^ 19) (ho : o + len ≤ scratchSize s (myCore s) (me s).prodid) (n : Need)
    (fuel : Nat) : blockPlaces s n (blockPieces fuel (nearAddr o) len) =
      .ok (scratchPieces (myCore s) (me s).prodid fuel o len, s) := by
  induction fuel generalizing o len with
  | zero => rfl
  | succ fuel ih =>
    rw [blockPieces, scratchPieces]
    split
    · rfl
    · have hb : (nearAddr o).toNat % 32 = o % 32 := by
        rw [nearAddr_toNat (by omega), nearBase]
        omega
      simp only [hb, nearAddr_add, blockPlaces, hsup, checkAddr_near hs (show o < _ by omega)]
      rw [ih (by omega)]

/-- Each piece lies within the run. -/
theorem scratchPieces_within {c p fuel o len : Nat} {x : Loc × Nat} (h : x ∈ scratchPieces c p fuel o len) :
    ∃ k, x.1 = .scratch c p (o + k) ∧ k < len ∧ k + x.2 ≤ len := by
  induction fuel generalizing o len with
  | zero => simp [scratchPieces] at h
  | succ fuel ih =>
    rw [scratchPieces] at h
    split at h
    · simp at h
    · rcases List.mem_cons.mp h with rfl | h
      · exact ⟨0, rfl, by omega, (Nat.zero_add _).symm ▸ Nat.min_le_left _ _⟩
      · obtain ⟨k, hx, hk, hk2⟩ := ih h
        refine ⟨min len (32 - o % 32) + k, by rw [hx, Nat.add_assoc], by omega, by omega⟩

/-- The pieces' bytes are the run's, the state as it was, where there are blocks enough for it. -/
theorem cardPieces_near (s : State) (k c p : Nat) {fuel o len : Nat} (h : len ≤ 32 * fuel - o % 32) :
    cardPieces s k (scratchPieces c p fuel o len) = (scratchBytes s c p o len, s) := by
  induction fuel generalizing o len with
  | zero =>
    obtain rfl : len = 0 := by omega
    rfl
  | succ fuel ih =>
    rw [scratchPieces]
    split
    case isTrue h0 => subst h0; rfl
    case isFalse h0 =>
      have hn : min len (32 - o % 32) + (len - min len (32 - o % 32)) = len := by omega
      simp only [cardPieces, cardHome]
      rw [ih (by omega)]
      simp only [scratchBytes_append, hn]

/-! Results on their way (05 R90, R131). -/

/-- The register that a result is on its way to is pending. -/
theorem bitOf_pendG {d : GReg} (h : d ≠ 0) (x : Slot) (ea : Word) : bitOf (pendG x d ea).pend d.toNat = true := by
  rw [pendG, if_neg h]
  simp [bitOf, d.isLt]

/-- The acting slot after an instruction whose result is on its way by counter L. -/
theorem me_advance_sendResult (s : State) (d : GReg) (v : Word) (b : Bool) (ea : Word) :
    me (advance (sendResult s d v b ea .l)) = { pendG (me s) d ea with
      st := .ready, pc := nextPc s, since := none, waiting := .none, outL := (me s).outL + 1
      arrivals := (me s).arrivals ++ [⟨d.toNat, v, b, ea, .l, none, none⟩] } := by
  rw [advance_eq, issued, me_setMe, sendResult, me_setMe, nextPc_setMe]
  simp [raiseCtr, nextPc]

/-! FCADAPT (R230). -/

/-- The low byte of a signed number. -/
theorem leBytes_wrapTo (x : Int) : leBytes 1 (wrapTo 8 x) = [BitVec.ofInt 8 x] := by
  have hx : ((x % (2 ^ 8 : Nat)).toNat : Int) = x % (2 ^ 8 : Nat) := Int.toNat_of_nonneg (by omega)
  rw [leBytes, leBytes, wrapTo, ← BitVec.ofInt_natCast, hx]
  exact congrArg (fun b => [b]) (BitVec.eq_of_toInt_eq (by simpa using Int.emod_bmod x 256))

/-- Nothing waits in the slot's context. -/
theorem cardPending_of_empty {s : State} (h : ∀ k, myCtx s = some k → (ctxAt s k).queue = []) : cardPending s = false := by
  unfold cardPending
  split
  case h_1 k hk => rw [h k hk]; rfl
  case h_2 => rfl

theorem vecAhead_of_empty {s : State} (h : ∀ k, myCtx s = some k → (ctxAt s k).queue = []) (test : QEntry → Bool) :
    vecAhead s test = false := by
  unfold vecAhead vecPending
  split
  case h_1 k hk => rw [h k hk]; simp
  case h_2 => rfl

/-- An aligned access of 8 bytes in the near window within the task's scratch passes its checks. -/
theorem checkAccess_near {s : State} {o : Nat} (hal : o % 8 = 0) (hsup : (me s).sup = false)
    (hs : scratchSize s (myCore s) (me s).prodid ≤ 2 ^ 19) (ho : o < scratchSize s (myCore s) (me s).prodid) (n : Need) :
    checkAccess s 8 n (nearAddr o) = (.ok (.scratch (myCore s) (me s).prodid o) 0, s) := by
  have ha : (nearAddr o).toNat % 8 = 0 := by
    rw [nearAddr_toNat (by omega), nearBase]
    omega
  rw [checkAccess, if_neg (not_not_intro ha), hsup, checkAddr_near hs ho]

/-- Of a run of scratch that no engine owns, no piece is owned. -/
theorem scratchPieces_free {s : State} {c p o len : Nat} (h : engineOwns s (.scratch c p o) len = false) (fuel : Nat) :
    ((scratchPieces c p fuel o len).any fun x => engineOwns s x.1 x.2) = false := by
  refine List.any_eq_false.mpr fun x hx => ?_
  obtain ⟨k, hk, -, hlen⟩ := scratchPieces_within hx
  rw [hk, engineOwns_within h hlen]
  exact Bool.false_ne_true

/-- Of a run of scratch with no poisoned block, no piece is poisoned. -/
theorem scratchPieces_sound {s : State} {c p o len : Nat} (h : ∀ b < len, (scratchAt s c p).poison.contains ((o + b) / 32) = false)
    (fuel k : Nat) : ((scratchPieces c p fuel o len).any fun x => locPoisoned s k x.1) = false := by
  refine List.any_eq_false.mpr fun x hx => ?_
  obtain ⟨b, hb, hlt, -⟩ := scratchPieces_within hx
  rw [hb, locPoisoned, h b hlt]
  exact Bool.false_ne_true

/-- The 80 bytes of a card at `ea` are those at offset `o` of the acting slot's scratch, sound and no engine's, and nothing makes
an access of the slot wait (R142, R230, R320, R378). -/
structure CardFree (s : State) (ea : Word) (o : Nat) : Prop where
  ea_eq : ea = nearAddr o
  aligned : o % 8 = 0
  notSup : (me s).sup = false
  within : o + 80 ≤ scratchSize s (myCore s) (me s).prodid
  small : scratchSize s (myCore s) (me s).prodid ≤ 2 ^ 19
  noAcq : acqWaits s s.cur = false
  noQueue : ∀ k, myCtx s = some k → (ctxAt s k).queue = []
  noStore : (me s).sbuf = []
  noLate : lateLoads s = false
  free : engineOwns s (.scratch (myCore s) (me s).prodid o) 80 = false
  room : (me s).outL < 63
  sound : ∀ b < 80, (scratchAt s (myCore s) (me s).prodid).poison.contains ((o + b) / 32) = false

/-- The read-modify-write of a card in scratch that nothing makes wait. -/
theorem execFcadapt_near {s : State} {d a : GReg} {o : Nat} (h : Plain s [a, d]) (hc : CardFree s (readG (me s) a) o) :
    let off := cardOffset (scratchBytes s (myCore s) (me s).prodid o 80)
    execFcadapt d a s = .next (advance (sendResult
      (scratchWrite s (myCore s) (me s).prodid (o + 1) [BitVec.ofInt 8 off]) d (trunc64 off) false (readG (me s) a) .l)) := by
  intro off
  have ho := hc.within
  have hck := checkAccess_near hc.aligned hc.notSup hc.small (show o < _ by omega) needRW
  have hstop : (!(me s).sbuf.isEmpty || lateLoads s || vecAhead s (fun _ => true) || decide (63 ≤ (me s).outL)) = false := by
    simp [hc.noStore, hc.noLate, vecAhead_of_empty hc.noQueue, hc.room]
  have hop : opnd (([a] ++ []).map (readG (me s))) 0 = nearAddr o := hc.ea_eq
  rw [execFcadapt, cardPending_of_empty hc.noQueue, if_neg Bool.false_ne_true, withOps_plain h]
  simp only [hop, hc.ea_eq, withAccess_ok hck hc.noAcq, apertureOf, hstop, blockPlaces_near hc.notSup hc.small ho,
    scratchPieces_free hc.free, scratchPieces_sound hc.sound, cardPieces_near s _ _ _ (show 80 ≤ 32 * 4 - o % 32 by omega),
    leBytes_wrapTo, Option.isSome_none, Bool.false_and, if_false, Bool.false_eq_true, off]

/-- Settles O14, by the operations' shapes over plain operands, and for `fcadapt` by the card's places in scratch. -/
theorem scalarFloatAndCardResults : Obligations.ScalarFloatAndCardResults := by
  unfold Obligations.ScalarFloatAndCardResults
  constructor
  · intro s d a b h m x y z go rel pick
    have h1 : Plain s [a, d] := plain_of_two h
    refine ⟨scalar2_plain h addNum, scalar2_plain h fun m x y => addNum m x (negNum y), scalar2_plain h fun _ x y => mulNum x y,
      scalar2_plain h fun _ x y => divNum x y, execFma_plain h, execFsqrt_plain h1,
      execI2f_plain h1, scalarPick_plain h false, scalarPick_plain h true, scalarRel_plain h .vfceq, scalarRel_plain h .vfclt,
      scalarRel_plain h .vfcle, execF2i_plain h1, alu1_plain h1 fun x => BitVec.ofNat 64 (classOf fp64 x.toNat),
      alu1_plain h1 fun x => x &&& 0x7FFFFFFFFFFFFFFF, ?_⟩
    intro g p ok
    exact ⟨execFcvt_invalid h, fun hg h3 hp => execFcvt_hook h hg ⟨h3, hp⟩, fun hg hk => execFcvt_value h hg hk⟩
  · intro s d a c p o h hea hal hsup hc hp ho hs hacq hq hb hl he hL hpo off
    subst hc hp
    refine ⟨_, execFcadapt_near h ⟨hea, hal, hsup, ho, hs, hacq, hq, hb, hl, he, hL, hpo⟩, ?_, ?_, rfl, ?_⟩
    · exact (scratchBytes_scratchWrite s _ _ (o + 1) (o + 1) _).trans (by simp [off])
    · intro b hb
      refine (scratchBytes_scratchWrite s _ _ (o + 1) b _).trans (if_neg ?_)
      simp only [List.length_singleton]
      omega
    · rw [me_advance_sendResult]
      exact ⟨rfl, rfl, fun hd => bitOf_pendG hd _ _, rfl⟩

end Sys2Proof.Machine

namespace Sys2Proof.Machine

/-! VL and VTYPE, and the settings of the product mode (06 R172 to R176; 10 R272; 11 R289, R291). -/

/-- Every block length is at least 1 (06 R171). -/
theorem vtBlock_pos (t : BitVec 20) : 0 < vtBlock t := by
  unfold vtBlock
  split
  · split
    · decide
    · exact Nat.mul_pos (by decide) (Nat.two_pow_pos _)
  · decide

/-- `n` is the greatest multiple of `l` at or below both `req` and `most` (06 R173). -/
def GreatestGrant (req most l n : Nat) : Prop := n % l = 0 ∧ n ≤ req ∧ n ≤ most ∧ min req most < n + l

theorem vlGrant_greatest (y : Ctx) (req : Nat) (t : BitVec 20) : GreatestGrant req (vlmax y) (vtBlock t) (vlGrant y req t) := by
  have hle : vlGrant y req t ≤ min req (vlmax y) := Nat.div_mul_le_self _ _
  exact ⟨Nat.mul_mod_left _ _, Nat.le_trans hle (Nat.min_le_left _ _), Nat.le_trans hle (Nat.min_le_right _ _),
    Nat.lt_div_mul_add (vtBlock_pos t)⟩

/-- The state after a grant of `n` elements of type `t`, the new VL in g[d] (06 R173, R176). -/
def granted (s : State) (k : Nat) (d : GReg) (n : Nat) (t : BitVec 20) : State :=
  wrote (setCtx s k { ctxAt s k with vl := n, vtype := t, vstart := 0, hiElems := max (ctxAt s k).hiElems n }) d (BitVec.ofNat 64 n)

theorem grantVl_plain {s : State} {d : GReg} (h : plainReg (me s) d = true) (k req : Nat) (t : BitVec 20) :
    grantVl s k d req t = .next (granted s k d (vlGrant (ctxAt s k) req t) t) :=
  retire1_plain (s := setCtx s k _) h _

/-- A value is a gang size when it is one of 1, 2, 4, …, 512 (10 R272). -/
theorem gangOk_iff (x : Word) : gangOk x = true ↔ ∃ n ≤ 9, x.toNat = 2 ^ n := by
  have hsizes : tab 10 0 (fun n => 2 ^ n) = (List.range 10).map (2 ^ ·) := by decide
  rw [gangOk, hsizes, List.contains_iff_mem, List.mem_map]
  simp only [List.mem_range, Nat.lt_succ_iff, eq_comm]

section
variable {s : State} {k : Nat} (hh : (me s).handler = false) (hk : myCtx s = some k) (ht : trimming (ctxAt s k) = false)
include hh hk ht

theorem execVset_plain {d a b : GReg} (h : Plain s [a, b, d]) :
    execVset d a b s = if vtypeValid (readG (me s) b) then
      .next (granted s k d (vlGrant (ctxAt s k) (readG (me s) a).toNat ((readG (me s) b).setWidth 20)) ((readG (me s) b).setWidth 20))
      else .next (takeTrap s 15 0) := by
  simp only [execVset, hh, hk, ht, Bool.false_eq_true, if_false, withOps_plain (srcs := [a, b]) (data := []) (dsts := [d]) h,
    grantVl_plain (h d (by simp))]
  rfl

theorem execVsetk_plain {d a : GReg} (h : Plain s [a, d]) :
    execVsetk d a s = .next (granted s k d (vlGrant (ctxAt s k) (readG (me s) a).toNat (ctxAt s k).vtype) (ctxAt s k).vtype) := by
  simp only [execVsetk, hh, hk, ht, Bool.false_eq_true, if_false, withOps_plain (srcs := [a]) (data := []) (dsts := [d]) h,
    grantVl_plain (h d (by simp))]
  rfl

/-- A setting changes the context by a value it takes, and traps with code 14 on any other. -/
theorem productSetting_plain {a : GReg} (h : Plain s [a]) (ok : Word → Bool) (f : Ctx → Word → Ctx) :
    productSetting s a ok f = if ok (readG (me s) a) then .next (advance (setCtx s k (f (ctxAt s k) (readG (me s) a))))
      else .next (takeTrap s 14 0) := by
  simp only [productSetting, hh, hk, ht, Bool.false_eq_true, if_false, withOps_plain (srcs := [a]) (data := []) (dsts := []) h]
  rfl

theorem execPgang_plain {a : GReg} (h : Plain s [a]) :
    execPgang a s = if gangOk (readG (me s) a) then
      .next (advance (setCtx s k { ctxAt s k with logG := Nat.log2 (readG (me s) a).toNat })) else .next (takeTrap s 14 0) :=
  productSetting_plain hh hk ht h _ _

theorem execVdcfg_plain {a : GReg} (h : Plain s [a]) :
    execVdcfg a s = if vdcfgValid (readG (me s) a) then
      .next (advance (setCtx s k { ctxAt s k with vdcfg := readG (me s) a })) else .next (takeTrap s 14 0) :=
  productSetting_plain hh hk ht h _ _

end

/-- Settles O29, by what each of the four does with plain operands and the grant as the greatest one. -/
theorem vectorTypeResults : Obligations.VectorTypeResults := by
  unfold Obligations.VectorTypeResults
  intro s d a b k hh hk ht h
  have ha : Plain s [a] := List.forall_mem_singleton.mpr (h a (by simp))
  have hset : exec (.vset d a b) s = _ := execVset_plain hh hk ht h
  have hgang : exec (.pgang a) s = _ := execPgang_plain hh hk ht ha
  have hcfg : exec (.vdcfg a) s = _ := execVdcfg_plain hh hk ht ha
  refine ⟨fun hv => ⟨_, hset.trans (if_pos hv), vlGrant_greatest ..⟩, fun hv => hset.trans (if_neg (by simp [hv])),
    ⟨_, execVsetk_plain hh hk ht (plain_of_two h), vlGrant_greatest ..⟩, ?_, ?_,
    fun hv => hcfg.trans (if_pos hv), fun hv => hcfg.trans (if_neg (by simp [hv]))⟩
  · intro n hn hx
    rw [hgang, if_pos ((gangOk_iff _).mpr ⟨n, hn, hx⟩), hx, Nat.log2_two_pow]
  · intro hx
    rw [hgang, if_neg fun hg => ?_]
    obtain ⟨n, hn, he⟩ := (gangOk_iff _).mp hg
    exact hx n hn he

end Sys2Proof.Machine

namespace Sys2Proof.Machine

/-! Elements of a v register and bits of a mask register after a lane operation (06 R158; 07 R185, R188 to R197). -/

/-- The value that a lane operation over elements lo to hi − 1 writes to element `i`, if any. -/
def written {α : Type} (lo hi : Nat) (f : Nat → Option α) (i : Nat) : Option α := if lo ≤ i ∧ i < hi then f i else none

theorem written_of_mem {α : Type} {lo hi i : Nat} (hlo : lo ≤ i) (hhi : i < hi) (f : Nat → Option α) :
    written lo hi f i = f i := if_pos ⟨hlo, hhi⟩

theorem written_of_not_mem {α : Type} {lo hi i : Nat} (h : i < lo ∨ hi ≤ i) (f : Nat → Option α) : written lo hi f i = none :=
  if_neg (by omega)

theorem written_eq_none {α : Type} (lo hi : Nat) {f : Nat → Option α} {i : Nat} (h : f i = none) : written lo hi f i = none := by
  rw [written, h, ite_self]

theorem written_map {α β : Type} (g : α → β) (lo hi : Nat) (f : Nat → Option α) (i : Nat) :
    written lo hi (fun j => (f j).map g) i = (written lo hi f i).map g := by
  simp only [written]
  split <;> rfl

/-- An entry of a table, or what stands for one past its end. -/
theorem tab_getD {α : Type} (n j : Nat) (f : Nat → α) (k : Nat) (x : α) :
    (tab n j f).toArray.getD k x = if k < n then f (j + k) else x := by
  rw [Array.getD_eq_getD_getElem?, List.getElem?_toArray]
  split
  · rw [tab_get n j f k ‹_›, Option.getD_some]
  · rw [List.getElem?_eq_none (by rw [tab_length]; omega), Option.getD_none]

theorem map_tab {α β : Type} (g : α → β) (n i : Nat) (f : Nat → α) : (tab n i f).map g = tab n i fun j => g (f j) := by
  induction n generalizing i with
  | zero => rfl
  | succ n ih => rw [tab, List.map_cons, ih, tab]

/-- A table over a range, with old entries kept where nothing is written. -/
theorem tab_written_getD {α β : Type} (old : Array α) (x : α) (lo hi i : Nat) (f : Nat → Option β) (g : α → β → α) :
    (tab (max old.size hi) 0 fun j => ((written lo hi f j).map (g (old.getD j x))).getD (old.getD j x)).toArray.getD i x =
      ((written lo hi f i).map (g (old.getD i x))).getD (old.getD i x) := by
  rw [tab_getD, Nat.zero_add]
  split
  · rfl
  · have hold : old.getD i x = x := by
      rw [Array.getD_eq_getD_getElem?, Array.getElem?_eq_none (by omega), Option.getD_none]
    rw [written_of_not_mem (by omega), hold, Option.map_none, Option.getD_none]

/-- Row `x` of a register with its low `w` bits replaced (06 R158). -/
def mergeRow (w : Nat) (x : Row32) (v : Nat) : Row32 :=
  (x &&& BitVec.ofNat 32 (2 ^ 32 - 2 ^ min w 32)) ||| BitVec.ofNat 32 (v % 2 ^ min w 32)

theorem mergeRow_mod {w : Nat} (h : w ≤ 32) (x : Row32) (v : Nat) : (mergeRow w x v).toNat % 2 ^ w = v % 2 ^ w := by
  have hdvd : 2 ^ w ∣ 2 ^ 32 := Nat.pow_dvd_pow 2 h
  have hkeep : (2 ^ 32 - 2 ^ w) % 2 ^ w = 0 := Nat.mod_eq_zero_of_dvd (Nat.dvd_sub hdvd (Nat.dvd_refl _))
  rw [mergeRow, Nat.min_eq_left h, BitVec.toNat_or, BitVec.toNat_and, BitVec.toNat_ofNat, BitVec.toNat_ofNat, Nat.or_mod_two_pow,
    Nat.and_mod_two_pow, Nat.mod_mod_of_dvd _ hdvd, Nat.mod_mod_of_dvd _ hdvd, hkeep, Nat.and_zero, Nat.zero_or, Nat.mod_mod]

/-- A whole row replaced. -/
theorem mergeRow_full {w : Nat} (h : 32 ≤ w) (x : Row32) (v : Nat) : (mergeRow w x v).toNat = v % 2 ^ 32 := by
  have hw : mergeRow w x v = mergeRow 32 x v := by rw [mergeRow, mergeRow, Nat.min_eq_right h, Nat.min_self]
  rw [hw, ← mergeRow_mod (Nat.le_refl 32) x v, Nat.mod_eq_of_lt (mergeRow 32 x v).isLt]

theorem mergeRows_getD (old : List Row32) (lo hi w i : Nat) (f : Nat → Option Nat) :
    (mergeRows old lo hi w (tab (hi - lo) lo f).toArray).toArray.getD i 0 =
      ((written lo hi f i).map (mergeRow w (old.toArray.getD i 0))).getD (old.toArray.getD i 0) := by
  rw [← tab_written_getD]
  refine congrArg (fun l : List Row32 => l.toArray.getD i 0) (congrArg (tab _ 0) (funext fun j => ?_))
  by_cases hj : lo ≤ j ∧ j < hi
  · rw [if_neg (by omega), tab_getD, if_pos (by omega), Nat.add_sub_cancel' hj.1, written_of_mem hj.1 hj.2]
    cases f j <;> rfl
  · rw [if_pos (by omega), written_of_not_mem (by omega)]
    rfl

/-! A v register after elements of it were written. -/

/-- The element widths: up to a row, or the two rows of a pair of registers (06 R158, R171). -/
theorem vtSew_le_or_eq {t : BitVec 20} (h : vtSew t ≤ 64) : vtSew t ≤ 32 ∨ vtSew t = 64 := by
  have hc : vtSewCode t ≤ 6 := (Nat.pow_le_pow_iff_right (by decide)).mp (show 2 ^ vtSewCode t ≤ 2 ^ 6 from h)
  rcases Nat.le_or_eq_of_le_succ hc with hc | hc
  · exact .inl (Nat.pow_le_pow_right (by decide) hc)
  · exact .inr (congrArg (2 ^ ·) hc)

theorem src_at_lt {w : Nat} (h : w ≤ 32 ∨ w = 64) (a : Src) (i : Nat) : a.at w i < 2 ^ w := by
  rw [Src.at]
  split
  · have hlo := (a.lo.getD i 0).isLt
    have hhi := (a.hi.getD i 0).isLt
    subst w
    omega
  · exact Nat.mod_lt _ (Nat.two_pow_pos w)

section
variable (y : Ctx) (w r lo hi : Nat) (f : Nat → Option Nat)

@[simp] theorem putV_m : (putV y w r lo hi f).m = y.m := by unfold putV; split <;> rfl
@[simp] theorem putV_vl : (putV y w r lo hi f).vl = y.vl := by unfold putV; split <;> rfl
@[simp] theorem putV_vtype : (putV y w r lo hi f).vtype = y.vtype := by unfold putV; split <;> rfl
@[simp] theorem putV_queue : (putV y w r lo hi f).queue = y.queue := by unfold putV; split <;> rfl

/-- Every other register, but the upper of a pair, keeps its rows. -/
theorem look_putV_ne {q : Nat} (hq : q ≠ r) (hpair : w = 64 → q ≠ r + 1) : look (putV y w r lo hi f).v q [] = look y.v q [] := by
  unfold putV
  split
  · exact (look_put_ne _ (hpair ‹_›).symm _ _).trans (look_put_ne _ hq.symm _ _)
  · exact look_put_ne _ hq.symm _ _

/-- The register itself: its rows merged with the values' low bits. -/
theorem look_putV_self :
    look (putV y w r lo hi f).v r [] = mergeRows (look y.v r []) lo hi w (tab (hi - lo) lo f).toArray := by
  unfold putV
  split
  · exact (look_put_ne _ (by omega) _ _).trans (look_put_self _ _ _ _)
  · exact look_put_self _ _ _ _

/-- The upper register of a pair: its rows merged with the values' high words. -/
theorem look_putV_upper :
    look (putV y 64 r lo hi f).v (r + 1) [] =
      mergeRows (look y.v (r + 1) []) lo hi 32 (tab (hi - lo) lo fun j => (f j).map (· / 2 ^ 32)).toArray := by
  rw [← map_tab (Option.map (· / 2 ^ 32)), ← List.map_toArray]
  exact look_put_self _ _ _ _

/-- An element holds what was written to it, modulo its width, and else what it held. -/
theorem src_putV_at (hw : w ≤ 32 ∨ w = 64) (i : Nat) :
    (src (putV y w r lo hi f) r).at w i = ((written lo hi f i).map (· % 2 ^ w)).getD ((src y r).at w i) := by
  rcases hw with hw | rfl
  · have h64 : w ≠ 64 := by omega
    simp only [Src.at, src, if_neg h64, look_putV_self, mergeRows_getD]
    cases written lo hi f i with
    | none => rfl
    | some v => exact mergeRow_mod hw _ v
  · simp only [Src.at, src, if_true, look_putV_self, look_putV_upper, mergeRows_getD, written_map]
    cases written lo hi f i with
    | none => rfl
    | some v =>
      simp only [Option.map_some, Option.getD_some, mergeRow_full (show 32 ≤ 64 by decide), mergeRow_full (Nat.le_refl 32)]
      omega

end

/-! A mask register after bits of it were written. -/

section
variable (y : Ctx) (r lo hi : Nat) (f : Nat → Option Bool)

theorem look_putM_ne {q : Nat} (hq : q ≠ r) : look (putM y r lo hi f).m q [] = look y.m q [] := look_put_ne _ hq.symm _ _

theorem maskBits_putM_getD (i : Nat) :
    (maskBits (putM y r lo hi f) r).getD i false = (written lo hi f i).getD ((maskBits y r).getD i false) := by
  have hrow : look (putM y r lo hi f).m r [] = tab (max (maskBits y r).size hi) 0 fun j =>
      ((written lo hi f j).map fun b => b).getD ((maskBits y r).getD j false) := by
    refine (look_put_self _ _ _ _).trans (congrArg _ (funext fun j => ?_))
    by_cases hj : lo ≤ j ∧ j < hi
    · rw [if_neg (by omega), written_of_mem hj.1 hj.2, Option.map_id']
    · rw [if_pos (by omega), written_of_not_mem (by omega)]
      rfl
  rw [maskBits, hrow, tab_written_getD _ _ _ _ _ _ fun _ b => b, Option.map_id']

end

/-! The lane instructions as writes of elements and of bits (07 R190 to R197). -/

/-- The second operand is a scalar for the scalar forms and compares alone (07 R191, R196). -/
theorem scalarB_iff (op : VOp) : scalarB op = true ↔ op ∈ scalarOps ∨ op ∈ [VOp.vceqS, .vcltS] := by
  cases op <;> decide

/-- The signed value of a pattern of `w` bits (00 R12). -/
theorem sInt_eq_toInt {w x : Nat} (hw : 0 < w) (hx : x < 2 ^ w) : sInt w x = (BitVec.ofNat w x).toInt := by
  obtain ⟨n, rfl⟩ := Nat.exists_eq_succ_of_ne_zero (Nat.ne_of_gt hw)
  rw [BitVec.toInt_eq_toNat_cond, BitVec.toNat_ofNat, Nat.mod_eq_of_lt hx, sInt, Nat.succ_sub_one]
  have hpow : 2 ^ (n + 1) = 2 * 2 ^ n := Nat.pow_succ'
  push_cast
  split <;> split <;> omega

/-- The second operand at element `i`, a scalar one truncated (07 R191). -/
def laneSecond (y : Ctx) (e : QEntry) (i : Nat) : Nat :=
  if scalarB e.op then e.gb.toNat % 2 ^ vtSew e.vtype
  else if e.op = .vmvS then e.ga.toNat % 2 ^ vtSew e.vtype else (src y e.f.b.toNat).at (vtSew e.vtype) i

/-- Whether element `i` is active under the entry's mask (07 R185). -/
def laneActive (y : Ctx) (e : QEntry) (i : Nat) : Bool := predicate (maskBits y e.f.k.reg.toNat) e.f.k i

theorem laneInt_elementOps (y : Ctx) {e : QEntry} (lo hi : Nat) (h : e.op ∈ elementOps) :
    laneInt y e lo hi = putV y (vtSew e.vtype) e.f.d.toNat lo hi fun i =>
      if laneActive y e i then some (intOp e.op (vtSew e.vtype) e.f.b.toNat i ((src y e.f.a.toNat).at (vtSew e.vtype) i)
        (laneSecond y e i) ((src y e.f.d.toNat).at (vtSew e.vtype) i)) else none := by
  unfold laneInt
  extract_lets w a b d m act z
  split
  case h_18 => rfl
  all_goals
    rename_i hop
    exact absurd h (by rw [hop]; decide)

theorem laneInt_vsel (y : Ctx) {e : QEntry} (lo hi : Nat) (h : e.op = .vsel) :
    laneInt y e lo hi = putV y (vtSew e.vtype) e.f.d.toNat lo hi fun i =>
      some (if (maskBits y e.f.k.reg.toNat).getD i false != e.f.k.inv then (src y e.f.a.toNat).at (vtSew e.vtype) i
        else (src y e.f.b.toNat).at (vtSew e.vtype) i) := by
  simp only [laneInt, h]

theorem laneInt_compareOps (y : Ctx) {e : QEntry} (lo hi : Nat) (h : e.op ∈ compareOps) :
    laneInt y e lo hi = putM y e.f.d.toNat lo hi fun i =>
      if laneActive y e i then some (intRel e.op (vtSew e.vtype) ((src y e.f.a.toNat).at (vtSew e.vtype) i) (laneSecond y e i))
      else none := by
  simp only [compareOps, List.mem_cons, List.not_mem_nil, or_false] at h
  rcases h with h | h | h | h | h | h | h | h <;> simp only [laneInt, laneActive, laneSecond, h]

theorem laneInt_maskOps (y : Ctx) {e : QEntry} (lo hi : Nat) (h : e.op ∈ maskOps) :
    laneInt y e lo hi = putM y e.f.d.toNat lo hi fun i =>
      some (maskOp e.op ((maskBits y e.f.a.toNat).getD i false) ((maskBits y e.f.b.toNat).getD i false)) := by
  simp only [maskOps, List.mem_cons, List.not_mem_nil, or_false] at h
  rcases h with h | h | h | h | h | h | h | h <;> simp only [laneInt, h]

theorem laneSecond_eq (y : Ctx) (e : QEntry) (i : Nat) :
    laneSecond y e i = if e.op ∈ scalarOps ∨ e.op ∈ [VOp.vceqS, .vcltS] then e.gb.toNat % 2 ^ vtSew e.vtype
      else if e.op = .vmvS then e.ga.toNat % 2 ^ vtSew e.vtype else (src y e.f.b.toNat).at (vtSew e.vtype) i := by
  simp only [laneSecond, scalarB_iff]

theorem laneSecond_lt (y : Ctx) {e : QEntry} (hw : vtSew e.vtype ≤ 32 ∨ vtSew e.vtype = 64) (i : Nat) :
    laneSecond y e i < 2 ^ vtSew e.vtype := by
  unfold laneSecond
  split
  · exact Nat.mod_lt _ (Nat.two_pow_pos _)
  · split
    · exact Nat.mod_lt _ (Nat.two_pow_pos _)
    · exact src_at_lt hw _ _

theorem laneInt_writes_elements (y : Ctx) {e : QEntry} (lo hi : Nat) (h : e.op ∈ elementOps ∨ e.op = .vsel) :
    ∃ f, laneInt y e lo hi = putV y (vtSew e.vtype) e.f.d.toNat lo hi f :=
  h.elim (fun h => ⟨_, laneInt_elementOps y lo hi h⟩) fun h => ⟨_, laneInt_vsel y lo hi h⟩

theorem laneInt_writes_bits (y : Ctx) {e : QEntry} (lo hi : Nat) (h : e.op ∈ compareOps ++ maskOps) :
    ∃ f, laneInt y e lo hi = putM y e.f.d.toNat lo hi f :=
  (List.mem_append.mp h).elim (fun h => ⟨_, laneInt_compareOps y lo hi h⟩) fun h => ⟨_, laneInt_maskOps y lo hi h⟩

/-! The element or bit at `i` after a lane instruction (07 R185, R188, R195 to R197). -/

section
variable {y : Ctx} {e : QEntry} {lo hi i : Nat}

theorem laneInt_at_active (hw : vtSew e.vtype ≤ 64) (h : e.op ∈ elementOps) (hlo : lo ≤ i) (hhi : i < hi)
    (hact : laneActive y e i = true) :
    (src (laneInt y e lo hi) e.f.d.toNat).at (vtSew e.vtype) i =
      intOp e.op (vtSew e.vtype) e.f.b.toNat i ((src y e.f.a.toNat).at (vtSew e.vtype) i) (laneSecond y e i)
        ((src y e.f.d.toNat).at (vtSew e.vtype) i) % 2 ^ vtSew e.vtype := by
  rw [laneInt_elementOps y lo hi h, src_putV_at _ _ _ _ _ _ (vtSew_le_or_eq hw), written_of_mem hlo hhi, if_pos hact]
  rfl

theorem laneInt_at_inactive (hw : vtSew e.vtype ≤ 64) (h : e.op ∈ elementOps) (hact : laneActive y e i = false) :
    (src (laneInt y e lo hi) e.f.d.toNat).at (vtSew e.vtype) i = (src y e.f.d.toNat).at (vtSew e.vtype) i := by
  rw [laneInt_elementOps y lo hi h, src_putV_at _ _ _ _ _ _ (vtSew_le_or_eq hw),
    written_eq_none _ _ (if_neg (ne_true_of_eq_false hact))]
  rfl

theorem laneInt_at_vsel (hw : vtSew e.vtype ≤ 64) (h : e.op = .vsel) (hlo : lo ≤ i) (hhi : i < hi) :
    (src (laneInt y e lo hi) e.f.d.toNat).at (vtSew e.vtype) i =
      if (maskBits y e.f.k.reg.toNat).getD i false ≠ e.f.k.inv then (src y e.f.a.toNat).at (vtSew e.vtype) i
      else (src y e.f.b.toNat).at (vtSew e.vtype) i := by
  rw [laneInt_vsel y lo hi h, src_putV_at _ _ _ _ _ _ (vtSew_le_or_eq hw), written_of_mem hlo hhi]
  simp only [bne_iff_ne, Option.map_some, Option.getD_some]
  exact Nat.mod_eq_of_lt (by split <;> exact src_at_lt (vtSew_le_or_eq hw) _ _)

theorem laneInt_at_outside (hw : vtSew e.vtype ≤ 64) (h : e.op ∈ elementOps ∨ e.op = .vsel) (hout : i < lo ∨ hi ≤ i) :
    (src (laneInt y e lo hi) e.f.d.toNat).at (vtSew e.vtype) i = (src y e.f.d.toNat).at (vtSew e.vtype) i := by
  obtain ⟨f, hf⟩ := laneInt_writes_elements y lo hi h
  rw [hf, src_putV_at _ _ _ _ _ _ (vtSew_le_or_eq hw), written_of_not_mem hout]
  rfl

theorem laneInt_bit_active (h : e.op ∈ compareOps) (hlo : lo ≤ i) (hhi : i < hi) (hact : laneActive y e i = true) :
    (maskBits (laneInt y e lo hi) e.f.d.toNat).getD i false =
      intRel e.op (vtSew e.vtype) ((src y e.f.a.toNat).at (vtSew e.vtype) i) (laneSecond y e i) := by
  rw [laneInt_compareOps y lo hi h, maskBits_putM_getD, written_of_mem hlo hhi, if_pos hact, Option.getD_some]

theorem laneInt_bit_inactive (h : e.op ∈ compareOps) (hact : laneActive y e i = false) :
    (maskBits (laneInt y e lo hi) e.f.d.toNat).getD i false = (maskBits y e.f.d.toNat).getD i false := by
  rw [laneInt_compareOps y lo hi h, maskBits_putM_getD, written_eq_none _ _ (if_neg (ne_true_of_eq_false hact)), Option.getD_none]

theorem laneInt_bit_maskOps (h : e.op ∈ maskOps) (hlo : lo ≤ i) (hhi : i < hi) :
    (maskBits (laneInt y e lo hi) e.f.d.toNat).getD i false =
      maskOp e.op ((maskBits y e.f.a.toNat).getD i false) ((maskBits y e.f.b.toNat).getD i false) := by
  rw [laneInt_maskOps y lo hi h, maskBits_putM_getD, written_of_mem hlo hhi, Option.getD_some]

theorem laneInt_bit_outside (h : e.op ∈ compareOps ++ maskOps) (hout : i < lo ∨ hi ≤ i) :
    (maskBits (laneInt y e lo hi) e.f.d.toNat).getD i false = (maskBits y e.f.d.toNat).getD i false := by
  obtain ⟨f, hf⟩ := laneInt_writes_bits y lo hi h
  rw [hf, maskBits_putM_getD, written_of_not_mem hout, Option.getD_none]

end

/-- Settles O35, by the one value that each instruction writes to an element or a bit, and what such a write leaves. -/
theorem integerLaneAndMaskResults : Obligations.IntegerLaneAndMaskResults := by
  unfold Obligations.IntegerLaneAndMaskResults
  intro y e lo hi i hw w d y' act a b z sgn bit
  have hz : laneSecond y e i = z := laneSecond_eq y e i
  refine ⟨fun hop => ?_, fun hop => ⟨fun hlo hhi hact => ?_, ?_⟩, fun hop => ⟨laneInt_bit_maskOps hop,
    laneInt_bit_outside (List.mem_append_right _ hop)⟩, fun hop => ?_⟩
  · obtain ⟨f, hy⟩ : ∃ f, y' = _ := laneInt_writes_elements y lo hi hop
    exact ⟨fun hne hlo hhi hact => hz ▸ laneInt_at_active hw (hop.resolve_right hne) hlo hhi hact,
      fun hne => laneInt_at_inactive hw (hop.resolve_right hne), laneInt_at_vsel hw, laneInt_at_outside hw hop,
      fun r hr hpair => hy ▸ look_putV_ne _ _ _ _ _ _ hr hpair, by simp [hy]⟩
  · have hbit : bit y' d = intRel e.op w a z := hz ▸ laneInt_bit_active hop hlo hhi hact
    have hs (v : Nat) (hv : v < 2 ^ w) : sInt w v = sgn v := sInt_eq_toInt (Nat.two_pow_pos _) hv
    have ha : sInt w a = sgn a := hs a (src_at_lt (vtSew_le_or_eq hw) _ _)
    have hz' : sInt w z = sgn z := hs z (hz ▸ laneSecond_lt y (vtSew_le_or_eq hw) i)
    simp only [compareOps, List.mem_cons, List.not_mem_nil, or_false] at hop
    rcases hop with h | h | h | h | h | h | h | h <;> simp only [hbit, intRel, h, ha, hz']
  · rw [← or_assoc]
    exact fun hout => hout.elim (laneInt_bit_outside (List.mem_append_left _ hop)) (laneInt_bit_inactive hop)
  · obtain ⟨f, hy⟩ : ∃ f, y' = _ := laneInt_writes_bits y lo hi hop
    exact hy ▸ ⟨rfl, fun r hr => look_putM_ne _ _ _ _ _ hr, rfl, rfl, rfl⟩

end Sys2Proof.Machine
